-- ==== Sys2Proof/Word.lean ====
section
/-! DEFINITION. The words of the machine and their plainest arithmetic (R1, R6). -/
namespace Sys2Proof

/-- A 64-bit register or address. -/
abbrev Word := BitVec 64
abbrev Byte := BitVec 8

/-- Bits [hi:lo] of x, as a number (R1). -/
def bitsOf (x hi lo : Nat) : Nat := (x >>> lo) % 2 ^ (hi + 1 - lo)

/-- The signed reading of an n-bit pattern (R25). -/
def sgn (n x : Nat) : Int := if x % 2 ^ n < 2 ^ (n - 1) then (x % 2 ^ n : Nat) else ((x % 2 ^ n : Nat) : Int) - (2 ^ n : Nat)

/-- The low n bits of an integer (R6: narrowing keeps the low bits). -/
def wrapTo (n : Nat) (x : Int) : Nat := (x % ((2 ^ n : Nat) : Int)).toNat

/-- An integer narrowed to a word. -/
def wordOf (x : Int) : Word := BitVec.ofInt 64 x

/-- x with bits [hi:lo] replaced by v. -/
def putBits (x hi lo v : Nat) : Nat :=
  (x - (bitsOf x hi lo) <<< lo) + (v % 2 ^ (hi + 1 - lo)) <<< lo

end Sys2Proof
end

