-- ==== Sys2Proof/Syntax.lean ====
section
/-! DEFINITION. The instructions and the device's steps, one constructor per row of spec/opcode_table.json.
Rows the table gives bits are Limvos instructions (05 R78 to R86); the other rows are steps of the
device that no word encodes (95): their operands name the page, engine, queue or function they act on.
The steps of the device stand first, the encoded instructions after them.
Register fields are their numbers, immediates the field's bits; an optional mask is ME and MS (R79). -/
namespace Sys2Proof

/-- A scalar register g0 to g31. -/
abbrev GReg := Fin 32
/-- A vector register v0 to v31. -/
abbrev VReg := Fin 32
/-- A mask register m0 to m7. -/
abbrev MReg := Fin 8
/-- A scale register k0 to k7. -/
abbrev KReg := Fin 8
/-- An accumulator tile a0 to a3. -/
abbrev AReg := Fin 4
/-- A loop counter c0 to c3. -/
abbrev CReg := Fin 4
/-- A five-bit field taken as an immediate: a scope, a status index, a trap code, a gear, a slot. -/
abbrev Fld5 := Fin 32
abbrev Imm5 := BitVec 5
abbrev Sh6 := BitVec 6
abbrev Imm13 := BitVec 13
abbrev Imm18 := BitVec 18
/-- VT[11:0] of a `setvl` or `setvlg` type; bit 12 is the mnemonic. -/
abbrev VType := BitVec 12
/-- A hart: device tile index times 8 plus slot (R14, R44). -/
abbrev HartId := Fin 4096
abbrev TileId := Fin 512
abbrev ClusterId := Fin 64
/-- Copy engine e of tile t is t times 4 plus e (R44). -/
abbrev EngineId := Fin 2048
/-- Tangent slot k of tile t is t times 4 plus k (R44). -/
abbrev TSlotId := Fin 2048
abbrev RayId := Fin 8
abbrev QueueId := Fin 65536
abbrev KernelId := Fin 4096
/-- FUNC 0 and the virtual functions 1 to 16 (R328). -/
abbrev FuncId := Fin 17
abbrev PortId := Fin 24

/-- Who makes an access (R51, R318, R324, R333). -/
inductive Agent
  | hart (h : HartId)
  | root
  | func (f : FuncId)
  | host (f : FuncId)
  | peer (n : Fin 64)
  deriving DecidableEq, Repr

/-- The register classes of a soft error (R21 ECLASS). -/
inductive RegClass | vector | mask | scale | accumulator
  deriving DecidableEq, Repr

/-- Scalar atomic operations (R102). -/
inductive AtomOp | swap | add | and | or | xor | max | min | maxu | minu | cas
  deriving DecidableEq, Repr

/-- What arrives over Flaod (R325). The width of a load or store is `2 ^ lg` bytes; of an atomic 4 or 8. -/
inductive PeerOp
  | load (lg : Fin 4)
  | store (lg : Fin 4) (v : Word)
  | atomic (op : AtomOp) (wide : Bool) (x expect : Word)
  | fadd (wide : Bool) (x : Word) (mode : BitVec 3)
  | fres
  | resolve (ok : Bool)
  | fpoll
  | bara
  | barx (n : Word)
  | barw
  deriving DecidableEq, Repr

/-- What a host request carries to a register that it changes: a value, or an AtomicOp of the completer, at 64 bits or at the low
32 (R316). -/
inductive HostPut
  | write (v : Word)
  | fetchAdd (wide : Bool) (x : Word)
  | swap (wide : Bool) (x : Word)
  | cas (wide : Bool) (expect x : Word)
  deriving DecidableEq, Repr

inductive Instr
  | fenceComplete (h : HartId)  -- FENCE_COMPLETE (R58)
  | tfenceComplete (h : HartId)  -- TFENCE_COMPLETE (R310)
  | waitWake (h : HartId)  -- WAIT_WAKE (R217)
  | qrecvWake (h : HartId)  -- QRECV_WAKE (R157)
  | tgetWake (h : HartId)  -- TGET_WAKE (R249)
  | barwReturn (h : HartId)  -- BARW_RETURN (R240)
  | sbindStart (h : HartId)  -- SBIND_START (R186)
  | sfreeAct (h : HartId)  -- SFREE_ACT (R187)
  | streamBegin (h : HartId)  -- STREAM_BEGIN (R158)
  | elementGroupComplete (h : HartId)  -- ELEMENT_GROUP_COMPLETE (R125)
  | vectorSideFault (h : HartId)  -- VECTOR_SIDE_FAULT (R164)
  | eventTaken (h : HartId)  -- EVENT_TAKEN (R212)
  | resume (h : HartId)  -- RESUME (R206)
  | stop (h : HartId)  -- STOP (R206)
  | clear (h : HartId)  -- CLEAR (R206)
  | step (h : HartId)  -- STEP (R206)
  | saveComplete (h : HartId)  -- SAVE_COMPLETE (R207)
  | slotWordStore (ag : Agent) (h : HartId) (v : Word)  -- SLOT_WORD_STORE (R221)
  | errorLogClear (ag : Agent) (t : TileId) (v : Word)  -- ERROR_LOG_CLEAR (R21)
  | controlPageWrite (ag : Agent) (pa : BitVec 48) (v : Word)  -- CONTROL_PAGE_WRITE (R54)
  | queueHeadStore (ag : Agent) (q : QueueId) (off : BitVec 14) (v : Word)  -- QUEUE_HEAD_STORE (R246)
  | queueErrClear (ag : Agent) (q : QueueId) (v : Word)  -- QUEUE_ERR_CLEAR (R246)
  | copyStripTake (e : EngineId)  -- COPY_STRIP_TAKE (R197)
  | copyStripComplete (e : EngineId)  -- COPY_STRIP_COMPLETE (R198)
  | copyStripFault (e : EngineId)  -- COPY_STRIP_FAULT (R198)
  | rayPrefetch (h : HartId) (r : RayId)  -- RAY_PREFETCH (R194)
  | rayDrain (h : HartId) (r : RayId)  -- RAY_DRAIN (R194)
  | rayEngineFault (h : HartId) (r : RayId)  -- RAY_ENGINE_FAULT (R191)
  | walkerStep (n : Nat)  -- WALKER_STEP (R234)
  | budgetExhausted (f : FuncId)  -- BUDGET_EXHAUSTED (R329)
  | worldSwitch (a b : FuncId)  -- WORLD_SWITCH (R331)
  | gearChangeEnd (t : TileId)  -- GEAR_CHANGE_END (R293)
  | arm (n : KernelId)  -- ARM (R260)
  | abort (n : KernelId)  -- ABORT (R267)
  | reset (n : KernelId)  -- RESET (R266)
  | kernelStart (n : KernelId)  -- KERNEL_START (R269)
  | launcherAppend (n : KernelId)  -- LAUNCHER_APPEND (R262)
  | closureSample (n : KernelId)  -- CLOSURE_SAMPLE (R265)
  | enable (k : TSlotId)  -- ENABLE (R275)
  | disable (k : TSlotId)  -- DISABLE (R275)
  | invalidate (k : TSlotId)  -- INVALIDATE (R275)
  | load (k : TSlotId)  -- LOAD (R275)
  | trainingStep (k : TSlotId)  -- TRAINING_STEP (R282)
  | notifyWrite (f : FuncId) (i : Fin 64) (x : HostPut)  -- NOTIFY_WRITE (R253)
  | notifyApply (f : FuncId) (i : Fin 64)  -- NOTIFY_APPLY (R253)
  | nop (q : QueueId)  -- NOP (R335)
  | launch (q : QueueId)  -- LAUNCH (R335)
  | copyHost (q : QueueId)  -- COPY_HOST (R335)
  | writeValue (q : QueueId)  -- WRITE_VALUE (R335)
  | waitValue (q : QueueId)  -- WAIT_VALUE (R335)
  | waitValueMet (q : QueueId)  -- WAIT_VALUE_MET (R335)
  | signal (q : QueueId)  -- SIGNAL (R335)
  | writeThenSignal (q : QueueId)  -- WRITE_THEN_SIGNAL (R335)
  | map (q : QueueId)  -- MAP (R335)
  | fence (q : QueueId)  -- FENCE (R335)
  | hostBar2Access (f : FuncId) (off : BitVec 30) (len : Fin 16) (w : Option HostPut)  -- HOST_BAR2_ACCESS (R318)
  | pcieCompletionTimeout (h : HartId)  -- PCIE_COMPLETION_TIMEOUT (R319)
  | functionLevelReset (f : FuncId)  -- FUNCTION_LEVEL_RESET (R321)
  | flaodInboundAccess (n : Fin 64) (off : BitVec 52) (op : PeerOp)  -- FLAOD_INBOUND_ACCESS (R324)
  | portDown (p : PortId)  -- PORT_DOWN (R326)
  | flaodRequestTimeout (h : HartId)  -- FLAOD_REQUEST_TIMEOUT (R326)
  | syncFlit (p : PortId) (offs : BitVec 8)  -- SYNC_FLIT (R327)
  | tileQuarantine (t : TileId)  -- TILE_QUARANTINE (R20)
  | softError (h : HartId) (cls : RegClass) (reg : Fin 32) (elem : BitVec 13)  -- SOFT_ERROR (R219)
  | storeUncorrectable (pa : BitVec 48)  -- STORE_UNCORRECTABLE (R21)
  | functionEnable (f : FuncId)  -- FUNCTION_ENABLE (R328)
  | handOver (f : FuncId) (sigOk : Bool) (digest : BitVec 384) (lo hi : BitVec 8)  -- HAND_OVER (R338)
  | handOverSwitch (f : FuncId)  -- HAND_OVER_SWITCH (R338)
  | powerOn (blockOk : Bool) (block : BitVec 384)  -- POWER_ON (R339)
  | getVersion  -- GET_VERSION (R340)
  | getCapabilities  -- GET_CAPABILITIES (R340)
  | negotiateAlgorithms (p384 sha384 : Bool)  -- NEGOTIATE_ALGORITHMS (R340)
  | getDigests  -- GET_DIGESTS (R340)
  | getCertificate (slot : BitVec 8)  -- GET_CERTIFICATE (R340)
  | challenge (nonce : BitVec 256)  -- CHALLENGE (R340)
  | getMeasurements (block : BitVec 8)  -- GET_MEASUREMENTS (R340)
  | leaseBegin (sigOk : Bool) (id : BitVec 128) (key : BitVec 384) (mask : BitVec 32)  -- LEASE_BEGIN (R341)
  | leaseReset (sigOk : Bool)  -- LEASE_RESET (R342)
  | leaseResetComplete  -- LEASE_RESET_COMPLETE (R341)
  | getRecord  -- GET_RECORD (R343)
  | illegalInstruction (enc : Word)  -- ILLEGAL_INSTRUCTION (R87)
  | fetchFault (perm : Bool) (va : Word)  -- FETCH_FAULT (R77)
  | dependencyReadComplete (h : HartId)  -- DEPENDENCY_READ_COMPLETE (R286)
  | clusterModeChange (n : ClusterId) (on : Bool)  -- CLUSTER_MODE_CHANGE (R63)
  | undefinedOpPacket (q : QueueId)  -- UNDEFINED_OP_PACKET (R254)
  | pciePostedWriteLoss (f : FuncId) (h : BitVec 44)  -- PCIE_POSTED_WRITE_LOSS (R319)
  | flaodPostedStoreError (n : Fin 64) (f : FuncId)  -- FLAOD_POSTED_STORE_ERROR (R324)
  | flaodPortUp (p : PortId)  -- FLAOD_PORT_UP (R327)
  | msixTableWrite (f : FuncId) (i : Fin 64) (w : Fin 2) (v : HostPut)  -- MSIX_TABLE_WRITE (R320)
  | add (d : GReg) (a : GReg) (b : GReg)  -- ADD (R91)
  | sub (d : GReg) (a : GReg) (b : GReg)  -- SUB (R91)
  | and (d : GReg) (a : GReg) (b : GReg)  -- AND (R91)
  | or (d : GReg) (a : GReg) (b : GReg)  -- OR (R91)
  | xor (d : GReg) (a : GReg) (b : GReg)  -- XOR (R91)
  | andn (d : GReg) (a : GReg) (b : GReg)  -- ANDN (R91)
  | sll (d : GReg) (a : GReg) (b : GReg)  -- SLL (R91)
  | srl (d : GReg) (a : GReg) (b : GReg)  -- SRL (R91)
  | sra (d : GReg) (a : GReg) (b : GReg)  -- SRA (R91)
  | slt (d : GReg) (a : GReg) (b : GReg)  -- SLT (R91)
  | sltu (d : GReg) (a : GReg) (b : GReg)  -- SLTU (R91)
  | min (d : GReg) (a : GReg) (b : GReg)  -- MIN (R91)
  | max (d : GReg) (a : GReg) (b : GReg)  -- MAX (R91)
  | minu (d : GReg) (a : GReg) (b : GReg)  -- MINU (R91)
  | maxu (d : GReg) (a : GReg) (b : GReg)  -- MAXU (R91)
  | mul (d : GReg) (a : GReg) (b : GReg)  -- MUL (R91)
  | mulh (d : GReg) (a : GReg) (b : GReg)  -- MULH (R91)
  | mulhu (d : GReg) (a : GReg) (b : GReg)  -- MULHU (R91)
  | mulhsu (d : GReg) (a : GReg) (b : GReg)  -- MULHSU (R91)
  | div (d : GReg) (a : GReg) (b : GReg)  -- DIV (R92)
  | divu (d : GReg) (a : GReg) (b : GReg)  -- DIVU (R92)
  | rem (d : GReg) (a : GReg) (b : GReg)  -- REM (R92)
  | remu (d : GReg) (a : GReg) (b : GReg)  -- REMU (R92)
  | clz (d : GReg) (a : GReg)  -- CLZ (R91)
  | ctz (d : GReg) (a : GReg)  -- CTZ (R91)
  | cpop (d : GReg) (a : GReg)  -- CPOP (R91)
  | addi (d : GReg) (a : GReg) (i : Imm13)  -- ADDI (R93)
  | andi (d : GReg) (a : GReg) (i : Imm13)  -- ANDI (R93)
  | ori (d : GReg) (a : GReg) (i : Imm13)  -- ORI (R93)
  | xori (d : GReg) (a : GReg) (i : Imm13)  -- XORI (R93)
  | slti (d : GReg) (a : GReg) (i : Imm13)  -- SLTI (R93)
  | sltiu (d : GReg) (a : GReg) (i : Imm13)  -- SLTIU (R93)
  | shli (d : GReg) (a : GReg) (n : Sh6)  -- SHLI (R94)
  | shri (d : GReg) (a : GReg) (n : Sh6)  -- SHRI (R94)
  | srai (d : GReg) (a : GReg) (n : Sh6)  -- SRAI (R94)
  | lhi (d : GReg) (i : Imm18)  -- LHI (R95)
  | lpc (d : GReg) (i : Imm18)  -- LPC (R95)
  | jl (d : GReg) (i : Imm18)  -- JL (R96)
  | jlr (d : GReg) (a : GReg) (i : Imm13)  -- JLR (R96)
  | beq (a : GReg) (b : GReg) (i : Imm13)  -- BEQ (R97)
  | bne (a : GReg) (b : GReg) (i : Imm13)  -- BNE (R97)
  | blt (a : GReg) (b : GReg) (i : Imm13)  -- BLT (R97)
  | bge (a : GReg) (b : GReg) (i : Imm13)  -- BGE (R97)
  | bltu (a : GReg) (b : GReg) (i : Imm13)  -- BLTU (R97)
  | bgeu (a : GReg) (b : GReg) (i : Imm13)  -- BGEU (R97)
  | ldb (d : GReg) (a : GReg) (i : Imm13)  -- LDB (R98)
  | ldbu (d : GReg) (a : GReg) (i : Imm13)  -- LDBU (R98)
  | ldh (d : GReg) (a : GReg) (i : Imm13)  -- LDH (R98)
  | ldhu (d : GReg) (a : GReg) (i : Imm13)  -- LDHU (R98)
  | ldw (d : GReg) (a : GReg) (i : Imm13)  -- LDW (R98)
  | ldwu (d : GReg) (a : GReg) (i : Imm13)  -- LDWU (R98)
  | ldd (d : GReg) (a : GReg) (i : Imm13)  -- LDD (R98)
  | stb (b : GReg) (a : GReg) (i : Imm13)  -- STB (R98)
  | sth (b : GReg) (a : GReg) (i : Imm13)  -- STH (R98)
  | stw (b : GReg) (a : GReg) (i : Imm13)  -- STW (R98)
  | std (b : GReg) (a : GReg) (i : Imm13)  -- STD (R98)
  | atswap (d : GReg) (b : GReg) (a : GReg) (wd : Bool) (aq : Bool) (rl : Bool)  -- ATSWAP (R102)
  | atadd (d : GReg) (b : GReg) (a : GReg) (wd : Bool) (aq : Bool) (rl : Bool)  -- ATADD (R102)
  | atand (d : GReg) (b : GReg) (a : GReg) (wd : Bool) (aq : Bool) (rl : Bool)  -- ATAND (R102)
  | ator (d : GReg) (b : GReg) (a : GReg) (wd : Bool) (aq : Bool) (rl : Bool)  -- ATOR (R102)
  | atxor (d : GReg) (b : GReg) (a : GReg) (wd : Bool) (aq : Bool) (rl : Bool)  -- ATXOR (R102)
  | atmax (d : GReg) (b : GReg) (a : GReg) (wd : Bool) (aq : Bool) (rl : Bool)  -- ATMAX (R102)
  | atmin (d : GReg) (b : GReg) (a : GReg) (wd : Bool) (aq : Bool) (rl : Bool)  -- ATMIN (R102)
  | atmaxu (d : GReg) (b : GReg) (a : GReg) (wd : Bool) (aq : Bool) (rl : Bool)  -- ATMAXU (R102)
  | atminu (d : GReg) (b : GReg) (a : GReg) (wd : Bool) (aq : Bool) (rl : Bool)  -- ATMINU (R102)
  | atcas (d : GReg) (b : GReg) (a : GReg) (wd : Bool) (aq : Bool) (rl : Bool)  -- ATCAS (R102)
  | fencesv (x : Fld5)  -- FENCESV (R58)
  | fencevs (x : Fld5)  -- FENCEVS (R58)
  | fencevv (x : Fld5)  -- FENCEVV (R58)
  | fenceall (x : Fld5)  -- FENCEALL (R58)
  | tfence  -- TFENCE (R310)
  | getst (d : GReg) (x : Fld5)  -- GETST (R213)
  | setst (x : Fld5) (a : GReg)  -- SETST (R213)
  | trap (x : Fld5)  -- TRAP (R214)
  | tret  -- TRET (R215)
  | exit  -- EXIT (R216)
  | wait (a : GReg)  -- WAIT (R217)
  | gear (x : Fld5)  -- GEAR (R295)
  | qrecv (d : GReg)  -- QRECV (R157)
  | spawn (d : GReg) (a : GReg) (b : GReg)  -- SPAWN (R248)
  | tget (d : GReg) (a : GReg)  -- TGET (R249)
  | fjoin (a : GReg) (b : GReg)  -- FJOIN (R230)
  | fres (a : GReg)  -- FRES (R231)
  | fpoll (d : GReg) (a : GReg)  -- FPOLL (R233)
  | bara (a : GReg)  -- BARA (R238)
  | barx (a : GReg) (b : GReg)  -- BARX (R239)
  | barw (a : GReg)  -- BARW (R240)
  | sbind (v : VReg) (a : GReg)  -- SBIND (R186)
  | sfree (v : VReg)  -- SFREE (R187)
  | sstat (d : GReg) (v : VReg)  -- SSTAT (R188)
  | scopy (d : GReg) (a : GReg) (b : GReg)  -- SCOPY (R196)
  | scopyb (d : GReg) (a : GReg) (b : GReg)  -- SCOPYB (R196)
  | apx (k : Fld5) (i : Imm13)  -- APX (R278)
  | apxend (k : Fld5)  -- APXEND (R280)
  | apxinv (k : Fld5)  -- APXINV (R281)
  | setvl (d : GReg) (a : GReg) (t : VType)  -- SETVL (R108)
  | setvlg (d : GReg) (a : GReg) (t : VType)  -- SETVLG (R224)
  | setvlr (d : GReg) (a : GReg) (b : GReg)  -- SETVLR (R108)
  | vld (d : VReg) (a : GReg) (m : Option MReg) (c : Bool)  -- VLD (R117)
  | vlds (d : VReg) (a : GReg) (b : GReg) (m : Option MReg) (c : Bool)  -- VLDS (R117)
  | vldx (d : VReg) (a : GReg) (b : VReg) (m : Option MReg) (c : Bool)  -- VLDX (R117)
  | vldff (d : VReg) (a : GReg) (m : Option MReg) (c : Bool)  -- VLDFF (R119)
  | vlseg2 (d : VReg) (a : GReg) (m : Option MReg) (c : Bool)  -- VLSEG2 (R118)
  | vlseg3 (d : VReg) (a : GReg) (m : Option MReg) (c : Bool)  -- VLSEG3 (R118)
  | vlseg4 (d : VReg) (a : GReg) (m : Option MReg) (c : Bool)  -- VLSEG4 (R118)
  | vlseg8 (d : VReg) (a : GReg) (m : Option MReg) (c : Bool)  -- VLSEG8 (R118)
  | mld (d : MReg) (a : GReg) (c : Bool)  -- MLD (R120)
  | kld (d : KReg) (a : GReg) (c : Bool)  -- KLD (R120)
  | vst (d : VReg) (a : GReg) (m : Option MReg) (c : Bool)  -- VST (R117)
  | vsts (d : VReg) (a : GReg) (b : GReg) (m : Option MReg) (c : Bool)  -- VSTS (R117)
  | vstx (d : VReg) (a : GReg) (b : VReg) (m : Option MReg) (c : Bool)  -- VSTX (R117)
  | vstxo (d : VReg) (a : GReg) (b : VReg) (m : Option MReg) (c : Bool)  -- VSTXO (R117)
  | vsseg2 (d : VReg) (a : GReg) (m : Option MReg) (c : Bool)  -- VSSEG2 (R118)
  | vsseg3 (d : VReg) (a : GReg) (m : Option MReg) (c : Bool)  -- VSSEG3 (R118)
  | vsseg4 (d : VReg) (a : GReg) (m : Option MReg) (c : Bool)  -- VSSEG4 (R118)
  | vsseg8 (d : VReg) (a : GReg) (m : Option MReg) (c : Bool)  -- VSSEG8 (R118)
  | mst (d : MReg) (a : GReg) (c : Bool)  -- MST (R120)
  | kst (d : KReg) (a : GReg) (c : Bool)  -- KST (R120)
  | vaddVv (d : VReg) (a : VReg) (b : VReg) (m : Option MReg) (c : Bool)  -- VADD_VV (R127)
  | vsubVv (d : VReg) (a : VReg) (b : VReg) (m : Option MReg) (c : Bool)  -- VSUB_VV (R127)
  | vrsubVv (d : VReg) (a : VReg) (b : VReg) (m : Option MReg) (c : Bool)  -- VRSUB_VV (R127)
  | vandVv (d : VReg) (a : VReg) (b : VReg) (m : Option MReg) (c : Bool)  -- VAND_VV (R127)
  | vorVv (d : VReg) (a : VReg) (b : VReg) (m : Option MReg) (c : Bool)  -- VOR_VV (R127)
  | vxorVv (d : VReg) (a : VReg) (b : VReg) (m : Option MReg) (c : Bool)  -- VXOR_VV (R127)
  | vsllVv (d : VReg) (a : VReg) (b : VReg) (m : Option MReg) (c : Bool)  -- VSLL_VV (R127)
  | vsrlVv (d : VReg) (a : VReg) (b : VReg) (m : Option MReg) (c : Bool)  -- VSRL_VV (R127)
  | vsraVv (d : VReg) (a : VReg) (b : VReg) (m : Option MReg) (c : Bool)  -- VSRA_VV (R127)
  | vminVv (d : VReg) (a : VReg) (b : VReg) (m : Option MReg) (c : Bool)  -- VMIN_VV (R127)
  | vmaxVv (d : VReg) (a : VReg) (b : VReg) (m : Option MReg) (c : Bool)  -- VMAX_VV (R127)
  | vminuVv (d : VReg) (a : VReg) (b : VReg) (m : Option MReg) (c : Bool)  -- VMINU_VV (R127)
  | vmaxuVv (d : VReg) (a : VReg) (b : VReg) (m : Option MReg) (c : Bool)  -- VMAXU_VV (R127)
  | vmulVv (d : VReg) (a : VReg) (b : VReg) (m : Option MReg) (c : Bool)  -- VMUL_VV (R127)
  | vmulhVv (d : VReg) (a : VReg) (b : VReg) (m : Option MReg) (c : Bool)  -- VMULH_VV (R127)
  | vmergeVv (d : VReg) (a : VReg) (b : VReg) (m : MReg) (c : Bool)  -- VMERGE_VV (R128)
  | vaddVx (d : VReg) (a : VReg) (b : GReg) (m : Option MReg) (c : Bool)  -- VADD_VX (R127)
  | vsubVx (d : VReg) (a : VReg) (b : GReg) (m : Option MReg) (c : Bool)  -- VSUB_VX (R127)
  | vrsubVx (d : VReg) (a : VReg) (b : GReg) (m : Option MReg) (c : Bool)  -- VRSUB_VX (R127)
  | vandVx (d : VReg) (a : VReg) (b : GReg) (m : Option MReg) (c : Bool)  -- VAND_VX (R127)
  | vorVx (d : VReg) (a : VReg) (b : GReg) (m : Option MReg) (c : Bool)  -- VOR_VX (R127)
  | vxorVx (d : VReg) (a : VReg) (b : GReg) (m : Option MReg) (c : Bool)  -- VXOR_VX (R127)
  | vsllVx (d : VReg) (a : VReg) (b : GReg) (m : Option MReg) (c : Bool)  -- VSLL_VX (R127)
  | vsrlVx (d : VReg) (a : VReg) (b : GReg) (m : Option MReg) (c : Bool)  -- VSRL_VX (R127)
  | vsraVx (d : VReg) (a : VReg) (b : GReg) (m : Option MReg) (c : Bool)  -- VSRA_VX (R127)
  | vminVx (d : VReg) (a : VReg) (b : GReg) (m : Option MReg) (c : Bool)  -- VMIN_VX (R127)
  | vmaxVx (d : VReg) (a : VReg) (b : GReg) (m : Option MReg) (c : Bool)  -- VMAX_VX (R127)
  | vminuVx (d : VReg) (a : VReg) (b : GReg) (m : Option MReg) (c : Bool)  -- VMINU_VX (R127)
  | vmaxuVx (d : VReg) (a : VReg) (b : GReg) (m : Option MReg) (c : Bool)  -- VMAXU_VX (R127)
  | vmulVx (d : VReg) (a : VReg) (b : GReg) (m : Option MReg) (c : Bool)  -- VMUL_VX (R127)
  | vmulhVx (d : VReg) (a : VReg) (b : GReg) (m : Option MReg) (c : Bool)  -- VMULH_VX (R127)
  | vmergeVx (d : VReg) (a : VReg) (b : GReg) (m : MReg) (c : Bool)  -- VMERGE_VX (R128)
  | vaddVi (d : VReg) (a : VReg) (i : Imm5) (m : Option MReg) (c : Bool)  -- VADD_VI (R127)
  | vsubVi (d : VReg) (a : VReg) (i : Imm5) (m : Option MReg) (c : Bool)  -- VSUB_VI (R127)
  | vrsubVi (d : VReg) (a : VReg) (i : Imm5) (m : Option MReg) (c : Bool)  -- VRSUB_VI (R127)
  | vandVi (d : VReg) (a : VReg) (i : Imm5) (m : Option MReg) (c : Bool)  -- VAND_VI (R127)
  | vorVi (d : VReg) (a : VReg) (i : Imm5) (m : Option MReg) (c : Bool)  -- VOR_VI (R127)
  | vxorVi (d : VReg) (a : VReg) (i : Imm5) (m : Option MReg) (c : Bool)  -- VXOR_VI (R127)
  | vsllVi (d : VReg) (a : VReg) (i : Imm5) (m : Option MReg) (c : Bool)  -- VSLL_VI (R127)
  | vsrlVi (d : VReg) (a : VReg) (i : Imm5) (m : Option MReg) (c : Bool)  -- VSRL_VI (R127)
  | vsraVi (d : VReg) (a : VReg) (i : Imm5) (m : Option MReg) (c : Bool)  -- VSRA_VI (R127)
  | vminVi (d : VReg) (a : VReg) (i : Imm5) (m : Option MReg) (c : Bool)  -- VMIN_VI (R127)
  | vmaxVi (d : VReg) (a : VReg) (i : Imm5) (m : Option MReg) (c : Bool)  -- VMAX_VI (R127)
  | vminuVi (d : VReg) (a : VReg) (i : Imm5) (m : Option MReg) (c : Bool)  -- VMINU_VI (R127)
  | vmaxuVi (d : VReg) (a : VReg) (i : Imm5) (m : Option MReg) (c : Bool)  -- VMAXU_VI (R127)
  | vmulVi (d : VReg) (a : VReg) (i : Imm5) (m : Option MReg) (c : Bool)  -- VMUL_VI (R127)
  | vmulhVi (d : VReg) (a : VReg) (i : Imm5) (m : Option MReg) (c : Bool)  -- VMULH_VI (R127)
  | vmergeVi (d : VReg) (a : VReg) (i : Imm5) (m : MReg) (c : Bool)  -- VMERGE_VI (R128)
  | vsadd (d : VReg) (a : VReg) (b : VReg) (m : Option MReg) (c : Bool)  -- VSADD (R129)
  | vsaddu (d : VReg) (a : VReg) (b : VReg) (m : Option MReg) (c : Bool)  -- VSADDU (R129)
  | vssub (d : VReg) (a : VReg) (b : VReg) (m : Option MReg) (c : Bool)  -- VSSUB (R129)
  | vssubu (d : VReg) (a : VReg) (b : VReg) (m : Option MReg) (c : Bool)  -- VSSUBU (R129)
  | vaadd (d : VReg) (a : VReg) (b : VReg) (m : Option MReg) (c : Bool)  -- VAADD (R129)
  | vaaddu (d : VReg) (a : VReg) (b : VReg) (m : Option MReg) (c : Bool)  -- VAADDU (R129)
  | vsmul (d : VReg) (a : VReg) (b : VReg) (m : Option MReg) (c : Bool)  -- VSMUL (R129)
  | vssrl (d : VReg) (a : VReg) (n : Imm5) (m : Option MReg) (c : Bool)  -- VSSRL (R129)
  | vssra (d : VReg) (a : VReg) (n : Imm5) (m : Option MReg) (c : Bool)  -- VSSRA (R129)
  | vnsrl (d : VReg) (a : VReg) (n : Imm5) (m : Option MReg) (c : Bool)  -- VNSRL (R129)
  | vnsra (d : VReg) (a : VReg) (n : Imm5) (m : Option MReg) (c : Bool)  -- VNSRA (R129)
  | vnclip (d : VReg) (a : VReg) (n : Imm5) (m : Option MReg) (c : Bool)  -- VNCLIP (R129)
  | vnclipu (d : VReg) (a : VReg) (n : Imm5) (m : Option MReg) (c : Bool)  -- VNCLIPU (R129)
  | vwadd (d : VReg) (a : VReg) (b : VReg) (m : Option MReg) (c : Bool)  -- VWADD (R131)
  | vwaddu (d : VReg) (a : VReg) (b : VReg) (m : Option MReg) (c : Bool)  -- VWADDU (R131)
  | vwsub (d : VReg) (a : VReg) (b : VReg) (m : Option MReg) (c : Bool)  -- VWSUB (R131)
  | vwsubu (d : VReg) (a : VReg) (b : VReg) (m : Option MReg) (c : Bool)  -- VWSUBU (R131)
  | vwmul (d : VReg) (a : VReg) (b : VReg) (m : Option MReg) (c : Bool)  -- VWMUL (R131)
  | vwmulu (d : VReg) (a : VReg) (b : VReg) (m : Option MReg) (c : Bool)  -- VWMULU (R131)
  | vwmulsu (d : VReg) (a : VReg) (b : VReg) (m : Option MReg) (c : Bool)  -- VWMULSU (R131)
  | vwmacc (d : VReg) (a : VReg) (b : VReg) (m : Option MReg) (c : Bool)  -- VWMACC (R131)
  | vwmaccu (d : VReg) (a : VReg) (b : VReg) (m : Option MReg) (c : Bool)  -- VWMACCU (R131)
  | vwmaccsu (d : VReg) (a : VReg) (b : VReg) (m : Option MReg) (c : Bool)  -- VWMACCSU (R131)
  | vqmacc (d : VReg) (a : VReg) (b : VReg) (m : Option MReg) (c : Bool)  -- VQMACC (R132)
  | vseq (d : MReg) (a : VReg) (b : VReg) (m : Option MReg) (c : Bool)  -- VSEQ (R133)
  | vsne (d : MReg) (a : VReg) (b : VReg) (m : Option MReg) (c : Bool)  -- VSNE (R133)
  | vslt (d : MReg) (a : VReg) (b : VReg) (m : Option MReg) (c : Bool)  -- VSLT (R133)
  | vsltu (d : MReg) (a : VReg) (b : VReg) (m : Option MReg) (c : Bool)  -- VSLTU (R133)
  | vsle (d : MReg) (a : VReg) (b : VReg) (m : Option MReg) (c : Bool)  -- VSLE (R133)
  | vsleu (d : MReg) (a : VReg) (b : VReg) (m : Option MReg) (c : Bool)  -- VSLEU (R133)
  | vsgt (d : MReg) (a : VReg) (b : VReg) (m : Option MReg) (c : Bool)  -- VSGT (R133)
  | vsgtu (d : MReg) (a : VReg) (b : VReg) (m : Option MReg) (c : Bool)  -- VSGTU (R133)
  | vadc (d : VReg) (a : VReg) (b : VReg) (m : Option MReg) (c : Bool)  -- VADC (R134)
  | vmadc (d : MReg) (a : VReg) (b : VReg) (m : Option MReg) (c : Bool)  -- VMADC (R134)
  | vsbc (d : VReg) (a : VReg) (b : VReg) (m : Option MReg) (c : Bool)  -- VSBC (R134)
  | vmsbc (d : MReg) (a : VReg) (b : VReg) (m : Option MReg) (c : Bool)  -- VMSBC (R134)
  | mand (d : MReg) (a : MReg) (b : MReg) (c : Bool)  -- MAND (R135)
  | mor (d : MReg) (a : MReg) (b : MReg) (c : Bool)  -- MOR (R135)
  | mxor (d : MReg) (a : MReg) (b : MReg) (c : Bool)  -- MXOR (R135)
  | mandn (d : MReg) (a : MReg) (b : MReg) (c : Bool)  -- MANDN (R135)
  | mnot (d : MReg) (a : MReg) (c : Bool)  -- MNOT (R135)
  | mshl (d : MReg) (a : MReg) (b : GReg) (c : Bool)  -- MSHL (R135)
  | mpop (d : GReg) (a : MReg) (c : Bool)  -- MPOP (R135)
  | mfirst (d : GReg) (a : MReg) (c : Bool)  -- MFIRST (R135)
  | mlast (d : GReg) (a : MReg) (c : Bool)  -- MLAST (R135)
  | mset (d : MReg) (c : Bool)  -- MSET (R135)
  | mclr (d : MReg) (c : Bool)  -- MCLR (R135)
  | mmv (d : MReg) (a : MReg) (c : Bool)  -- MMV (R135)
  | mtop (d : GReg) (a : MReg) (c : Bool)  -- MTOP (R135)
  | mfromv (d : MReg) (a : VReg) (c : Bool)  -- MFROMV (R135)
  | mtov (d : VReg) (a : MReg) (c : Bool)  -- MTOV (R135)
  | vfadd (d : VReg) (a : VReg) (b : VReg) (m : Option MReg) (c : Bool)  -- VFADD (R136)
  | vfsub (d : VReg) (a : VReg) (b : VReg) (m : Option MReg) (c : Bool)  -- VFSUB (R136)
  | vfmul (d : VReg) (a : VReg) (b : VReg) (m : Option MReg) (c : Bool)  -- VFMUL (R136)
  | vfdiv (d : VReg) (a : VReg) (b : VReg) (m : Option MReg) (c : Bool)  -- VFDIV (R136)
  | vfmin (d : VReg) (a : VReg) (b : VReg) (m : Option MReg) (c : Bool)  -- VFMIN (R137)
  | vfmax (d : VReg) (a : VReg) (b : VReg) (m : Option MReg) (c : Bool)  -- VFMAX (R137)
  | vfsqrt (d : VReg) (a : VReg) (m : Option MReg) (c : Bool)  -- VFSQRT (R136)
  | vfmacc (d : VReg) (a : VReg) (b : VReg) (m : Option MReg) (c : Bool)  -- VFMACC (R136)
  | vfnmacc (d : VReg) (a : VReg) (b : VReg) (m : Option MReg) (c : Bool)  -- VFNMACC (R136)
  | vfmsac (d : VReg) (a : VReg) (b : VReg) (m : Option MReg) (c : Bool)  -- VFMSAC (R136)
  | vfeq (d : MReg) (a : VReg) (b : VReg) (m : Option MReg) (c : Bool)  -- VFEQ (R136)
  | vflt (d : MReg) (a : VReg) (b : VReg) (m : Option MReg) (c : Bool)  -- VFLT (R136)
  | vfle (d : MReg) (a : VReg) (b : VReg) (m : Option MReg) (c : Bool)  -- VFLE (R136)
  | vfsgnj (d : VReg) (a : VReg) (b : VReg) (m : Option MReg) (c : Bool)  -- VFSGNJ (R136)
  | vfsgnjn (d : VReg) (a : VReg) (b : VReg) (m : Option MReg) (c : Bool)  -- VFSGNJN (R136)
  | vfabs (d : VReg) (a : VReg) (m : Option MReg) (c : Bool)  -- VFABS (R136)
  | vexp2 (d : VReg) (a : VReg) (m : Option MReg) (c : Bool)  -- VEXP2 (R138)
  | vlog2 (d : VReg) (a : VReg) (m : Option MReg) (c : Bool)  -- VLOG2 (R138)
  | vrcp (d : VReg) (a : VReg) (m : Option MReg) (c : Bool)  -- VRCP (R138)
  | vrsqrt (d : VReg) (a : VReg) (m : Option MReg) (c : Bool)  -- VRSQRT (R138)
  | vtanh (d : VReg) (a : VReg) (m : Option MReg) (c : Bool)  -- VTANH (R138)
  | vsigm (d : VReg) (a : VReg) (m : Option MReg) (c : Bool)  -- VSIGM (R138)
  | vslup (d : VReg) (a : VReg) (b : GReg) (m : Option MReg) (c : Bool)  -- VSLUP (R143)
  | vsldn (d : VReg) (a : VReg) (b : GReg) (m : Option MReg) (c : Bool)  -- VSLDN (R143)
  | vrgat (d : VReg) (a : VReg) (b : VReg) (m : Option MReg) (c : Bool)  -- VRGAT (R143)
  | vscat (d : VReg) (a : VReg) (b : VReg) (m : Option MReg) (c : Bool)  -- VSCAT (R144)
  | vcomp (d : VReg) (a : VReg) (m : MReg) (c : Bool)  -- VCOMP (R145)
  | vcapp (a : GReg) (b : GReg) (m : MReg) (c : Bool)  -- VCAPP (R147)
  | vredsum (d : VReg) (a : VReg) (b : VReg) (m : Option MReg) (c : Bool)  -- VREDSUM (R146)
  | vredmax (d : VReg) (a : VReg) (b : VReg) (m : Option MReg) (c : Bool)  -- VREDMAX (R146)
  | vredmin (d : VReg) (a : VReg) (b : VReg) (m : Option MReg) (c : Bool)  -- VREDMIN (R146)
  | vfredsum (d : VReg) (a : VReg) (b : VReg) (m : Option MReg) (c : Bool)  -- VFREDSUM (R146)
  | vid (d : VReg) (m : Option MReg) (c : Bool)  -- VID (R143)
  | viota (d : VReg) (a : MReg) (m : Option MReg) (c : Bool)  -- VIOTA (R143)
  | vmvsg (d : GReg) (a : VReg) (m : Option MReg) (c : Bool)  -- VMVSG (R143)
  | vmvgs (d : VReg) (a : GReg) (m : Option MReg) (c : Bool)  -- VMVGS (R143)
  | vbcast (d : VReg) (a : GReg) (m : Option MReg) (c : Bool)  -- VBCAST (R143)
  | vfredmax (d : VReg) (a : VReg) (b : VReg) (m : Option MReg) (c : Bool)  -- VFREDMAX (R146)
  | vfetch (n : BitVec 16)  -- VFETCH (R151)
  | vtfetch (n : BitVec 15) (m : MReg)  -- VTFETCH (R152)
  | vstop  -- VSTOP (R153)
  | vskip (m : MReg) (i : Imm13)  -- VSKIP (R154)
  | vlset (n : CReg) (i : Imm13)  -- VLSET (R155)
  | vlbr (n : CReg) (i : Imm13)  -- VLBR (R155)
  | vreply (m : MReg) (k : Fin 4)  -- VREPLY (R156)
  | vfetchr (a : GReg)  -- VFETCHR (R151)
  | vxadd (d : VReg) (a : GReg) (b : VReg) (m : Option MReg) (c : Bool)  -- VXADD (R121)
  | vxfadd (d : VReg) (a : GReg) (b : VReg) (m : Option MReg) (c : Bool)  -- VXFADD (R121)
  | vxmax (d : VReg) (a : GReg) (b : VReg) (m : Option MReg) (c : Bool)  -- VXMAX (R121)
  | vxmin (d : VReg) (a : GReg) (b : VReg) (m : Option MReg) (c : Bool)  -- VXMIN (R121)
  | vxand (d : VReg) (a : GReg) (b : VReg) (m : Option MReg) (c : Bool)  -- VXAND (R121)
  | vxorAtomic (d : VReg) (a : GReg) (b : VReg) (m : Option MReg) (c : Bool)  -- VXOR_ATOMIC (R121)
  | vxmaxu (d : VReg) (a : GReg) (b : VReg) (m : Option MReg) (c : Bool)  -- VXMAXU (R121)
  | vxminu (d : VReg) (a : GReg) (b : VReg) (m : Option MReg) (c : Bool)  -- VXMINU (R121)
  | vcvtf (d : VReg) (a : VReg) (m : Option MReg) (c : Bool)  -- VCVTF (R139)
  | vcvtfi (d : VReg) (a : VReg) (m : Option MReg) (c : Bool)  -- VCVTFI (R139)
  | vcvtif (d : VReg) (a : VReg) (m : Option MReg) (c : Bool)  -- VCVTIF (R139)
  | vdenc (d : VReg) (a : VReg) (m : Option MReg) (c : Bool)  -- VDENC (R140)
  | vddec (d : VReg) (a : VReg) (m : Option MReg) (c : Bool)  -- VDDEC (R139)
  | vscl (d : VReg) (a : VReg) (m : Option MReg) (c : Bool)  -- VSCL (R139)
  | vqnt (d : VReg) (a : VReg) (m : Option MReg) (c : Bool)  -- VQNT (R141)
  | mma (t : AReg) (b : VReg) (a : Fin 32) (asrc tr i32 accum : Bool) (mm1 : Fin 32) (c : Bool)  -- MMA (R174)
  | mzero (t : AReg) (c : Bool)  -- MZERO (R177)
  | mrow (d : VReg) (t : AReg) (row : Fin 32) (fmt : Fin 8) (m : Option MReg) (c : Bool)  -- MROW (R179)
  | mstr (t : AReg) (d a b : GReg) (fmt : Fin 8) (m : Option MReg) (c : Bool)  -- MSTR (R180)
  | mstx (t : AReg) (d a : GReg) (b : VReg) (fmt : Fin 8) (m : Option MReg) (c : Bool)  -- MSTX (R180)
  | cAddi (x : GReg) (n : Sh6)  -- C_ADDI (R81)
  | cLi (x : GReg) (n : Sh6)  -- C_LI (R81)
  | cMv (x : GReg) (y : GReg)  -- C_MV (R81)
  | cAdd (x : GReg) (y : GReg)  -- C_ADD (R81)
  | cSub (x : GReg) (y : GReg)  -- C_SUB (R81)
  | cAnd (x : GReg) (y : GReg)  -- C_AND (R81)
  | cShli (x : GReg) (n : Sh6)  -- C_SHLI (R81)
  | cLdd (x : GReg) (n : Sh6)  -- C_LDD (R81)
  | cStd (x : GReg) (n : Sh6)  -- C_STD (R81)
  | cBeqz (x : GReg) (n : Sh6)  -- C_BEQZ (R81)
  | cBnez (x : GReg) (n : Sh6)  -- C_BNEZ (R81)
  | cJ (o : BitVec 11)  -- C_J (R81)
  | cJlr (x : GReg) (z : Bool)  -- C_JLR (R81)
  | cVstop  -- C_VSTOP (R81)
  deriving DecidableEq, Repr

end Sys2Proof
end

