-- ==== Sys2Proof/WellFormed.lean ====
section
/-! DEFINITION. Which instructions are well formed: the limits of R81, R83, R85 and R86 that the field types do
not already state. -/
namespace Sys2Proof

/-- The limits on operand values (R85, R86, R83, R81).  Steps of the device: their widths and operands are
typed, except those whose packet or page offset must be an aligned word. -/
def Instr.wf : Instr → Bool
  | .fencesv x | .fencevs x | .fencevv x | .fenceall x => x.val ≤ 4
  | .getst _ x => x.val ≤ 17
  | .setst x _ => x.val ≤ 17 && !(12 ≤ x.val && x.val ≤ 16)
  | .gear x => x.val ≤ 1
  | .tget d _ => d.val % 4 == 0 && 4 ≤ d.val && d.val ≤ 28
  | .apx k i => k.val ≤ 3 && i.toNat ≠ 0 && i.toNat < 4096
  | .apxend k | .apxinv k => k.val ≤ 3
  | .vskip _ i => i.toNat ≠ 0
  | .mma _ _ a asrc _ _ _ _ _ => !asrc || a.val % 2 == 0
  | .mrow _ _ _ fmt _ _ => fmt.val ≠ 7
  | .mstr _ _ _ _ fmt _ _ => fmt.val ≠ 7
  | .mstx _ _ _ _ fmt _ _ => fmt.val ≠ 7
  | .cAddi x _ | .cLi x _ | .cShli x _ | .cLdd x _ => x.val ≠ 0
  | .cMv x _ | .cAdd x _ | .cSub x _ | .cAnd x _ => x.val ≠ 0
  | .controlPageWrite _ pa _ => pa.toNat % 8 == 0
  | .queueHeadStore _ _ off _ => off.toNat % 8 == 0
  | _ => true

/-- Whether some word encodes the instruction; the other constructors are steps of the device. -/
def Instr.encoded : Instr → Bool
  | .fenceComplete _ => false
  | .tfenceComplete _ => false
  | .waitWake _ => false
  | .qrecvWake _ => false
  | .tgetWake _ => false
  | .barwReturn _ => false
  | .sbindStart _ => false
  | .sfreeAct _ => false
  | .streamBegin _ => false
  | .elementGroupComplete _ => false
  | .vectorSideFault _ => false
  | .eventTaken _ => false
  | .resume _ => false
  | .stop _ => false
  | .clear _ => false
  | .step _ => false
  | .saveComplete _ => false
  | .slotWordStore _ _ _ => false
  | .errorLogClear _ _ _ => false
  | .controlPageWrite _ _ _ => false
  | .queueHeadStore _ _ _ _ => false
  | .queueErrClear _ _ _ => false
  | .copyStripTake _ => false
  | .copyStripComplete _ => false
  | .copyStripFault _ => false
  | .rayPrefetch _ _ => false
  | .rayDrain _ _ => false
  | .rayEngineFault _ _ => false
  | .walkerStep _ => false
  | .budgetExhausted _ => false
  | .worldSwitch _ _ => false
  | .gearChangeEnd _ => false
  | .arm _ => false
  | .abort _ => false
  | .reset _ => false
  | .kernelStart _ => false
  | .launcherAppend _ => false
  | .closureSample _ => false
  | .enable _ => false
  | .disable _ => false
  | .invalidate _ => false
  | .load _ => false
  | .trainingStep _ => false
  | .notifyWrite _ _ _ => false
  | .notifyApply _ _ => false
  | .nop _ => false
  | .launch _ => false
  | .copyHost _ => false
  | .writeValue _ => false
  | .waitValue _ => false
  | .waitValueMet _ => false
  | .signal _ => false
  | .writeThenSignal _ => false
  | .map _ => false
  | .fence _ => false
  | .hostBar2Access _ _ _ _ => false
  | .pcieCompletionTimeout _ => false
  | .functionLevelReset _ => false
  | .flaodInboundAccess _ _ _ => false
  | .portDown _ => false
  | .flaodRequestTimeout _ => false
  | .syncFlit _ _ => false
  | .tileQuarantine _ => false
  | .softError _ _ _ _ => false
  | .storeUncorrectable _ => false
  | .functionEnable _ => false
  | .handOver _ _ _ _ _ => false
  | .handOverSwitch _ => false
  | .powerOn _ _ => false
  | .getVersion => false
  | .getCapabilities => false
  | .negotiateAlgorithms _ _ => false
  | .getDigests => false
  | .getCertificate _ => false
  | .challenge _ => false
  | .getMeasurements _ => false
  | .leaseBegin _ _ _ _ => false
  | .leaseReset _ => false
  | .leaseResetComplete => false
  | .getRecord => false
  | .illegalInstruction _ => false
  | .fetchFault _ _ => false
  | .dependencyReadComplete _ => false
  | .clusterModeChange _ _ => false
  | .undefinedOpPacket _ => false
  | .pciePostedWriteLoss _ _ => false
  | .flaodPostedStoreError _ _ => false
  | .flaodPortUp _ => false
  | .msixTableWrite _ _ _ _ => false
  | _ => true

end Sys2Proof
end

