-- ==== Sys2Proof/Decode.lean ====
section
/-! DEFINITION. The decoder, total on any bits, and the encoder (05 R76 to R86, 09's and 10's encoding rows).
Both are written field by field from R78 (base word), R81 (compressed parcel), R82 and R83 (tile word).
`none` is a pattern that is no instruction (R87).  The section is marked noncomputable only because Lean's
compiler builds no value of an inductive with more than 244 constructors; the kernel evaluates all of it. -/
namespace Sys2Proof
noncomputable section

/-- The base word from its fields (R78). -/
def mkWord (f b a d maj : Nat) (c : Bool) : Nat :=
  1 + 4 * c.toNat + 8 * maj + 512 * d + 16384 * a + 524288 * b + 16777216 * f

/-- F of a vector R-form: ME, MS and FN (R79). -/
def maskF (m : Option MReg) (fn : Nat) : Nat :=
  match m with
  | none => fn
  | some k => 128 + 16 * k.val + fn

/-- A B-form or S-form immediate is {F, D} (R78): its high and low parts. -/
def immF (i : Imm13) : Nat := i.toNat / 32
def immD (i : Imm13) : Nat := i.toNat % 32

/-- A compressed parcel from Z, Y, X and Q (R81). -/
def mkParcel (z y x q : Nat) : Nat := 2 * q + 32 * x + 1024 * y + 32768 * z

/-- The tile prefix word P (R82). -/
def mkPrefix (acc mm1 asrc tr afmt row dfmt accum : Nat) : Nat :=
  3 + 32 * acc + 128 * mm1 + 4096 * asrc + 8192 * tr + 16384 * afmt + 65536 * row + 2097152 * dfmt + 16777216 * accum

/-- A tile instruction: the prefix in the first four bytes, then its base word (R82). -/
def mkTile (p w : Nat) : Nat := p + 4294967296 * w

/-- The words of an instruction, as one number whose bit 0 is bit 0 of the first parcel.  A step of the
device has no words: 0. -/
def encode : Instr → Nat
  | .add d a b => mkWord 0 b.val a.val d.val 1 false
  | .sub d a b => mkWord 1 b.val a.val d.val 1 false
  | .and d a b => mkWord 2 b.val a.val d.val 1 false
  | .or d a b => mkWord 3 b.val a.val d.val 1 false
  | .xor d a b => mkWord 4 b.val a.val d.val 1 false
  | .andn d a b => mkWord 5 b.val a.val d.val 1 false
  | .sll d a b => mkWord 6 b.val a.val d.val 1 false
  | .srl d a b => mkWord 7 b.val a.val d.val 1 false
  | .sra d a b => mkWord 8 b.val a.val d.val 1 false
  | .slt d a b => mkWord 9 b.val a.val d.val 1 false
  | .sltu d a b => mkWord 10 b.val a.val d.val 1 false
  | .min d a b => mkWord 11 b.val a.val d.val 1 false
  | .max d a b => mkWord 12 b.val a.val d.val 1 false
  | .minu d a b => mkWord 13 b.val a.val d.val 1 false
  | .maxu d a b => mkWord 14 b.val a.val d.val 1 false
  | .mul d a b => mkWord 16 b.val a.val d.val 1 false
  | .mulh d a b => mkWord 17 b.val a.val d.val 1 false
  | .mulhu d a b => mkWord 18 b.val a.val d.val 1 false
  | .mulhsu d a b => mkWord 19 b.val a.val d.val 1 false
  | .div d a b => mkWord 20 b.val a.val d.val 1 false
  | .divu d a b => mkWord 21 b.val a.val d.val 1 false
  | .rem d a b => mkWord 22 b.val a.val d.val 1 false
  | .remu d a b => mkWord 23 b.val a.val d.val 1 false
  | .clz d a => mkWord 24 0 a.val d.val 1 false
  | .ctz d a => mkWord 25 0 a.val d.val 1 false
  | .cpop d a => mkWord 26 0 a.val d.val 1 false
  | .addi d a i => mkWord (i.toNat / 32) (i.toNat % 32) a.val d.val 2 false
  | .andi d a i => mkWord (i.toNat / 32) (i.toNat % 32) a.val d.val 3 false
  | .ori d a i => mkWord (i.toNat / 32) (i.toNat % 32) a.val d.val 4 false
  | .xori d a i => mkWord (i.toNat / 32) (i.toNat % 32) a.val d.val 5 false
  | .slti d a i => mkWord (i.toNat / 32) (i.toNat % 32) a.val d.val 6 false
  | .sltiu d a i => mkWord (i.toNat / 32) (i.toNat % 32) a.val d.val 7 false
  | .shli d a n => mkWord (0 + n.toNat / 32) (n.toNat % 32) a.val d.val 8 false
  | .shri d a n => mkWord (2 + n.toNat / 32) (n.toNat % 32) a.val d.val 8 false
  | .srai d a n => mkWord (4 + n.toNat / 32) (n.toNat % 32) a.val d.val 8 false
  | .lhi d i => mkWord (i.toNat / 1024) (i.toNat / 32 % 32) (i.toNat % 32) d.val 9 false
  | .lpc d i => mkWord (i.toNat / 1024) (i.toNat / 32 % 32) (i.toNat % 32) d.val 10 false
  | .jl d i => mkWord (i.toNat / 1024) (i.toNat / 32 % 32) (i.toNat % 32) d.val 11 false
  | .jlr d a i => mkWord (i.toNat / 32) (i.toNat % 32) a.val d.val 12 false
  | .beq a b i => mkWord (immF i) b.val a.val (immD i) 13 false
  | .bne a b i => mkWord (immF i) b.val a.val (immD i) 14 false
  | .blt a b i => mkWord (immF i) b.val a.val (immD i) 15 false
  | .bge a b i => mkWord (immF i) b.val a.val (immD i) 16 false
  | .bltu a b i => mkWord (immF i) b.val a.val (immD i) 17 false
  | .bgeu a b i => mkWord (immF i) b.val a.val (immD i) 18 false
  | .ldb d a i => mkWord (i.toNat / 32) (i.toNat % 32) a.val d.val 19 false
  | .ldbu d a i => mkWord (i.toNat / 32) (i.toNat % 32) a.val d.val 20 false
  | .ldh d a i => mkWord (i.toNat / 32) (i.toNat % 32) a.val d.val 21 false
  | .ldhu d a i => mkWord (i.toNat / 32) (i.toNat % 32) a.val d.val 22 false
  | .ldw d a i => mkWord (i.toNat / 32) (i.toNat % 32) a.val d.val 23 false
  | .ldwu d a i => mkWord (i.toNat / 32) (i.toNat % 32) a.val d.val 24 false
  | .ldd d a i => mkWord (i.toNat / 32) (i.toNat % 32) a.val d.val 25 false
  | .stb b a i => mkWord (immF i) b.val a.val (immD i) 26 false
  | .sth b a i => mkWord (immF i) b.val a.val (immD i) 27 false
  | .stw b a i => mkWord (immF i) b.val a.val (immD i) 28 false
  | .std b a i => mkWord (immF i) b.val a.val (immD i) 29 false
  | .atswap d b a wd aq rl => mkWord (0 + 16 * wd.toNat + 32 * aq.toNat + 64 * rl.toNat) b.val a.val d.val 30 false
  | .atadd d b a wd aq rl => mkWord (1 + 16 * wd.toNat + 32 * aq.toNat + 64 * rl.toNat) b.val a.val d.val 30 false
  | .atand d b a wd aq rl => mkWord (2 + 16 * wd.toNat + 32 * aq.toNat + 64 * rl.toNat) b.val a.val d.val 30 false
  | .ator d b a wd aq rl => mkWord (3 + 16 * wd.toNat + 32 * aq.toNat + 64 * rl.toNat) b.val a.val d.val 30 false
  | .atxor d b a wd aq rl => mkWord (4 + 16 * wd.toNat + 32 * aq.toNat + 64 * rl.toNat) b.val a.val d.val 30 false
  | .atmax d b a wd aq rl => mkWord (5 + 16 * wd.toNat + 32 * aq.toNat + 64 * rl.toNat) b.val a.val d.val 30 false
  | .atmin d b a wd aq rl => mkWord (6 + 16 * wd.toNat + 32 * aq.toNat + 64 * rl.toNat) b.val a.val d.val 30 false
  | .atmaxu d b a wd aq rl => mkWord (7 + 16 * wd.toNat + 32 * aq.toNat + 64 * rl.toNat) b.val a.val d.val 30 false
  | .atminu d b a wd aq rl => mkWord (8 + 16 * wd.toNat + 32 * aq.toNat + 64 * rl.toNat) b.val a.val d.val 30 false
  | .atcas d b a wd aq rl => mkWord (9 + 16 * wd.toNat + 32 * aq.toNat + 64 * rl.toNat) b.val a.val d.val 30 false
  | .fencesv x => mkWord 0 x.val 0 0 31 false
  | .fencevs x => mkWord 1 x.val 0 0 31 false
  | .fencevv x => mkWord 2 x.val 0 0 31 false
  | .fenceall x => mkWord 3 x.val 0 0 31 false
  | .fenceComplete _ => 0
  | .tfence => mkWord 4 0 0 0 31 false
  | .tfenceComplete _ => 0
  | .getst d x => mkWord 5 x.val 0 d.val 31 false
  | .setst x a => mkWord 6 x.val a.val 0 31 false
  | .trap x => mkWord 7 x.val 0 0 31 false
  | .tret => mkWord 8 0 0 0 31 false
  | .exit => mkWord 9 0 0 0 31 false
  | .wait a => mkWord 10 0 a.val 0 31 false
  | .waitWake _ => 0
  | .gear x => mkWord 11 x.val 0 0 31 false
  | .qrecv d => mkWord 12 0 0 d.val 31 false
  | .qrecvWake _ => 0
  | .spawn d a b => mkWord 0 b.val a.val d.val 32 false
  | .tget d a => mkWord 1 0 a.val d.val 32 false
  | .tgetWake _ => 0
  | .fjoin a b => mkWord 2 b.val a.val 0 32 false
  | .fres a => mkWord 3 0 a.val 0 32 false
  | .fpoll d a => mkWord 4 0 a.val d.val 32 false
  | .bara a => mkWord 5 0 a.val 0 32 false
  | .barx a b => mkWord 6 b.val a.val 0 32 false
  | .barw a => mkWord 7 0 a.val 0 32 false
  | .barwReturn _ => 0
  | .sbind v a => mkWord 0 0 a.val v.val 33 false
  | .sbindStart _ => 0
  | .sfree v => mkWord 1 0 0 v.val 33 false
  | .sfreeAct _ => 0
  | .sstat d v => mkWord 2 0 v.val d.val 33 false
  | .scopy d a b => mkWord 3 b.val a.val d.val 33 false
  | .scopyb d a b => mkWord 4 b.val a.val d.val 33 false
  | .apx k i => mkWord (i.toNat / 32) (i.toNat % 32) k.val 0 34 false
  | .apxend k => mkWord 0 0 k.val 1 34 false
  | .apxinv k => mkWord 0 0 k.val 2 34 false
  | .setvl d a t => mkWord (t.toNat / 32) (t.toNat % 32) a.val d.val 40 false
  | .setvlg d a t => mkWord (128 + t.toNat / 32) (t.toNat % 32) a.val d.val 40 false
  | .setvlr d a b => mkWord 0 b.val a.val d.val 41 false
  | .vld d a m c => mkWord (maskF m 0) 0 a.val d.val 42 c
  | .vlds d a b m c => mkWord (maskF m 1) b.val a.val d.val 42 c
  | .vldx d a b m c => mkWord (maskF m 2) b.val a.val d.val 42 c
  | .vldff d a m c => mkWord (maskF m 3) 0 a.val d.val 42 c
  | .vlseg2 d a m c => mkWord (maskF m 4) 0 a.val d.val 42 c
  | .vlseg3 d a m c => mkWord (maskF m 5) 0 a.val d.val 42 c
  | .vlseg4 d a m c => mkWord (maskF m 6) 0 a.val d.val 42 c
  | .vlseg8 d a m c => mkWord (maskF m 7) 0 a.val d.val 42 c
  | .mld d a c => mkWord 8 0 a.val d.val 42 c
  | .kld d a c => mkWord 9 0 a.val d.val 42 c
  | .vst d a m c => mkWord (maskF m 0) 0 a.val d.val 43 c
  | .vsts d a b m c => mkWord (maskF m 1) b.val a.val d.val 43 c
  | .vstx d a b m c => mkWord (maskF m 2) b.val a.val d.val 43 c
  | .vstxo d a b m c => mkWord (maskF m 3) b.val a.val d.val 43 c
  | .vsseg2 d a m c => mkWord (maskF m 4) 0 a.val d.val 43 c
  | .vsseg3 d a m c => mkWord (maskF m 5) 0 a.val d.val 43 c
  | .vsseg4 d a m c => mkWord (maskF m 6) 0 a.val d.val 43 c
  | .vsseg8 d a m c => mkWord (maskF m 7) 0 a.val d.val 43 c
  | .mst d a c => mkWord 8 0 a.val d.val 43 c
  | .kst d a c => mkWord 9 0 a.val d.val 43 c
  | .vaddVv d a b m c => mkWord (maskF m 0) b.val a.val d.val 44 c
  | .vsubVv d a b m c => mkWord (maskF m 1) b.val a.val d.val 44 c
  | .vrsubVv d a b m c => mkWord (maskF m 2) b.val a.val d.val 44 c
  | .vandVv d a b m c => mkWord (maskF m 3) b.val a.val d.val 44 c
  | .vorVv d a b m c => mkWord (maskF m 4) b.val a.val d.val 44 c
  | .vxorVv d a b m c => mkWord (maskF m 5) b.val a.val d.val 44 c
  | .vsllVv d a b m c => mkWord (maskF m 6) b.val a.val d.val 44 c
  | .vsrlVv d a b m c => mkWord (maskF m 7) b.val a.val d.val 44 c
  | .vsraVv d a b m c => mkWord (maskF m 8) b.val a.val d.val 44 c
  | .vminVv d a b m c => mkWord (maskF m 9) b.val a.val d.val 44 c
  | .vmaxVv d a b m c => mkWord (maskF m 10) b.val a.val d.val 44 c
  | .vminuVv d a b m c => mkWord (maskF m 11) b.val a.val d.val 44 c
  | .vmaxuVv d a b m c => mkWord (maskF m 12) b.val a.val d.val 44 c
  | .vmulVv d a b m c => mkWord (maskF m 13) b.val a.val d.val 44 c
  | .vmulhVv d a b m c => mkWord (maskF m 14) b.val a.val d.val 44 c
  | .vmergeVv d a b m c => mkWord (maskF (some m) 15) b.val a.val d.val 44 c
  | .vaddVx d a b m c => mkWord (maskF m 0) b.val a.val d.val 45 c
  | .vsubVx d a b m c => mkWord (maskF m 1) b.val a.val d.val 45 c
  | .vrsubVx d a b m c => mkWord (maskF m 2) b.val a.val d.val 45 c
  | .vandVx d a b m c => mkWord (maskF m 3) b.val a.val d.val 45 c
  | .vorVx d a b m c => mkWord (maskF m 4) b.val a.val d.val 45 c
  | .vxorVx d a b m c => mkWord (maskF m 5) b.val a.val d.val 45 c
  | .vsllVx d a b m c => mkWord (maskF m 6) b.val a.val d.val 45 c
  | .vsrlVx d a b m c => mkWord (maskF m 7) b.val a.val d.val 45 c
  | .vsraVx d a b m c => mkWord (maskF m 8) b.val a.val d.val 45 c
  | .vminVx d a b m c => mkWord (maskF m 9) b.val a.val d.val 45 c
  | .vmaxVx d a b m c => mkWord (maskF m 10) b.val a.val d.val 45 c
  | .vminuVx d a b m c => mkWord (maskF m 11) b.val a.val d.val 45 c
  | .vmaxuVx d a b m c => mkWord (maskF m 12) b.val a.val d.val 45 c
  | .vmulVx d a b m c => mkWord (maskF m 13) b.val a.val d.val 45 c
  | .vmulhVx d a b m c => mkWord (maskF m 14) b.val a.val d.val 45 c
  | .vmergeVx d a b m c => mkWord (maskF (some m) 15) b.val a.val d.val 45 c
  | .vaddVi d a i m c => mkWord (maskF m 0) i.toNat a.val d.val 46 c
  | .vsubVi d a i m c => mkWord (maskF m 1) i.toNat a.val d.val 46 c
  | .vrsubVi d a i m c => mkWord (maskF m 2) i.toNat a.val d.val 46 c
  | .vandVi d a i m c => mkWord (maskF m 3) i.toNat a.val d.val 46 c
  | .vorVi d a i m c => mkWord (maskF m 4) i.toNat a.val d.val 46 c
  | .vxorVi d a i m c => mkWord (maskF m 5) i.toNat a.val d.val 46 c
  | .vsllVi d a i m c => mkWord (maskF m 6) i.toNat a.val d.val 46 c
  | .vsrlVi d a i m c => mkWord (maskF m 7) i.toNat a.val d.val 46 c
  | .vsraVi d a i m c => mkWord (maskF m 8) i.toNat a.val d.val 46 c
  | .vminVi d a i m c => mkWord (maskF m 9) i.toNat a.val d.val 46 c
  | .vmaxVi d a i m c => mkWord (maskF m 10) i.toNat a.val d.val 46 c
  | .vminuVi d a i m c => mkWord (maskF m 11) i.toNat a.val d.val 46 c
  | .vmaxuVi d a i m c => mkWord (maskF m 12) i.toNat a.val d.val 46 c
  | .vmulVi d a i m c => mkWord (maskF m 13) i.toNat a.val d.val 46 c
  | .vmulhVi d a i m c => mkWord (maskF m 14) i.toNat a.val d.val 46 c
  | .vmergeVi d a i m c => mkWord (maskF (some m) 15) i.toNat a.val d.val 46 c
  | .vsadd d a b m c => mkWord (maskF m 0) b.val a.val d.val 47 c
  | .vsaddu d a b m c => mkWord (maskF m 1) b.val a.val d.val 47 c
  | .vssub d a b m c => mkWord (maskF m 2) b.val a.val d.val 47 c
  | .vssubu d a b m c => mkWord (maskF m 3) b.val a.val d.val 47 c
  | .vaadd d a b m c => mkWord (maskF m 4) b.val a.val d.val 47 c
  | .vaaddu d a b m c => mkWord (maskF m 5) b.val a.val d.val 47 c
  | .vsmul d a b m c => mkWord (maskF m 6) b.val a.val d.val 47 c
  | .vssrl d a n m c => mkWord (maskF m 7) n.toNat a.val d.val 47 c
  | .vssra d a n m c => mkWord (maskF m 8) n.toNat a.val d.val 47 c
  | .vnsrl d a n m c => mkWord (maskF m 9) n.toNat a.val d.val 47 c
  | .vnsra d a n m c => mkWord (maskF m 10) n.toNat a.val d.val 47 c
  | .vnclip d a n m c => mkWord (maskF m 11) n.toNat a.val d.val 47 c
  | .vnclipu d a n m c => mkWord (maskF m 12) n.toNat a.val d.val 47 c
  | .vwadd d a b m c => mkWord (maskF m 0) b.val a.val d.val 48 c
  | .vwaddu d a b m c => mkWord (maskF m 1) b.val a.val d.val 48 c
  | .vwsub d a b m c => mkWord (maskF m 2) b.val a.val d.val 48 c
  | .vwsubu d a b m c => mkWord (maskF m 3) b.val a.val d.val 48 c
  | .vwmul d a b m c => mkWord (maskF m 4) b.val a.val d.val 48 c
  | .vwmulu d a b m c => mkWord (maskF m 5) b.val a.val d.val 48 c
  | .vwmulsu d a b m c => mkWord (maskF m 6) b.val a.val d.val 48 c
  | .vwmacc d a b m c => mkWord (maskF m 7) b.val a.val d.val 48 c
  | .vwmaccu d a b m c => mkWord (maskF m 8) b.val a.val d.val 48 c
  | .vwmaccsu d a b m c => mkWord (maskF m 9) b.val a.val d.val 48 c
  | .vqmacc d a b m c => mkWord (maskF m 10) b.val a.val d.val 48 c
  | .vseq d a b m c => mkWord (maskF m 0) b.val a.val d.val 49 c
  | .vsne d a b m c => mkWord (maskF m 1) b.val a.val d.val 49 c
  | .vslt d a b m c => mkWord (maskF m 2) b.val a.val d.val 49 c
  | .vsltu d a b m c => mkWord (maskF m 3) b.val a.val d.val 49 c
  | .vsle d a b m c => mkWord (maskF m 4) b.val a.val d.val 49 c
  | .vsleu d a b m c => mkWord (maskF m 5) b.val a.val d.val 49 c
  | .vsgt d a b m c => mkWord (maskF m 6) b.val a.val d.val 49 c
  | .vsgtu d a b m c => mkWord (maskF m 7) b.val a.val d.val 49 c
  | .vadc d a b m c => mkWord (maskF m 8) b.val a.val d.val 49 c
  | .vmadc d a b m c => mkWord (maskF m 9) b.val a.val d.val 49 c
  | .vsbc d a b m c => mkWord (maskF m 10) b.val a.val d.val 49 c
  | .vmsbc d a b m c => mkWord (maskF m 11) b.val a.val d.val 49 c
  | .mand d a b c => mkWord 0 b.val a.val d.val 50 c
  | .mor d a b c => mkWord 1 b.val a.val d.val 50 c
  | .mxor d a b c => mkWord 2 b.val a.val d.val 50 c
  | .mandn d a b c => mkWord 3 b.val a.val d.val 50 c
  | .mnot d a c => mkWord 4 0 a.val d.val 50 c
  | .mshl d a b c => mkWord 5 b.val a.val d.val 50 c
  | .mpop d a c => mkWord 6 0 a.val d.val 50 c
  | .mfirst d a c => mkWord 7 0 a.val d.val 50 c
  | .mlast d a c => mkWord 8 0 a.val d.val 50 c
  | .mset d c => mkWord 9 0 0 d.val 50 c
  | .mclr d c => mkWord 10 0 0 d.val 50 c
  | .mmv d a c => mkWord 11 0 a.val d.val 50 c
  | .mtop d a c => mkWord 12 0 a.val d.val 50 c
  | .mfromv d a c => mkWord 13 0 a.val d.val 50 c
  | .mtov d a c => mkWord 14 0 a.val d.val 50 c
  | .vfadd d a b m c => mkWord (maskF m 0) b.val a.val d.val 51 c
  | .vfsub d a b m c => mkWord (maskF m 1) b.val a.val d.val 51 c
  | .vfmul d a b m c => mkWord (maskF m 2) b.val a.val d.val 51 c
  | .vfdiv d a b m c => mkWord (maskF m 3) b.val a.val d.val 51 c
  | .vfmin d a b m c => mkWord (maskF m 4) b.val a.val d.val 51 c
  | .vfmax d a b m c => mkWord (maskF m 5) b.val a.val d.val 51 c
  | .vfsqrt d a m c => mkWord (maskF m 6) 0 a.val d.val 51 c
  | .vfmacc d a b m c => mkWord (maskF m 7) b.val a.val d.val 51 c
  | .vfnmacc d a b m c => mkWord (maskF m 8) b.val a.val d.val 51 c
  | .vfmsac d a b m c => mkWord (maskF m 9) b.val a.val d.val 51 c
  | .vfeq d a b m c => mkWord (maskF m 10) b.val a.val d.val 51 c
  | .vflt d a b m c => mkWord (maskF m 11) b.val a.val d.val 51 c
  | .vfle d a b m c => mkWord (maskF m 12) b.val a.val d.val 51 c
  | .vfsgnj d a b m c => mkWord (maskF m 13) b.val a.val d.val 51 c
  | .vfsgnjn d a b m c => mkWord (maskF m 14) b.val a.val d.val 51 c
  | .vfabs d a m c => mkWord (maskF m 15) 0 a.val d.val 51 c
  | .vexp2 d a m c => mkWord (maskF m 0) 0 a.val d.val 52 c
  | .vlog2 d a m c => mkWord (maskF m 1) 0 a.val d.val 52 c
  | .vrcp d a m c => mkWord (maskF m 2) 0 a.val d.val 52 c
  | .vrsqrt d a m c => mkWord (maskF m 3) 0 a.val d.val 52 c
  | .vtanh d a m c => mkWord (maskF m 4) 0 a.val d.val 52 c
  | .vsigm d a m c => mkWord (maskF m 5) 0 a.val d.val 52 c
  | .vslup d a b m c => mkWord (maskF m 0) b.val a.val d.val 53 c
  | .vsldn d a b m c => mkWord (maskF m 1) b.val a.val d.val 53 c
  | .vrgat d a b m c => mkWord (maskF m 2) b.val a.val d.val 53 c
  | .vscat d a b m c => mkWord (maskF m 3) b.val a.val d.val 53 c
  | .vcomp d a m c => mkWord (maskF (some m) 4) 0 a.val d.val 53 c
  | .vcapp a b m c => mkWord (maskF (some m) 5) b.val a.val 0 53 c
  | .vredsum d a b m c => mkWord (maskF m 6) b.val a.val d.val 53 c
  | .vredmax d a b m c => mkWord (maskF m 7) b.val a.val d.val 53 c
  | .vredmin d a b m c => mkWord (maskF m 8) b.val a.val d.val 53 c
  | .vfredsum d a b m c => mkWord (maskF m 9) b.val a.val d.val 53 c
  | .vid d m c => mkWord (maskF m 10) 0 0 d.val 53 c
  | .viota d a m c => mkWord (maskF m 11) 0 a.val d.val 53 c
  | .vmvsg d a m c => mkWord (maskF m 12) 0 a.val d.val 53 c
  | .vmvgs d a m c => mkWord (maskF m 13) 0 a.val d.val 53 c
  | .vbcast d a m c => mkWord (maskF m 14) 0 a.val d.val 53 c
  | .vfredmax d a b m c => mkWord (maskF m 15) b.val a.val d.val 53 c
  | .vfetch n => mkWord (n.toNat / 1024) (n.toNat / 32 % 32) (n.toNat % 32) 0 54 false
  | .vtfetch n m => mkWord (n.toNat / 128) (n.toNat / 4 % 32) (8 * (n.toNat % 4) + m.val) 1 54 false
  | .vstop => mkWord 0 0 0 2 54 false
  | .vskip m i => mkWord (i.toNat / 32) (i.toNat % 32) m.val 3 54 false
  | .vlset n i => mkWord (i.toNat / 32) (i.toNat % 32) n.val 4 54 false
  | .vlbr n i => mkWord (i.toNat / 32) (i.toNat % 32) n.val 5 54 false
  | .vreply m k => mkWord 0 k.val m.val 6 54 false
  | .vfetchr a => mkWord 0 0 a.val 7 54 false
  | .vxadd d a b m c => mkWord (maskF m 0) b.val a.val d.val 55 c
  | .vxfadd d a b m c => mkWord (maskF m 1) b.val a.val d.val 55 c
  | .vxmax d a b m c => mkWord (maskF m 2) b.val a.val d.val 55 c
  | .vxmin d a b m c => mkWord (maskF m 3) b.val a.val d.val 55 c
  | .vxand d a b m c => mkWord (maskF m 4) b.val a.val d.val 55 c
  | .vxorAtomic d a b m c => mkWord (maskF m 5) b.val a.val d.val 55 c
  | .vxmaxu d a b m c => mkWord (maskF m 6) b.val a.val d.val 55 c
  | .vxminu d a b m c => mkWord (maskF m 7) b.val a.val d.val 55 c
  | .vcvtf d a m c => mkWord (maskF m 0) 0 a.val d.val 56 c
  | .vcvtfi d a m c => mkWord (maskF m 1) 0 a.val d.val 56 c
  | .vcvtif d a m c => mkWord (maskF m 2) 0 a.val d.val 56 c
  | .vdenc d a m c => mkWord (maskF m 3) 0 a.val d.val 56 c
  | .vddec d a m c => mkWord (maskF m 4) 0 a.val d.val 56 c
  | .vscl d a m c => mkWord (maskF m 5) 0 a.val d.val 56 c
  | .vqnt d a m c => mkWord (maskF m 6) 0 a.val d.val 56 c
  | .mma t b a asrc tr i32 accum mm1 c => mkTile (mkPrefix t.val mm1.val asrc.toNat tr.toNat i32.toNat 0 0 accum.toNat) (mkWord 0 b.val a.val 0 62 c)
  | .mzero t c => mkTile (mkPrefix t.val 0 0 0 0 0 0 0) (mkWord 1 0 0 0 62 c)
  | .mrow d t row fmt m c => mkTile (mkPrefix t.val 0 0 0 0 row.val fmt.val 0) (mkWord (maskF m 2) 0 0 d.val 62 c)
  | .mstr t d a b fmt m c => mkTile (mkPrefix t.val 0 0 0 0 0 fmt.val 0) (mkWord (maskF m 3) b.val a.val d.val 62 c)
  | .mstx t d a b fmt m c => mkTile (mkPrefix t.val 0 0 0 0 0 fmt.val 0) (mkWord (maskF m 4) b.val a.val d.val 62 c)
  | .cAddi x n => mkParcel (n.toNat / 32) (n.toNat % 32) x.val 1
  | .cLi x n => mkParcel (n.toNat / 32) (n.toNat % 32) x.val 2
  | .cMv x y => mkParcel 0 y.val x.val 3
  | .cAdd x y => mkParcel 0 y.val x.val 4
  | .cSub x y => mkParcel 0 y.val x.val 5
  | .cAnd x y => mkParcel 0 y.val x.val 6
  | .cShli x n => mkParcel (n.toNat / 32) (n.toNat % 32) x.val 7
  | .cLdd x n => mkParcel (n.toNat / 32) (n.toNat % 32) x.val 8
  | .cStd x n => mkParcel (n.toNat / 32) (n.toNat % 32) x.val 9
  | .cBeqz x n => mkParcel (n.toNat / 32) (n.toNat % 32) x.val 10
  | .cBnez x n => mkParcel (n.toNat / 32) (n.toNat % 32) x.val 11
  | .cJ o => mkParcel (o.toNat / 1024) (o.toNat / 32 % 32) (o.toNat % 32) 12
  | .cJlr x z => mkParcel z.toNat 0 x.val 13
  | .cVstop => mkParcel 0 0 0 14
  | .streamBegin _ => 0
  | .elementGroupComplete _ => 0
  | .vectorSideFault _ => 0
  | .eventTaken _ => 0
  | .resume _ => 0
  | .stop _ => 0
  | .clear _ => 0
  | .step _ => 0
  | .saveComplete _ => 0
  | .slotWordStore _ _ _ => 0
  | .errorLogClear _ _ _ => 0
  | .controlPageWrite _ _ _ => 0
  | .queueHeadStore _ _ _ _ => 0
  | .queueErrClear _ _ _ => 0
  | .copyStripTake _ => 0
  | .copyStripComplete _ => 0
  | .copyStripFault _ => 0
  | .rayPrefetch _ _ => 0
  | .rayDrain _ _ => 0
  | .rayEngineFault _ _ => 0
  | .walkerStep _ => 0
  | .budgetExhausted _ => 0
  | .worldSwitch _ _ => 0
  | .gearChangeEnd _ => 0
  | .arm _ => 0
  | .abort _ => 0
  | .reset _ => 0
  | .kernelStart _ => 0
  | .launcherAppend _ => 0
  | .closureSample _ => 0
  | .enable _ => 0
  | .disable _ => 0
  | .invalidate _ => 0
  | .load _ => 0
  | .trainingStep _ => 0
  | .notifyWrite _ _ _ => 0
  | .notifyApply _ _ => 0
  | .nop _ => 0
  | .launch _ => 0
  | .copyHost _ => 0
  | .writeValue _ => 0
  | .waitValue _ => 0
  | .waitValueMet _ => 0
  | .signal _ => 0
  | .writeThenSignal _ => 0
  | .map _ => 0
  | .fence _ => 0
  | .hostBar2Access _ _ _ _ => 0
  | .pcieCompletionTimeout _ => 0
  | .functionLevelReset _ => 0
  | .flaodInboundAccess _ _ _ => 0
  | .portDown _ => 0
  | .flaodRequestTimeout _ => 0
  | .syncFlit _ _ => 0
  | .tileQuarantine _ => 0
  | .softError _ _ _ _ => 0
  | .storeUncorrectable _ => 0
  | .functionEnable _ => 0
  | .handOver _ _ _ _ _ => 0
  | .handOverSwitch _ => 0
  | .powerOn _ _ => 0
  | .getVersion => 0
  | .getCapabilities => 0
  | .negotiateAlgorithms _ _ => 0
  | .getDigests => 0
  | .getCertificate _ => 0
  | .challenge _ => 0
  | .getMeasurements _ => 0
  | .leaseBegin _ _ _ _ => 0
  | .leaseReset _ => 0
  | .leaseResetComplete => 0
  | .getRecord => 0
  | .illegalInstruction _ => 0
  | .fetchFault _ _ => 0
  | .dependencyReadComplete _ => 0
  | .clusterModeChange _ _ => 0
  | .undefinedOpPacket _ => 0
  | .pciePostedWriteLoss _ _ => 0
  | .flaodPostedStoreError _ _ => 0
  | .flaodPortUp _ => 0
  | .msixTableWrite _ _ _ _ => 0

/-- The mask operand of a vector R-form, or none where ME = 0 carries a nonzero MS (R79). -/
def maskOf (f : Nat) : Option (Option MReg) :=
  if f / 128 = 1 then some (some (Fin.ofNat 8 (f / 16))) else if f / 16 = 0 then some none else none

def reg (x : Nat) : Fin 32 := Fin.ofNat 32 x
def imm13Of (hi lo : Nat) : Imm13 := BitVec.ofNat 13 (32 * hi + lo)
def imm18Of (f b a : Nat) : Imm18 := BitVec.ofNat 18 (1024 * f + 32 * b + a)

/-- MAJ 0x01 by F (R85). -/
def dec01 (f b a d : Nat) : Option Instr :=
  match f with
  | 0 => some (.add (reg d) (reg a) (reg b))
  | 1 => some (.sub (reg d) (reg a) (reg b))
  | 2 => some (.and (reg d) (reg a) (reg b))
  | 3 => some (.or (reg d) (reg a) (reg b))
  | 4 => some (.xor (reg d) (reg a) (reg b))
  | 5 => some (.andn (reg d) (reg a) (reg b))
  | 6 => some (.sll (reg d) (reg a) (reg b))
  | 7 => some (.srl (reg d) (reg a) (reg b))
  | 8 => some (.sra (reg d) (reg a) (reg b))
  | 9 => some (.slt (reg d) (reg a) (reg b))
  | 10 => some (.sltu (reg d) (reg a) (reg b))
  | 11 => some (.min (reg d) (reg a) (reg b))
  | 12 => some (.max (reg d) (reg a) (reg b))
  | 13 => some (.minu (reg d) (reg a) (reg b))
  | 14 => some (.maxu (reg d) (reg a) (reg b))
  | 16 => some (.mul (reg d) (reg a) (reg b))
  | 17 => some (.mulh (reg d) (reg a) (reg b))
  | 18 => some (.mulhu (reg d) (reg a) (reg b))
  | 19 => some (.mulhsu (reg d) (reg a) (reg b))
  | 20 => some (.div (reg d) (reg a) (reg b))
  | 21 => some (.divu (reg d) (reg a) (reg b))
  | 22 => some (.rem (reg d) (reg a) (reg b))
  | 23 => some (.remu (reg d) (reg a) (reg b))
  | 24 => if b = 0 then some (.clz (reg d) (reg a)) else none
  | 25 => if b = 0 then some (.ctz (reg d) (reg a)) else none
  | 26 => if b = 0 then some (.cpop (reg d) (reg a)) else none
  | _ => none

/-- SHI: the selector is imm[7:6], imm[12:8] zero (R94). -/
def dec08 (f b a d : Nat) : Option Instr :=
  match f / 2 with
  | 0 => some (.shli (reg d) (reg a) (BitVec.ofNat 6 (32 * f + b)))
  | 1 => some (.shri (reg d) (reg a) (BitVec.ofNat 6 (32 * f + b)))
  | 2 => some (.srai (reg d) (reg a) (BitVec.ofNat 6 (32 * f + b)))
  | _ => none

/-- ATOM: F is {0, rl, aq, wd, op} (R102). -/
def dec1E (f b a d : Nat) : Option Instr :=
  if 128 ≤ f then none else
  match f % 16 with
  | 0 => some (.atswap (reg d) (reg b) (reg a) (f / 16 % 2 == 1) (f / 32 % 2 == 1) (f / 64 % 2 == 1))
  | 1 => some (.atadd (reg d) (reg b) (reg a) (f / 16 % 2 == 1) (f / 32 % 2 == 1) (f / 64 % 2 == 1))
  | 2 => some (.atand (reg d) (reg b) (reg a) (f / 16 % 2 == 1) (f / 32 % 2 == 1) (f / 64 % 2 == 1))
  | 3 => some (.ator (reg d) (reg b) (reg a) (f / 16 % 2 == 1) (f / 32 % 2 == 1) (f / 64 % 2 == 1))
  | 4 => some (.atxor (reg d) (reg b) (reg a) (f / 16 % 2 == 1) (f / 32 % 2 == 1) (f / 64 % 2 == 1))
  | 5 => some (.atmax (reg d) (reg b) (reg a) (f / 16 % 2 == 1) (f / 32 % 2 == 1) (f / 64 % 2 == 1))
  | 6 => some (.atmin (reg d) (reg b) (reg a) (f / 16 % 2 == 1) (f / 32 % 2 == 1) (f / 64 % 2 == 1))
  | 7 => some (.atmaxu (reg d) (reg b) (reg a) (f / 16 % 2 == 1) (f / 32 % 2 == 1) (f / 64 % 2 == 1))
  | 8 => some (.atminu (reg d) (reg b) (reg a) (f / 16 % 2 == 1) (f / 32 % 2 == 1) (f / 64 % 2 == 1))
  | 9 => some (.atcas (reg d) (reg b) (reg a) (f / 16 % 2 == 1) (f / 32 % 2 == 1) (f / 64 % 2 == 1))
  | _ => none

/-- MAJ 0x1F by F (R85). -/
def dec1F (f b a d : Nat) : Option Instr :=
  match f with
  | 0 => if d = 0 ∧ a = 0 then some (.fencesv (reg b)) else none
  | 1 => if d = 0 ∧ a = 0 then some (.fencevs (reg b)) else none
  | 2 => if d = 0 ∧ a = 0 then some (.fencevv (reg b)) else none
  | 3 => if d = 0 ∧ a = 0 then some (.fenceall (reg b)) else none
  | 4 => if d = 0 ∧ a = 0 ∧ b = 0 then some (.tfence) else none
  | 5 => if a = 0 then some (.getst (reg d) (reg b)) else none
  | 6 => if d = 0 then some (.setst (reg b) (reg a)) else none
  | 7 => if d = 0 ∧ a = 0 then some (.trap (reg b)) else none
  | 8 => if d = 0 ∧ a = 0 ∧ b = 0 then some (.tret) else none
  | 9 => if d = 0 ∧ a = 0 ∧ b = 0 then some (.exit) else none
  | 10 => if d = 0 ∧ b = 0 then some (.wait (reg a)) else none
  | 11 => if d = 0 ∧ a = 0 then some (.gear (reg b)) else none
  | 12 => if a = 0 ∧ b = 0 then some (.qrecv (reg d)) else none
  | _ => none

/-- MAJ 0x20 by F (R85). -/
def dec20 (f b a d : Nat) : Option Instr :=
  match f with
  | 0 => some (.spawn (reg d) (reg a) (reg b))
  | 1 => if b = 0 then some (.tget (reg d) (reg a)) else none
  | 2 => if d = 0 then some (.fjoin (reg a) (reg b)) else none
  | 3 => if d = 0 ∧ b = 0 then some (.fres (reg a)) else none
  | 4 => if b = 0 then some (.fpoll (reg d) (reg a)) else none
  | 5 => if d = 0 ∧ b = 0 then some (.bara (reg a)) else none
  | 6 => if d = 0 then some (.barx (reg a) (reg b)) else none
  | 7 => if d = 0 ∧ b = 0 then some (.barw (reg a)) else none
  | _ => none

/-- MAJ 0x21 by F (R85). -/
def dec21 (f b a d : Nat) : Option Instr :=
  match f with
  | 0 => if b = 0 then some (.sbind (reg d) (reg a)) else none
  | 1 => if a = 0 ∧ b = 0 then some (.sfree (reg d)) else none
  | 2 => if b = 0 then some (.sstat (reg d) (reg a)) else none
  | 3 => some (.scopy (reg d) (reg a) (reg b))
  | 4 => some (.scopyb (reg d) (reg a) (reg b))
  | _ => none

/-- APX: D is the sub-function (R85). -/
def dec22 (f b a d : Nat) : Option Instr :=
  match d with
  | 0 => some (.apx (reg a) (imm13Of f b))
  | 1 => if b = 0 ∧ f = 0 then some (.apxend (reg a)) else none
  | 2 => if b = 0 ∧ f = 0 then some (.apxinv (reg a)) else none
  | _ => none

/-- MAJ 0x29 by F (R85). -/
def dec29 (f b a d : Nat) : Option Instr :=
  match f with
  | 0 => some (.setvlr (reg d) (reg a) (reg b))
  | _ => none

/-- MAJ 0x2A by FN; `m` is the mask of R79 (R86). -/
def dec2A (m : Option MReg) (fn b a d : Nat) (c : Bool) : Option Instr :=
  match fn with
  | 0 => if b = 0 then some (.vld (reg d) (reg a) m c) else none
  | 1 => some (.vlds (reg d) (reg a) (reg b) m c)
  | 2 => some (.vldx (reg d) (reg a) (reg b) m c)
  | 3 => if b = 0 then some (.vldff (reg d) (reg a) m c) else none
  | 4 => if b = 0 then some (.vlseg2 (reg d) (reg a) m c) else none
  | 5 => if b = 0 then some (.vlseg3 (reg d) (reg a) m c) else none
  | 6 => if b = 0 then some (.vlseg4 (reg d) (reg a) m c) else none
  | 7 => if b = 0 then some (.vlseg8 (reg d) (reg a) m c) else none
  | 8 => if m.isNone ∧ d < 8 ∧ b = 0 then some (.mld (Fin.ofNat 8 d) (reg a) c) else none
  | 9 => if m.isNone ∧ d < 8 ∧ b = 0 then some (.kld (Fin.ofNat 8 d) (reg a) c) else none
  | _ => none

/-- MAJ 0x2B by FN; `m` is the mask of R79 (R86). -/
def dec2B (m : Option MReg) (fn b a d : Nat) (c : Bool) : Option Instr :=
  match fn with
  | 0 => if b = 0 then some (.vst (reg d) (reg a) m c) else none
  | 1 => some (.vsts (reg d) (reg a) (reg b) m c)
  | 2 => some (.vstx (reg d) (reg a) (reg b) m c)
  | 3 => some (.vstxo (reg d) (reg a) (reg b) m c)
  | 4 => if b = 0 then some (.vsseg2 (reg d) (reg a) m c) else none
  | 5 => if b = 0 then some (.vsseg3 (reg d) (reg a) m c) else none
  | 6 => if b = 0 then some (.vsseg4 (reg d) (reg a) m c) else none
  | 7 => if b = 0 then some (.vsseg8 (reg d) (reg a) m c) else none
  | 8 => if m.isNone ∧ d < 8 ∧ b = 0 then some (.mst (Fin.ofNat 8 d) (reg a) c) else none
  | 9 => if m.isNone ∧ d < 8 ∧ b = 0 then some (.kst (Fin.ofNat 8 d) (reg a) c) else none
  | _ => none

/-- MAJ 0x2C by FN; `m` is the mask of R79 (R86). -/
def dec2C (m : Option MReg) (fn b a d : Nat) (c : Bool) : Option Instr :=
  match fn with
  | 0 => some (.vaddVv (reg d) (reg a) (reg b) m c)
  | 1 => some (.vsubVv (reg d) (reg a) (reg b) m c)
  | 2 => some (.vrsubVv (reg d) (reg a) (reg b) m c)
  | 3 => some (.vandVv (reg d) (reg a) (reg b) m c)
  | 4 => some (.vorVv (reg d) (reg a) (reg b) m c)
  | 5 => some (.vxorVv (reg d) (reg a) (reg b) m c)
  | 6 => some (.vsllVv (reg d) (reg a) (reg b) m c)
  | 7 => some (.vsrlVv (reg d) (reg a) (reg b) m c)
  | 8 => some (.vsraVv (reg d) (reg a) (reg b) m c)
  | 9 => some (.vminVv (reg d) (reg a) (reg b) m c)
  | 10 => some (.vmaxVv (reg d) (reg a) (reg b) m c)
  | 11 => some (.vminuVv (reg d) (reg a) (reg b) m c)
  | 12 => some (.vmaxuVv (reg d) (reg a) (reg b) m c)
  | 13 => some (.vmulVv (reg d) (reg a) (reg b) m c)
  | 14 => some (.vmulhVv (reg d) (reg a) (reg b) m c)
  | 15 => m.map fun m => .vmergeVv (reg d) (reg a) (reg b) m c
  | _ => none

/-- MAJ 0x2D by FN; `m` is the mask of R79 (R86). -/
def dec2D (m : Option MReg) (fn b a d : Nat) (c : Bool) : Option Instr :=
  match fn with
  | 0 => some (.vaddVx (reg d) (reg a) (reg b) m c)
  | 1 => some (.vsubVx (reg d) (reg a) (reg b) m c)
  | 2 => some (.vrsubVx (reg d) (reg a) (reg b) m c)
  | 3 => some (.vandVx (reg d) (reg a) (reg b) m c)
  | 4 => some (.vorVx (reg d) (reg a) (reg b) m c)
  | 5 => some (.vxorVx (reg d) (reg a) (reg b) m c)
  | 6 => some (.vsllVx (reg d) (reg a) (reg b) m c)
  | 7 => some (.vsrlVx (reg d) (reg a) (reg b) m c)
  | 8 => some (.vsraVx (reg d) (reg a) (reg b) m c)
  | 9 => some (.vminVx (reg d) (reg a) (reg b) m c)
  | 10 => some (.vmaxVx (reg d) (reg a) (reg b) m c)
  | 11 => some (.vminuVx (reg d) (reg a) (reg b) m c)
  | 12 => some (.vmaxuVx (reg d) (reg a) (reg b) m c)
  | 13 => some (.vmulVx (reg d) (reg a) (reg b) m c)
  | 14 => some (.vmulhVx (reg d) (reg a) (reg b) m c)
  | 15 => m.map fun m => .vmergeVx (reg d) (reg a) (reg b) m c
  | _ => none

/-- MAJ 0x2E by FN; `m` is the mask of R79 (R86). -/
def dec2E (m : Option MReg) (fn b a d : Nat) (c : Bool) : Option Instr :=
  match fn with
  | 0 => some (.vaddVi (reg d) (reg a) (BitVec.ofNat 5 b) m c)
  | 1 => some (.vsubVi (reg d) (reg a) (BitVec.ofNat 5 b) m c)
  | 2 => some (.vrsubVi (reg d) (reg a) (BitVec.ofNat 5 b) m c)
  | 3 => some (.vandVi (reg d) (reg a) (BitVec.ofNat 5 b) m c)
  | 4 => some (.vorVi (reg d) (reg a) (BitVec.ofNat 5 b) m c)
  | 5 => some (.vxorVi (reg d) (reg a) (BitVec.ofNat 5 b) m c)
  | 6 => some (.vsllVi (reg d) (reg a) (BitVec.ofNat 5 b) m c)
  | 7 => some (.vsrlVi (reg d) (reg a) (BitVec.ofNat 5 b) m c)
  | 8 => some (.vsraVi (reg d) (reg a) (BitVec.ofNat 5 b) m c)
  | 9 => some (.vminVi (reg d) (reg a) (BitVec.ofNat 5 b) m c)
  | 10 => some (.vmaxVi (reg d) (reg a) (BitVec.ofNat 5 b) m c)
  | 11 => some (.vminuVi (reg d) (reg a) (BitVec.ofNat 5 b) m c)
  | 12 => some (.vmaxuVi (reg d) (reg a) (BitVec.ofNat 5 b) m c)
  | 13 => some (.vmulVi (reg d) (reg a) (BitVec.ofNat 5 b) m c)
  | 14 => some (.vmulhVi (reg d) (reg a) (BitVec.ofNat 5 b) m c)
  | 15 => m.map fun m => .vmergeVi (reg d) (reg a) (BitVec.ofNat 5 b) m c
  | _ => none

/-- MAJ 0x2F by FN; `m` is the mask of R79 (R86). -/
def dec2F (m : Option MReg) (fn b a d : Nat) (c : Bool) : Option Instr :=
  match fn with
  | 0 => some (.vsadd (reg d) (reg a) (reg b) m c)
  | 1 => some (.vsaddu (reg d) (reg a) (reg b) m c)
  | 2 => some (.vssub (reg d) (reg a) (reg b) m c)
  | 3 => some (.vssubu (reg d) (reg a) (reg b) m c)
  | 4 => some (.vaadd (reg d) (reg a) (reg b) m c)
  | 5 => some (.vaaddu (reg d) (reg a) (reg b) m c)
  | 6 => some (.vsmul (reg d) (reg a) (reg b) m c)
  | 7 => some (.vssrl (reg d) (reg a) (BitVec.ofNat 5 b) m c)
  | 8 => some (.vssra (reg d) (reg a) (BitVec.ofNat 5 b) m c)
  | 9 => some (.vnsrl (reg d) (reg a) (BitVec.ofNat 5 b) m c)
  | 10 => some (.vnsra (reg d) (reg a) (BitVec.ofNat 5 b) m c)
  | 11 => some (.vnclip (reg d) (reg a) (BitVec.ofNat 5 b) m c)
  | 12 => some (.vnclipu (reg d) (reg a) (BitVec.ofNat 5 b) m c)
  | _ => none

/-- MAJ 0x30 by FN; `m` is the mask of R79 (R86). -/
def dec30 (m : Option MReg) (fn b a d : Nat) (c : Bool) : Option Instr :=
  match fn with
  | 0 => some (.vwadd (reg d) (reg a) (reg b) m c)
  | 1 => some (.vwaddu (reg d) (reg a) (reg b) m c)
  | 2 => some (.vwsub (reg d) (reg a) (reg b) m c)
  | 3 => some (.vwsubu (reg d) (reg a) (reg b) m c)
  | 4 => some (.vwmul (reg d) (reg a) (reg b) m c)
  | 5 => some (.vwmulu (reg d) (reg a) (reg b) m c)
  | 6 => some (.vwmulsu (reg d) (reg a) (reg b) m c)
  | 7 => some (.vwmacc (reg d) (reg a) (reg b) m c)
  | 8 => some (.vwmaccu (reg d) (reg a) (reg b) m c)
  | 9 => some (.vwmaccsu (reg d) (reg a) (reg b) m c)
  | 10 => some (.vqmacc (reg d) (reg a) (reg b) m c)
  | _ => none

/-- MAJ 0x31 by FN; `m` is the mask of R79 (R86). -/
def dec31 (m : Option MReg) (fn b a d : Nat) (c : Bool) : Option Instr :=
  match fn with
  | 0 => if d < 8 then some (.vseq (Fin.ofNat 8 d) (reg a) (reg b) m c) else none
  | 1 => if d < 8 then some (.vsne (Fin.ofNat 8 d) (reg a) (reg b) m c) else none
  | 2 => if d < 8 then some (.vslt (Fin.ofNat 8 d) (reg a) (reg b) m c) else none
  | 3 => if d < 8 then some (.vsltu (Fin.ofNat 8 d) (reg a) (reg b) m c) else none
  | 4 => if d < 8 then some (.vsle (Fin.ofNat 8 d) (reg a) (reg b) m c) else none
  | 5 => if d < 8 then some (.vsleu (Fin.ofNat 8 d) (reg a) (reg b) m c) else none
  | 6 => if d < 8 then some (.vsgt (Fin.ofNat 8 d) (reg a) (reg b) m c) else none
  | 7 => if d < 8 then some (.vsgtu (Fin.ofNat 8 d) (reg a) (reg b) m c) else none
  | 8 => some (.vadc (reg d) (reg a) (reg b) m c)
  | 9 => if d < 8 then some (.vmadc (Fin.ofNat 8 d) (reg a) (reg b) m c) else none
  | 10 => some (.vsbc (reg d) (reg a) (reg b) m c)
  | 11 => if d < 8 then some (.vmsbc (Fin.ofNat 8 d) (reg a) (reg b) m c) else none
  | _ => none

/-- MAJ 0x32 by FN; `m` is the mask of R79 (R86). -/
def dec32 (m : Option MReg) (fn b a d : Nat) (c : Bool) : Option Instr :=
  match fn with
  | 0 => if m.isNone ∧ d < 8 ∧ a < 8 ∧ b < 8 then some (.mand (Fin.ofNat 8 d) (Fin.ofNat 8 a) (Fin.ofNat 8 b) c) else none
  | 1 => if m.isNone ∧ d < 8 ∧ a < 8 ∧ b < 8 then some (.mor (Fin.ofNat 8 d) (Fin.ofNat 8 a) (Fin.ofNat 8 b) c) else none
  | 2 => if m.isNone ∧ d < 8 ∧ a < 8 ∧ b < 8 then some (.mxor (Fin.ofNat 8 d) (Fin.ofNat 8 a) (Fin.ofNat 8 b) c) else none
  | 3 => if m.isNone ∧ d < 8 ∧ a < 8 ∧ b < 8 then some (.mandn (Fin.ofNat 8 d) (Fin.ofNat 8 a) (Fin.ofNat 8 b) c) else none
  | 4 => if m.isNone ∧ d < 8 ∧ a < 8 ∧ b = 0 then some (.mnot (Fin.ofNat 8 d) (Fin.ofNat 8 a) c) else none
  | 5 => if m.isNone ∧ d < 8 ∧ a < 8 then some (.mshl (Fin.ofNat 8 d) (Fin.ofNat 8 a) (reg b) c) else none
  | 6 => if m.isNone ∧ a < 8 ∧ b = 0 then some (.mpop (reg d) (Fin.ofNat 8 a) c) else none
  | 7 => if m.isNone ∧ a < 8 ∧ b = 0 then some (.mfirst (reg d) (Fin.ofNat 8 a) c) else none
  | 8 => if m.isNone ∧ a < 8 ∧ b = 0 then some (.mlast (reg d) (Fin.ofNat 8 a) c) else none
  | 9 => if m.isNone ∧ d < 8 ∧ a = 0 ∧ b = 0 then some (.mset (Fin.ofNat 8 d) c) else none
  | 10 => if m.isNone ∧ d < 8 ∧ a = 0 ∧ b = 0 then some (.mclr (Fin.ofNat 8 d) c) else none
  | 11 => if m.isNone ∧ d < 8 ∧ a < 8 ∧ b = 0 then some (.mmv (Fin.ofNat 8 d) (Fin.ofNat 8 a) c) else none
  | 12 => if m.isNone ∧ a < 8 ∧ b = 0 then some (.mtop (reg d) (Fin.ofNat 8 a) c) else none
  | 13 => if m.isNone ∧ d < 8 ∧ b = 0 then some (.mfromv (Fin.ofNat 8 d) (reg a) c) else none
  | 14 => if m.isNone ∧ a < 8 ∧ b = 0 then some (.mtov (reg d) (Fin.ofNat 8 a) c) else none
  | _ => none

/-- MAJ 0x33 by FN; `m` is the mask of R79 (R86). -/
def dec33 (m : Option MReg) (fn b a d : Nat) (c : Bool) : Option Instr :=
  match fn with
  | 0 => some (.vfadd (reg d) (reg a) (reg b) m c)
  | 1 => some (.vfsub (reg d) (reg a) (reg b) m c)
  | 2 => some (.vfmul (reg d) (reg a) (reg b) m c)
  | 3 => some (.vfdiv (reg d) (reg a) (reg b) m c)
  | 4 => some (.vfmin (reg d) (reg a) (reg b) m c)
  | 5 => some (.vfmax (reg d) (reg a) (reg b) m c)
  | 6 => if b = 0 then some (.vfsqrt (reg d) (reg a) m c) else none
  | 7 => some (.vfmacc (reg d) (reg a) (reg b) m c)
  | 8 => some (.vfnmacc (reg d) (reg a) (reg b) m c)
  | 9 => some (.vfmsac (reg d) (reg a) (reg b) m c)
  | 10 => if d < 8 then some (.vfeq (Fin.ofNat 8 d) (reg a) (reg b) m c) else none
  | 11 => if d < 8 then some (.vflt (Fin.ofNat 8 d) (reg a) (reg b) m c) else none
  | 12 => if d < 8 then some (.vfle (Fin.ofNat 8 d) (reg a) (reg b) m c) else none
  | 13 => some (.vfsgnj (reg d) (reg a) (reg b) m c)
  | 14 => some (.vfsgnjn (reg d) (reg a) (reg b) m c)
  | 15 => if b = 0 then some (.vfabs (reg d) (reg a) m c) else none
  | _ => none

/-- MAJ 0x34 by FN; `m` is the mask of R79 (R86). -/
def dec34 (m : Option MReg) (fn b a d : Nat) (c : Bool) : Option Instr :=
  match fn with
  | 0 => if b = 0 then some (.vexp2 (reg d) (reg a) m c) else none
  | 1 => if b = 0 then some (.vlog2 (reg d) (reg a) m c) else none
  | 2 => if b = 0 then some (.vrcp (reg d) (reg a) m c) else none
  | 3 => if b = 0 then some (.vrsqrt (reg d) (reg a) m c) else none
  | 4 => if b = 0 then some (.vtanh (reg d) (reg a) m c) else none
  | 5 => if b = 0 then some (.vsigm (reg d) (reg a) m c) else none
  | _ => none

/-- MAJ 0x35 by FN; `m` is the mask of R79 (R86). -/
def dec35 (m : Option MReg) (fn b a d : Nat) (c : Bool) : Option Instr :=
  match fn with
  | 0 => some (.vslup (reg d) (reg a) (reg b) m c)
  | 1 => some (.vsldn (reg d) (reg a) (reg b) m c)
  | 2 => some (.vrgat (reg d) (reg a) (reg b) m c)
  | 3 => some (.vscat (reg d) (reg a) (reg b) m c)
  | 4 => if b = 0 then m.map fun m => .vcomp (reg d) (reg a) m c else none
  | 5 => if d = 0 then m.map fun m => .vcapp (reg a) (reg b) m c else none
  | 6 => some (.vredsum (reg d) (reg a) (reg b) m c)
  | 7 => some (.vredmax (reg d) (reg a) (reg b) m c)
  | 8 => some (.vredmin (reg d) (reg a) (reg b) m c)
  | 9 => some (.vfredsum (reg d) (reg a) (reg b) m c)
  | 10 => if a = 0 ∧ b = 0 then some (.vid (reg d) m c) else none
  | 11 => if a < 8 ∧ b = 0 then some (.viota (reg d) (Fin.ofNat 8 a) m c) else none
  | 12 => if b = 0 then some (.vmvsg (reg d) (reg a) m c) else none
  | 13 => if b = 0 then some (.vmvgs (reg d) (reg a) m c) else none
  | 14 => if b = 0 then some (.vbcast (reg d) (reg a) m c) else none
  | 15 => some (.vfredmax (reg d) (reg a) (reg b) m c)
  | _ => none

/-- VCTL: D is the sub-function (R86). -/
def dec36 (f b a d : Nat) : Option Instr :=
  match d with
  | 0 => if f < 64 then some (.vfetch (BitVec.ofNat 16 (1024 * f + 32 * b + a))) else none
  | 1 => some (.vtfetch (BitVec.ofNat 15 (128 * f + 4 * b + a / 8)) (Fin.ofNat 8 a))
  | 2 => if a = 0 ∧ b = 0 ∧ f = 0 then some (.vstop) else none
  | 3 => if a < 8 then some (.vskip (Fin.ofNat 8 a) (imm13Of f b)) else none
  | 4 => if a < 4 then some (.vlset (Fin.ofNat 4 a) (imm13Of f b)) else none
  | 5 => if a < 4 then some (.vlbr (Fin.ofNat 4 a) (imm13Of f b)) else none
  | 6 => if a < 8 ∧ b < 4 ∧ f = 0 then some (.vreply (Fin.ofNat 8 a) (Fin.ofNat 4 b)) else none
  | 7 => if b = 0 ∧ f = 0 then some (.vfetchr (reg a)) else none
  | _ => none

/-- MAJ 0x37 by FN; `m` is the mask of R79 (R86). -/
def dec37 (m : Option MReg) (fn b a d : Nat) (c : Bool) : Option Instr :=
  match fn with
  | 0 => some (.vxadd (reg d) (reg a) (reg b) m c)
  | 1 => some (.vxfadd (reg d) (reg a) (reg b) m c)
  | 2 => some (.vxmax (reg d) (reg a) (reg b) m c)
  | 3 => some (.vxmin (reg d) (reg a) (reg b) m c)
  | 4 => some (.vxand (reg d) (reg a) (reg b) m c)
  | 5 => some (.vxorAtomic (reg d) (reg a) (reg b) m c)
  | 6 => some (.vxmaxu (reg d) (reg a) (reg b) m c)
  | 7 => some (.vxminu (reg d) (reg a) (reg b) m c)
  | _ => none

/-- MAJ 0x38 by FN; `m` is the mask of R79 (R86). -/
def dec38 (m : Option MReg) (fn b a d : Nat) (c : Bool) : Option Instr :=
  match fn with
  | 0 => if b = 0 then some (.vcvtf (reg d) (reg a) m c) else none
  | 1 => if b = 0 then some (.vcvtfi (reg d) (reg a) m c) else none
  | 2 => if b = 0 then some (.vcvtif (reg d) (reg a) m c) else none
  | 3 => if b = 0 then some (.vdenc (reg d) (reg a) m c) else none
  | 4 => if b = 0 then some (.vddec (reg d) (reg a) m c) else none
  | 5 => if b = 0 then some (.vscl (reg d) (reg a) m c) else none
  | 6 => if b = 0 then some (.vqnt (reg d) (reg a) m c) else none
  | _ => none

/-- A base word of any major but TILE (R84); a major that may not carry C refuses it (R87). -/
def decodeFields (c : Bool) (maj d a b f : Nat) : Option Instr :=
  match maj with
  | 1 => if c then none else dec01 f b a d
  | 2 => if c then none else some (.addi (reg d) (reg a) (imm13Of f b))
  | 3 => if c then none else some (.andi (reg d) (reg a) (imm13Of f b))
  | 4 => if c then none else some (.ori (reg d) (reg a) (imm13Of f b))
  | 5 => if c then none else some (.xori (reg d) (reg a) (imm13Of f b))
  | 6 => if c then none else some (.slti (reg d) (reg a) (imm13Of f b))
  | 7 => if c then none else some (.sltiu (reg d) (reg a) (imm13Of f b))
  | 8 => if c then none else dec08 f b a d
  | 9 => if c then none else some (.lhi (reg d) (imm18Of f b a))
  | 10 => if c then none else some (.lpc (reg d) (imm18Of f b a))
  | 11 => if c then none else some (.jl (reg d) (imm18Of f b a))
  | 12 => if c then none else some (.jlr (reg d) (reg a) (imm13Of f b))
  | 13 => if c then none else some (.beq (reg a) (reg b) (imm13Of f d))
  | 14 => if c then none else some (.bne (reg a) (reg b) (imm13Of f d))
  | 15 => if c then none else some (.blt (reg a) (reg b) (imm13Of f d))
  | 16 => if c then none else some (.bge (reg a) (reg b) (imm13Of f d))
  | 17 => if c then none else some (.bltu (reg a) (reg b) (imm13Of f d))
  | 18 => if c then none else some (.bgeu (reg a) (reg b) (imm13Of f d))
  | 19 => if c then none else some (.ldb (reg d) (reg a) (imm13Of f b))
  | 20 => if c then none else some (.ldbu (reg d) (reg a) (imm13Of f b))
  | 21 => if c then none else some (.ldh (reg d) (reg a) (imm13Of f b))
  | 22 => if c then none else some (.ldhu (reg d) (reg a) (imm13Of f b))
  | 23 => if c then none else some (.ldw (reg d) (reg a) (imm13Of f b))
  | 24 => if c then none else some (.ldwu (reg d) (reg a) (imm13Of f b))
  | 25 => if c then none else some (.ldd (reg d) (reg a) (imm13Of f b))
  | 26 => if c then none else some (.stb (reg b) (reg a) (imm13Of f d))
  | 27 => if c then none else some (.sth (reg b) (reg a) (imm13Of f d))
  | 28 => if c then none else some (.stw (reg b) (reg a) (imm13Of f d))
  | 29 => if c then none else some (.std (reg b) (reg a) (imm13Of f d))
  | 30 => if c then none else dec1E f b a d
  | 31 => if c then none else dec1F f b a d
  | 32 => if c then none else dec20 f b a d
  | 33 => if c then none else dec21 f b a d
  | 34 => if c then none else dec22 f b a d
  | 40 => if c then none else if f < 128 then some (.setvl (reg d) (reg a) (BitVec.ofNat 12 (32 * f + b))) else some (.setvlg (reg d) (reg a) (BitVec.ofNat 12 (32 * (f - 128) + b)))
  | 41 => if c then none else dec29 f b a d
  | 42 => (maskOf f).bind fun m => dec2A m (f % 16) b a d c
  | 43 => (maskOf f).bind fun m => dec2B m (f % 16) b a d c
  | 44 => (maskOf f).bind fun m => dec2C m (f % 16) b a d c
  | 45 => (maskOf f).bind fun m => dec2D m (f % 16) b a d c
  | 46 => (maskOf f).bind fun m => dec2E m (f % 16) b a d c
  | 47 => (maskOf f).bind fun m => dec2F m (f % 16) b a d c
  | 48 => (maskOf f).bind fun m => dec30 m (f % 16) b a d c
  | 49 => (maskOf f).bind fun m => dec31 m (f % 16) b a d c
  | 50 => (maskOf f).bind fun m => dec32 m (f % 16) b a d c
  | 51 => (maskOf f).bind fun m => dec33 m (f % 16) b a d c
  | 52 => (maskOf f).bind fun m => dec34 m (f % 16) b a d c
  | 53 => (maskOf f).bind fun m => dec35 m (f % 16) b a d c
  | 54 => if c then none else dec36 f b a d
  | 55 => (maskOf f).bind fun m => dec37 m (f % 16) b a d c
  | 56 => (maskOf f).bind fun m => dec38 m (f % 16) b a d c
  | _ => none

def decode32 (w : Nat) : Option Instr :=
  decodeFields (w / 4 % 2 == 1) (w / 8 % 64) (w / 512 % 32) (w / 16384 % 32) (w / 524288 % 32) (w / 16777216 % 256)

/-- The compressed parcel (R81). -/
def decodeParcel (z y x q : Nat) : Option Instr :=
  match q with
  | 1 => if x ≠ 0 then some (.cAddi (reg x) (BitVec.ofNat 6 (32 * z + y))) else none
  | 2 => if x ≠ 0 then some (.cLi (reg x) (BitVec.ofNat 6 (32 * z + y))) else none
  | 3 => if z = 0 ∧ x ≠ 0 then some (.cMv (reg x) (reg y)) else none
  | 4 => if z = 0 ∧ x ≠ 0 then some (.cAdd (reg x) (reg y)) else none
  | 5 => if z = 0 ∧ x ≠ 0 then some (.cSub (reg x) (reg y)) else none
  | 6 => if z = 0 ∧ x ≠ 0 then some (.cAnd (reg x) (reg y)) else none
  | 7 => if x ≠ 0 then some (.cShli (reg x) (BitVec.ofNat 6 (32 * z + y))) else none
  | 8 => if x ≠ 0 then some (.cLdd (reg x) (BitVec.ofNat 6 (32 * z + y))) else none
  | 9 => some (.cStd (reg x) (BitVec.ofNat 6 (32 * z + y)))
  | 10 => some (.cBeqz (reg x) (BitVec.ofNat 6 (32 * z + y)))
  | 11 => some (.cBnez (reg x) (BitVec.ofNat 6 (32 * z + y)))
  | 12 => some (.cJ (BitVec.ofNat 11 (1024 * z + 32 * y + x)))
  | 13 => if y = 0 then some (.cJlr (reg x) (z == 1)) else none
  | 14 => if z = 0 ∧ y = 0 ∧ x = 0 then some .cVstop else none
  | _ => none

def decode16 (p : Nat) : Option Instr :=
  decodeParcel (p / 32768 % 2) (p / 1024 % 32) (p / 32 % 32) (p / 2 % 16)

/-- A tile word from P's fields and the base word's (R82, R83). -/
def decodeTile (acc mm1 asrc tr afmt row dfmt accum : Nat) (c : Bool) (d a b f : Nat) : Option Instr :=
  (maskOf f).bind fun m =>
  match f % 16 with
  | 0 => if m.isNone ∧ d = 0 ∧ row = 0 ∧ dfmt = 0 ∧ afmt < 2 ∧ (asrc = 1 → a % 2 = 0) then
      some (.mma (Fin.ofNat 4 acc) (reg b) (reg a) (asrc == 1) (tr == 1) (afmt == 1) (accum == 1) (reg mm1) c) else none
  | 1 => if m.isNone ∧ d = 0 ∧ a = 0 ∧ b = 0 ∧ mm1 = 0 ∧ asrc = 0 ∧ tr = 0 ∧ afmt = 0 ∧ row = 0 ∧ dfmt = 0 ∧ accum = 0 then
      some (.mzero (Fin.ofNat 4 acc) c) else none
  | 2 => if a = 0 ∧ b = 0 ∧ mm1 = 0 ∧ asrc = 0 ∧ tr = 0 ∧ afmt = 0 ∧ accum = 0 ∧ dfmt < 7 then
      some (.mrow (reg d) (Fin.ofNat 4 acc) (reg row) (Fin.ofNat 8 dfmt) m c) else none
  | 3 => if mm1 = 0 ∧ asrc = 0 ∧ tr = 0 ∧ afmt = 0 ∧ row = 0 ∧ accum = 0 ∧ dfmt < 7 then
      some (.mstr (Fin.ofNat 4 acc) (reg d) (reg a) (reg b) (Fin.ofNat 8 dfmt) m c) else none
  | 4 => if mm1 = 0 ∧ asrc = 0 ∧ tr = 0 ∧ afmt = 0 ∧ row = 0 ∧ accum = 0 ∧ dfmt < 7 then
      some (.mstx (Fin.ofNat 4 acc) (reg d) (reg a) (reg b) (Fin.ofNat 8 dfmt) m c) else none
  | _ => none

/-- A prefix and the base word after it (R82): CLASS, AFMT and P[31:25] checked, MAJ 0x3E required (R87). -/
def decode64 (x : Nat) : Option Instr :=
  let p := x % 4294967296
  let w := x / 4294967296
  if p / 4 % 8 = 0 ∧ p / 33554432 % 128 = 0 ∧ w % 4 = 1 ∧ w / 8 % 64 = 62 then
    decodeTile (p / 32 % 4) (p / 128 % 32) (p / 4096 % 2) (p / 8192 % 2) (p / 16384 % 4) (p / 65536 % 32) (p / 2097152 % 8)
      (p / 16777216 % 2) (w / 4 % 2 == 1) (w / 512 % 32) (w / 16384 % 32) (w / 524288 % 32) (w / 16777216 % 256)
  else none

/-- Bytes of the instruction whose first parcel is the low 16 bits of x (R76). -/
def parcelLen (x : Nat) : Nat := if x % 2 = 0 then 2 else if x % 4 = 1 then 4 else 8

/-- An instruction outside the limits of R85, R86 and R83 is an illegal instruction (R87). -/
def legal (i : Instr) : Option Instr := if i.wf then some i else none

/-- The instruction that the bits x begin with, bit 0 the lowest bit of the first parcel; bits above it are
not read.  None: no instruction (R87). -/
def decode (x : Nat) : Option Instr :=
  (if x % 2 = 0 then decode16 (x % 65536)
   else if x % 4 = 1 then decode32 (x % 4294967296)
   else decode64 (x % 18446744073709551616)).bind legal

/-- The host's question: the instruction whose bits are w, numbered as the opcode table numbers them. -/
def decodeTableWord (nbits w : Nat) : Option Instr := decode (w % 2 ^ nbits)

/-- Length in bytes (R76); a step of the device has none. -/
def instrLen (i : Instr) : Nat := if encode i = 0 then 0 else parcelLen (encode i)

end
end Sys2Proof
end

