-- ==== Sys2Proof/Config.lean ====
section
/-! DEFINITION. What the spec leaves open as a value.  Each is opaque: nothing can evaluate it, so a statement
that holds, holds for every value.  The first argument `now` is the model's own counter of steps
(log entries 9 to 16). -/
namespace Sys2Proof.Config

/-- Nanoseconds that TICK advances in the step numbered `now` (R205, R327; log 10). -/
opaque tickDelta (now : Nat) : BitVec 16
/-- Clock periods of tile `t` in the step numbered `now` (R205, R289; log 11). -/
opaque cycDelta (t now : Nat) : BitVec 16
/-- Which translation the walker of an access to `va` uses for the entry at `ea` in the step numbered `now`: 0 the new
one, n + 1 one cached from the n-th old value (R308, R313; log 6). -/
opaque oldXlat (now va ea : Nat) : Nat
/-- For a byte of a copy whose ranges overlap: whether it receives the byte the copy has already written
there rather than the original (R197; log 13). -/
opaque overlapNew (now a : Nat) : Bool
/-- Whether the store of an element in the faulting group, other than the faulting one, was performed
(R115; log 21). -/
opaque groupStored (now i : Nat) : Bool
/-- Which of two stores to one byte that VPs make with no join point between them is performed last (R159; log 70). -/
opaque laterWins (now a : Nat) : Bool
/-- Bytes that the host's memory or a peer returns to a read (R319, R324; log 12). -/
opaque outsideByte (now a : Nat) : Byte
/-- A field of an error or event report that the spec gives no value (R254, R256, R338, R341; log 24). -/
opaque openField (now k : Nat) : BitVec 64
/-- What `apx` reads for element i of register r while r is bound to a ray and so holds no value (R183, R278; log 42). -/
opaque boundElem (now r i : Nat) : BitVec 32
/-- Whether the root core allots page n of a kind (0 context, 1 queue, 2 kernel, 3 tangent slot) to function f
(R328; log 25). -/
opaque allotted (now f kind n : Nat) : Bool
/-- The reach window words that the root core gives to the L0 frame `frame` when it enables a function: word i of window n
(R328; log 25). -/
opaque windowGiven (now frame n i : Nat) : BitVec 64
/-- Whether the core of function f is reset to the image that was verified for the lease (R336). -/
opaque keepsImage (now f : Nat) : Bool
/-- Whether an HBM address lies in the secure ranges (R342; log 26). -/
opaque secureHbm (a : Nat) : Bool
/-- The digest that enrolling a lease extends MX4 with (R339, R341; log 15). -/
opaque enrolDigest (id : BitVec 128) (key : BitVec 384) (mask : BitVec 32) : BitVec 384
/-- The function that SHA-384 computes on a string of `n` bytes, given as a number (R339; log 14). -/
opaque sha384 (n : Nat) (bytes : Nat) : BitVec 384
/-- ECDSA P-384 by the device identity key over a digest: r and s (R343; log 14). -/
opaque sign (digest : BitVec 384) : BitVec 384 × BitVec 384
/-- The key of slot 0 that the management core derives from the PUF (R334, R339; log 14). -/
opaque slot0Key : BitVec 512
/-- The digest of the root core image and of the ROM function image in the image ROM (R339; log 14). -/
opaque romDigest (i : Bool) : BitVec 384
/-- Certificate slot 0 up to the device identity key, and that public key, x and y of P-384 (R339, R340; log 15). -/
opaque certChain : List (BitVec 8)
opaque deviceKey : BitVec 768
/-- Contents of an SPDM response that the spec does not state (R340; log 15). -/
opaque spdmBody (request : Nat) (now : Nat) : List (BitVec 8)

end Sys2Proof.Config
end

