-- ==== Sys2Proof/Machine/Cipher.lean ====
section
/-! DEFINITION. AES-256 and its XTS mode, by which lines of HBM are encrypted (19 R302, 21 R334).  The spec names
AES-256-XTS and gives the data unit and the tweak; the algorithm itself is FIPS 197 and IEEE 1619 (PRESUMED, log 9). -/
namespace Sys2Proof.Machine.Cipher

/-- Product in GF(2^8) modulo x^8 + x^4 + x^3 + x + 1. -/
def gmul : Nat → Nat → Nat → Nat
  | 0, _, _ => 0
  | n + 1, a, b =>
    (if b % 2 = 1 then a else 0) ^^^ gmul n (if 128 ≤ a then (2 * a) % 256 ^^^ 0x1B else 2 * a) (b / 2)
def mul (a b : Nat) : Nat := gmul 8 a b
/-- The inverse a^254, and 0 for 0. -/
def inv (a : Nat) : Nat :=
  let a2 := mul a a
  let a3 := mul a2 a
  let a6 := mul a3 a3
  let a12 := mul a6 a6
  let a15 := mul a12 a3
  let a30 := mul a15 a15
  let a60 := mul a30 a30
  let a120 := mul a60 a60
  let a126 := mul a120 a6
  let a127 := mul a126 a
  mul a127 a127
def rotl8 (a n : Nat) : Nat := (a * 2 ^ n) % 256 + a / 2 ^ (8 - n)
def sub (a : Nat) : Nat :=
  let b := inv a
  b ^^^ rotl8 b 1 ^^^ rotl8 b 2 ^^^ rotl8 b 3 ^^^ rotl8 b 4 ^^^ 0x63
def unsub (a : Nat) : Nat := inv (rotl8 a 1 ^^^ rotl8 a 3 ^^^ rotl8 a 6 ^^^ 0x05)

/-- The next words of a key schedule: `ws` the words so far, latest first, four bytes each. -/
def expand : Nat → Nat → List (List Nat) → List (List Nat)
  | 0, _, ws => ws
  | n + 1, i, ws =>
    let t := ws.headD []
    let t := if i % 8 = 0 then
        match t with
        | [a, b, c, d] => [sub b ^^^ (2 ^ (i / 8 - 1)), sub c, sub d, sub a]
        | x => x
      else if i % 8 = 4 then t.map sub else t
    expand n (i + 1) (List.zipWith (· ^^^ ·) (ws.getD 7 []) t :: ws)
/-- The n bytes of a value, lowest first. -/
def bytes : Nat → Nat → List Nat
  | 0, _ => []
  | n + 1, v => v % 256 :: bytes n (v / 256)
def value : List Nat → Nat
  | [] => 0
  | b :: r => b + 256 * value r
def chunks (k : Nat) : Nat → List Nat → List (List Nat)
  | 0, _ => []
  | n + 1, l => l.take k :: chunks k n (l.drop k)
/-- The fifteen round keys of 16 bytes of a 32-byte key. -/
def roundKeys (key : Nat) : List (List Nat) :=
  chunks 16 15 (expand 52 8 (chunks 4 8 (bytes 32 key)).reverse).reverse.flatten

def addKey (s k : List Nat) : List Nat := List.zipWith (· ^^^ ·) s k
/-- Byte i of the shifted state is byte `i + 4 * (i % 4)` (or back, with `n = 12`) of the state. -/
def shiftRows (n : Nat) (s : List Nat) : List Nat :=
  (List.range 16).map fun i => s.getD ((i + n * (i % 4)) % 16) 0
def mixWith (m : List Nat) (s : List Nat) : List Nat :=
  (List.range 16).map fun i =>
    (List.range 4).foldl (fun a j => a ^^^ mul (s.getD (i / 4 * 4 + j) 0) (m.getD ((j + 4 - i % 4) % 4) 0)) 0

def rounds : List (List Nat) → List Nat → List Nat
  | [], s => s
  | [k], s => addKey (shiftRows 4 (s.map sub)) k
  | k :: r, s => rounds r (addKey (mixWith [2, 3, 1, 1] (shiftRows 4 (s.map sub))) k)
def unrounds : List (List Nat) → List Nat → List Nat
  | [], s => s
  | [k], s => addKey ((shiftRows 12 s).map unsub) k
  | k :: r, s => unrounds r (mixWith [14, 11, 13, 9] (addKey ((shiftRows 12 s).map unsub) k))
/-- AES-256 on one block. -/
def encrypt (key block : Nat) : Nat :=
  match roundKeys key with
  | k :: r => value (rounds r (addKey (bytes 16 block) k))
  | [] => 0
def decrypt (key block : Nat) : Nat :=
  match (roundKeys key).reverse with
  | k :: r => value (unrounds r (addKey (bytes 16 block) k))
  | [] => 0

/-- A tweak times x^n in GF(2^128). -/
def tweakUp : Nat → Nat → Nat
  | 0, t => t
  | n + 1, t => tweakUp n (if 2 ^ 127 ≤ t then (2 * t) % 2 ^ 128 ^^^ 0x87 else 2 * t)
/-- The mask of block j of the data unit at `line`, under a 64-byte key. -/
def mask (key : BitVec 512) (line j : Nat) : Nat := tweakUp j (encrypt (key.toNat / 2 ^ 256) line)
/-- Block j of the line at `line`: what decryption under `rk` yields of what encryption under `wk` stored (R302). -/
def view (wk rk : BitVec 512) (line j block : Nat) : Nat :=
  let c := encrypt (wk.toNat % 2 ^ 256) (block ^^^ mask wk line j) ^^^ mask wk line j
  decrypt (rk.toNat % 2 ^ 256) (c ^^^ mask rk line j) ^^^ mask rk line j

end Sys2Proof.Machine.Cipher
end

