-- ==== Sys2Proof/Machine/State.lean ====
section
/-! DEFINITION. The machine's state as plain data, and the state after reset.  One field per piece of state of
INVENTORY.md.  Words of control pages are kept as the words the pages show. -/
namespace Sys2Proof.Machine

/-- Why the model stops.  The spec stops nothing: a hart traps, a queue halts, a kernel faults. -/
inductive Fault
  /-- Raised by `step` when the agenda, which is the model's own, names an encoded instruction as a step of the
  device.  Safe: no hardware state has such an agenda. -/
  | notADeviceStep
  deriving DecidableEq, Repr

/-- What the model refuses. -/
inductive Refusal
  /-- Raised by `exec` for an instruction whose meaning is not written.  Safe. -/
  | notModelled (mnemonic : String)
  deriving DecidableEq, Repr

/-- A trap: cause (R211), TVAL, TELEM, the TPC where it is not the instruction's own address, and for poison of a register
its class, number, first bit and width (R219). -/
structure Trap where
  cause : Nat
  tval  : Word
  telem : Nat := 0
  tpc   : Option Word := none
  pois  : Option (RegClass × Nat × Nat × Nat) := none
  deriving DecidableEq, Repr

/-- STATE of a context page (R201). -/
inductive HState | empty | stopped | running | stopping | faulted | exited
  deriving DecidableEq, Repr

/-- Who moves: the control thread of a hart, its stream, or one threaded virtual processor (R148 to R161). -/
inductive Thread | control | stream | vp (i : Fin 4096)
  deriving DecidableEq, Repr

structure Mover where
  hart : HartId
  thread : Thread
  deriving DecidableEq, Repr

/-- One entry of the agenda (log 1): a step of the device, a turn of one thread, or a turn of the current hart in its own
order. -/
inductive Turn
  | event (i : Instr)
  | run (m : Mover)
  | own
  deriving DecidableEq, Repr

/-- What a `tget` blocked on a queue has met: nothing; a TAIL of it or of a victim that grew (R249); the end of its kernel (R266); a
Function Level Reset of its owner (R321). -/
inductive TgetNews | quiet | grown | closed | gone
  deriving DecidableEq, Repr

/-- What a control thread waits in (R207, R291).  The waiting instruction stays at PC and is tried again. -/
inductive Wait
  | none
  | fence
  | tfence
  | wait (line : Option Nat) (woken : Bool)   -- the watched 64-byte line (R217)
  | qrecv
  | tget (queue : Nat) (news : TgetNews)
  /-- GEN at the first evaluation, the word's address and key, and the first value seen that ends the wait (R240). -/
  | barw (gen : Nat) (word key : Nat) (met : Option Nat)
  | exit
  | sfree
  | apx
  | vqueue                                    -- a full vector queue (R150)
  | join                                      -- waiting for earlier vector work (R158, R213, R224)
  | lent                                      -- home groups on loan (R223)
  /-- A request to the host or a peer (R319, R326); of a `barw`, which requests no gear (R291). -/
  | outside (va : Word) (peer bar : Bool)
  deriving DecidableEq, Repr

/-- The part of a hart that its context page shows, except STATE to FUNC: live values or images
(R166, R192, R201, R237, R277). -/
structure Ctx where
  pc : Word := 0
  inh : Bool := false
  g : Vector Word 32 := Vector.replicate 32 0
  sh : Vector Word 8 := Vector.replicate 8 0
  /-- Status registers 0 to 17 by index (R205). VT is ILL, GEAR.CUR stands in the tile. -/
  st : Vector Word 18 := (Vector.replicate 18 0).set 1 0x8000000000000000#64
  vpc : Word := 0
  fbase : Word := 0
  convoy : Word := 0
  cnt : Word := 0
  region : Word := 0
  regend : Word := 0
  cresume : Word := 0
  rqstate : Word := 0
  rq : Vector Word 8 := Vector.replicate 8 0
  vqcount : Word := 0
  /-- Queue entries of eight words: address, encoding, VT, VL and RMODE, three g operands, BEGUN and SDONE. -/
  vq : Vector (Vector Word 8) 12 := Vector.replicate 12 (Vector.replicate 8 0)
  accst : Word := 0
  arraddr : Word := 0
  arrgen : Word := 0
  treg : Word := 0
  tepoch : Word := 0
  /-- RCTL, DESC, POS, ENGPOS, HELDPC, ERRADDR, ERRINFO, and a word that reads 0 (R192). -/
  rays : Vector (Vector Word 8) 8 := Vector.replicate 8 (Vector.replicate 8 0)
  m : Vector (BitVec 4096) 8 := Vector.replicate 8 0
  k : Vector (BitVec 4096) 8 := Vector.replicate 8 0
  hw : Vector (BitVec 16) 32 := Vector.replicate 32 0
  /-- Poison marks of masks and scales, a mark per bit (R219). -/
  mPois : Vector (BitVec 4096) 8 := Vector.replicate 8 0
  kPois : Vector (BitVec 4096) 8 := Vector.replicate 8 0
  deriving DecidableEq, Repr

/-- An uncommitted write of a threaded VP: register class and number, bit, width and old value (R161).  Class `scale`,
of which a VP writes no register, is its counters. -/
structure Undo where
  cls : RegClass
  reg : Fin 32
  bit : Nat
  width : Nat
  old : Nat
  /-- The poison marks that stood there. -/
  pois : Nat
  deriving DecidableEq, Repr

/-- A threaded virtual processor (R149, R152, R155, R161). -/
structure TVP where
  vp : Fin 4096
  facet : Nat
  pc : Word
  cnt : Word
  /-- Index in the vector queue of the fetch entry that threaded it (R167). -/
  entry : Nat
  faulted : Option Trap := none
  undo : List Undo := []
  deriving DecidableEq, Repr

/-- A soft error in a register that no instruction has consumed yet (R219): the class and number, the poisoned bits, the
element's index (R21). -/
structure Soft where
  cls : RegClass
  reg : Fin 32
  bit : Nat
  width : Nat
  elem : BitVec 13
  deriving DecidableEq, Repr

/-- An S load whose value is not taken yet: the register, place, bytes, key slot, and whether it extends the sign. -/
structure LateLoad where
  reg : Fin 32
  pa : Nat
  n : Nat
  key : Nat
  signed : Bool
  deriving DecidableEq, Repr

/-- What only a running hart holds beside `Ctx`. -/
structure Live where
  v : Vector (BitVec 8192) 32 := Vector.replicate 32 0
  vPois : Vector (BitVec 8192) 32 := Vector.replicate 32 0
  acc : Vector (BitVec 262144) 4 := Vector.replicate 4 0
  aPois : Vector (BitVec 262144) 4 := Vector.replicate 4 0
  /-- The descriptor each live ray copied (R184, R186). -/
  rdesc : Vector (Vector Word 8) 8 := Vector.replicate 8 (Vector.replicate 8 0)
  inStream : BitVec 4096 := 0
  tvps : List TVP := []
  wait : Wait := .none
  /-- The vector unit froze at a vector-side fault (R164). -/
  frozen : Bool := false
  /-- A vector-side fault not yet entered (R164, R218). -/
  vfault : Option Trap := none
  /-- A control-side fault was entered before that one, which waits for its `tret` (R164, R218). -/
  vhold : Bool := false
  /-- The fault entered was a stream instruction's, outside a convoy: `tret` heeds TPC (R164). -/
  streamFault : Bool := false
  /-- The registers (bits 0 to 31) and accumulators (bits 32 to 35) that the last save stored (R169, R204, R219). -/
  stored : BitVec 36 := 0
  /-- MODEL'S OWN: the number of the vector store that is being performed, 0 none (R285; log 61). -/
  vstore : Nat := 0
  /-- MODEL'S OWN: the control thread's last load, performed later (R53, R354; log 70). -/
  late : Option LateLoad := none
  /-- MODEL'S OWN: a `fencevv` stands between V stores that are not performed yet and the V accesses to come (R58; log 70). -/
  vfence : Bool := false
  deriving DecidableEq, Repr

/-- A hart slot's context (R201, R206). -/
structure Hart where
  state : HState := .empty
  lcause : BitVec 8 := 0
  nstop : BitVec 32 := 0
  space : Word := 0
  vsave : Word := 0
  func : BitVec 5 := 0
  world : Bool := false
  prio : BitVec 4 := 0
  /-- A held RESUME (false) or STEP (true) (R206). -/
  held : Option Bool := none
  c : Ctx := {}
  img : Ctx := {}
  live : Live := {}
  /-- A STEP in progress; a latched RESUME (R206). -/
  step1 : Bool := false
  latched : Bool := false
  /-- RUNNING when its function was switched out (R331). -/
  remembered : Bool := false
  /-- TVAL of the pending events 0x101 to 0x104 (R211, R243). -/
  evval : Vector Word 4 := Vector.replicate 4 0
  /-- Events that arrived in a gear change, with their TVAL (R296). -/
  evlate : List (Fin 4 × Word) := []
  /-- Table stores since the last completed tfence: entry address and old value (R310). -/
  tstores : List (Nat × Word) := []
  soft : List Soft := []
  /-- MODEL'S OWN: an issued vector instruction waits for its own turn (log 8). -/
  defer : Bool := false
  /-- MODEL'S OWN: V stores are performed later, S loads may be (R53, R159, R354; log 70). -/
  lazyV : Bool := false
  lateS : Bool := false
  /-- A control-side fault leads to FAULTED once the vector unit has stopped (R207, R210). -/
  falling : Bool := false
  /-- Rays whose error stands from a restore (R192). -/
  rayRest : BitVec 8 := 0
  deriving DecidableEq, Repr

/-- A tile: its page (R21, R220, R263, R294) and what stands in it. -/
structure Tile where
  /-- Slot words without the fields the device forms (R220). -/
  slots : Vector Word 8
  holder : BitVec 32 := 0x76543210
  gcur : Bool := true
  gchg : Bool := false
  nchg : BitVec 32 := 0
  bind : Vector Word 8 := Vector.replicate 8 0
  nheld : Nat := 0
  next : Fin 128 := 0
  lost : BitVec 32 := 0
  quar : Bool := false
  /-- Error log entries, three words each (R21). -/
  elog : List (Nat × Vector Word 3) := []
  /-- CYCLE of the tile at step `cycSince` (R205). -/
  cycBase : Word := 0
  cycSince : Nat := 0
  /-- Cross-tile appends per kernel (R264). -/
  sent : List (Nat × Nat) := []
  recv : List (Nat × Nat) := []
  /-- MODEL'S OWN: S stores stay dirty (log 4); fetched bytes stay cached (log 5). -/
  lazyWb : Bool := false
  icFill : Bool := false
  deriving DecidableEq, Repr

/-- A copy-engine page (R200) and the strip it carries: copy number, offset, length. -/
structure Engine where
  w : Vector Word 8 := Vector.replicate 8 0
  strip : Option (Nat × Nat × Nat) := none
  deriving DecidableEq, Repr

/-- A tangent slot page (R271) and the steps queued (R280). -/
structure TSlot where
  st : Nat := 0
  cerr : BitVec 8 := 0
  owner : Word := 0
  shape : Word := 0
  thr : Word := 0
  samp : Word := 0
  calls : Word := 0
  sampled : Word := 0
  fallbacks : Word := 0
  runerr : BitVec 32 := 0
  depbase : Word := 0
  deplimit : Word := 0
  sbuf : Word := 0
  sbcount : Nat := 0
  sbhead : Nat := 0
  good : Nat := 0
  errn : Nat := 0
  errhead : Nat := 0
  invals : Word := 0
  sbphys : Word := 0
  epoch : Word := 0
  w : Vector (BitVec 32) 420 := Vector.replicate 420 0
  init : Vector (BitVec 32) 420 := Vector.replicate 420 0
  hist : Vector (BitVec 32) 64 := Vector.replicate 64 0
  steps : Nat := 0
  /-- MODEL'S OWN: the stores that have invalidated the slot and may reach memory again (R285; log 61). -/
  hits : List Nat := []
  /-- Its queued steps wait, after a world switch, for a hart of OFUNC to run on the tile (R283, R287). -/
  held : Bool := false
  deriving DecidableEq, Repr

/-- A queue-head page by its words 0x00, 0x08, … 0x40 (R245), and the key latched at enabling (R246). -/
structure Queue where
  w : Vector Word 9 := Vector.replicate 9 0
  key : Nat := 0
  deriving DecidableEq, Repr

/-- A kernel page (R257), the copied descriptor (R260) and the launcher's place in the phase (R262). -/
structure Kernel where
  kstate : Nat := 0
  late : Bool := false
  kerr : BitVec 8 := 0
  /-- The phase launched; PHASE shows its low 32 bits (R257, R261). -/
  phase : Nat := 0
  kdesc : Word := 0
  kspace : Word := 0
  tset : Word := 0
  sent : Word := 0
  recv : Word := 0
  notidle : BitVec 4 := 0
  lastsamp : Word := 0
  placed : Word := 0
  kdetail : Word := 0
  own : Word := 0
  desc : Vector Word 16 := Vector.replicate 16 0
  cursor : Nat := 0
  allPlaced : Bool := false
  deriving DecidableEq, Repr

/-- In whose name an engine works: hart, function, space, tile, world (R234, R319). -/
structure Issuer where
  hart : Option HartId
  func : Nat
  space : Nat
  secure : Bool := false
  deriving DecidableEq, Repr

/-- A copy in progress (R197 to R199). -/
structure Copy where
  iss : Issuer
  tile : TileId
  src : Word
  dst : Word
  len : Nat
  obj : Word
  /-- 0 scopy, 1 scopyb, 2 COPY_HOST without a future. -/
  kind : Fin 3
  /-- Strips not yet taken: offsets. -/
  untaken : List Nat
  running : Nat := 0
  failed : Bool := false
  suspended : Bool := false
  /-- The command queue of a COPY_HOST (R335). -/
  queue : Option Nat := none
  /-- The kernel to which the issuing slot was bound (R263). -/
  kernel : Option Nat := none
  deriving DecidableEq, Repr

/-- A future walk in progress (R234): the next link, or a single join block of `fjoin`. -/
structure Walk where
  iss : Issuer
  at_ : Word
  block : Bool
  err : Bool
  /-- The kernel to which the forking slot was bound (R263). -/
  kernel : Option Nat
  deriving DecidableEq, Repr

/-- The regions of the physical map (R44); `control` are the control pages of tiles and module. -/
inductive Region | hbm | store | control | peer | host | device
  deriving DecidableEq, Repr

/-- Which agent of R51 makes an access. -/
inductive Port | s | v | eng
  deriving DecidableEq, Repr

/-- Who accesses: in whose name, by which agent, on which tile; and for an element of a facet's instruction its VP (R159). -/
structure Who where
  iss : Issuer
  port : Port
  tile : TileId
  vp : Option Nat := none
  deriving DecidableEq, Repr

/-- What the walk checks an access for (R302). -/
inductive Acc | load | store | atomic | fetch
  deriving DecidableEq, Repr

/-- A translation: physical address, leaf, the leaf's own address, region. -/
structure Xl where
  pa : Nat
  leaf : Nat
  entry : Nat
  region : Region
  deriving DecidableEq, Repr

/-- A function: its configuration page words 0x00 to 0x48 (R328), BAR0 (R253, R317, R320), function core. -/
structure Func where
  w : Vector Word 10 := (Vector.replicate 10 0).set 3 0x4000000#64
  latch : Vector (BitVec 32) 64 := Vector.replicate 64 0
  /-- Latches not yet applied (R253). -/
  pending : BitVec 64 := 0
  /-- The MSI-X table, entry i in words 2i and 2i+1, and its pending bits (R317, R320). -/
  msix : Vector Word 128 := Vector.replicate 128 0
  msixPend : BitVec 64 := 0
  /-- In its slice (R331), and slices passed over (R330). -/
  inSlice : Bool := true
  passed : Nat := 0
  /-- From which step on how many tiles charge units to it in its slice (R329). -/
  charged : List (Nat × Nat) := []
  /-- The image that was last written to each bank of the core, by its digest; the bank of the one verified for the lease (R336,
  R338). -/
  images : Vector (Option (BitVec 384)) 2 := #v[none, none]
  verified : Option (Fin 2) := none
  /-- The address of the state block that the running image was started with (R338). -/
  blockAt : Option Nat := none
  /-- Queues whose packet at HEAD stands in its wait (R255). -/
  waits : List Nat := []
  /-- A hand-over accepted and not yet switched: the accepted version (R338). -/
  handOver : Option (BitVec 8) := none
  /-- Under Function Level Reset or lease reset (R321, R342). -/
  inReset : Bool := false
  /-- The function core's own memory, 256 KiB in two banks, by address div 8 (R336, R338). -/
  priv : List (Nat × Word) := []
  /-- AER's uncorrectable error status (R316, R318; log 69). -/
  aer : BitVec 32 := 0
  deriving DecidableEq, Repr

/-- A byte that stands dirty in a tile's scalar data cache (R49). -/
structure Dirty where
  tile : TileId
  key : Nat
  byte : Byte
  deriving DecidableEq, Repr

/-- MODEL'S OWN: a byte that a hart's V agent has stored and that is not performed yet: by which VP of a facet, under which
key slot, and the number of the store (R53, R159, R354; log 70). -/
structure Unperformed where
  hart : HartId
  vp : Option Nat
  key : Nat
  byte : Byte
  no : Nat
  deriving DecidableEq, Repr

/-- A `barw` of a peer that waits at this module's barrier: inbound window, address there, place, key slot, and GEN as it was
first read (R240, R325). -/
structure PeerWait where
  win : Fin 64
  va : Word
  pa : Nat
  key : Nat
  gen : Nat
  deriving DecidableEq, Repr

/-- What the module sends to the outside (R318 to R320, R324, R325, R340). -/
inductive Sent
  | msix (f : FuncId) (vector : Fin 64)
  | completion (f : FuncId) (ok : Bool) (v : Word)
  | spdm (request : Nat) (ok : Bool) (body : List Nat)
  /-- The completion of what arrived through inbound window n: a cause or 0, and the value. -/
  | reply (n : Fin 64) (cause : Nat) (v : Word)
  /-- A PCIe request to bus address h with the Requester ID of function f: n bytes read, or written with that value, or an
  atomic operation (R61, R319). -/
  | request (f : Nat) (h n : Nat) (data : Option Nat) (atomic : Bool)
  /-- A change notice to the peer whose `barw` came through inbound window n: the word's address there, its value (R325). -/
  | notice (n : Fin 64) (va v : Word)
  deriving DecidableEq, Repr

/-- The lease (R341, R343). -/
structure Lease where
  state : Fin 3 := 0
  id : BitVec 128 := 0
  keyHash : BitVec 384 := 0
  mask : BitVec 32 := 0
  start : Word := 0
  begun : Bool := false
  /-- MX4 at the reset in progress (R343). -/
  mx4 : BitVec 384 := 0
  /-- EVENT code 0x50 is due when the physical function is configured (R341). -/
  due : Bool := false
  /-- The last completion record as 512 bytes (R343). -/
  record : Option (List Nat) := none
  deriving DecidableEq, Repr

/-- The hub: root core device pages, links, trust (R304, R305, R318, R324, R327, R332 to R343). -/
structure Hub where
  aback : Word := 0
  aframes : Word := 0
  tags : List (Nat × Word) := []
  /-- Reach record words by 32 × frame + 4 × window + word. -/
  reach : List (Nat × Word) := []
  /-- BAR2 tables by 65,536 × function + entry. -/
  bar2 : List (Nat × Word) := []
  outw : Vector Word 64 := Vector.replicate 64 0
  /-- Peers whose `barw` waits here (R325). -/
  peerWaits : List PeerWait := []
  inw : Vector Word 128 := Vector.replicate 128 0
  master : Bool := false
  tlock : Bool := false
  offs : BitVec 8 := 0
  /-- Exchanges within ±2 ns in a row, up to 16 (R327). -/
  syncGood : Nat := 0
  portUp : BitVec 24 := 0
  /-- TICK of step `tickSince`, and whether it is held on joining (R327). -/
  tickBase : Word := 0
  tickSince : Nat := 0
  tickHeld : Bool := false
  cluster : BitVec 64 := 0xFFFFFFFFFFFFFFFF
  keys : List (Nat × BitVec 512) := []
  mx : Vector (BitVec 384) 8 := Vector.replicate 8 0
  pfOnly : Bool := false
  lease : Lease := {}
  deriving DecidableEq, Repr

/-- The module. -/
structure State where
  cur : Mover
  agenda : List Turn
  now : Nat
  harts : List (Nat × Hart)
  tiles : List (Nat × Tile)
  engines : List (Nat × Engine)
  tslots : List (Nat × TSlot)
  queues : List (Nat × Queue)
  kernels : List (Nat × Kernel)
  funcs : List (Nat × Func)
  copies : List (Nat × Copy)
  walks : List (Nat × Walk)
  /-- Bytes of HBM, tile stores, host and peer windows; an address not listed reads `unlisted` (log 3). -/
  mem : List Host.Cell
  /-- 8-byte words held poisoned, by address div 8, rising (R99, R203). -/
  poison : List Nat
  /-- The key value that wrote each 64-byte HBM line, by address div 64 (R302). -/
  lineKey : List (Nat × BitVec 512)
  dcache : List (Nat × Dirty)
  /-- MODEL'S OWN: V stores not performed yet, by 2^48 × hart + address (log 70). -/
  vbuf : List (Nat × Unperformed)
  /-- Cached instruction bytes by 2^48 × tile + address; likewise the facet caches (R50). -/
  icache : List (Nat × Byte)
  fcache : List (Nat × Byte)
  hub : Hub
  sent : List Sent
  /-- MODEL'S OWN: others translate through old entries until tfence (log 6); a request to the host or a
  peer gets no completion (log 12). -/
  staleXlat : Bool
  hostStall : Bool
  peerStall : Bool
  /-- MODEL'S OWN: the cause with which the next request to the host or a peer completes, 0 none (log 12). -/
  outsideErr : BitVec 8
  /-- MODEL'S OWN: the number of the store being performed (R285; log 61). -/
  storeNo : Nat
  deriving DecidableEq, Repr

/-- What an address that `mem` does not list reads as (log 3: DESIGN CHOICE, unsafe). -/
def unlisted : Byte := 0

/-- The slot word after reset: HNGRP and NGRP 1, HFIRST and FIRST the slot, PNGRP 8 (R220). -/
def slotReset (i : Nat) : Word := BitVec.ofNat 64 (0x80101 + 0x1010 * i)

def Tile.reset : Tile := { slots := Vector.ofFn fun i => slotReset i.val }

/-- The machine right after power-on reset, before the root core has configured anything. -/
def State.reset : State where
  cur := ⟨0, .control⟩
  agenda := []
  now := 0
  harts := []
  tiles := []
  engines := []
  tslots := []
  queues := []
  kernels := []
  funcs := []
  copies := []
  walks := []
  mem := []
  poison := []
  lineKey := []
  dcache := []
  vbuf := []
  icache := []
  fcache := []
  hub := {}
  sent := []
  staleXlat := false
  hostStall := false
  peerStall := false
  outsideErr := 0
  storeNo := 0

end Sys2Proof.Machine
end

