-- ==== Sys2Proof/Machine/Mem.lean ====
section
/-! DEFINITION. Physical memory, the caches in front of it, and translation (03, 19; R98 to R103). -/
namespace Sys2Proof.Machine

/-- A computation on the state that may trap; what it did before the trap stays done. -/
abbrev M (α : Type) := ExceptT Trap (StateM State) α
/-- What an instruction's meaning answers. -/
abbrev Out := Host.Outcome State Fault Refusal

def trap {α : Type} (cause : Nat) (tval : Nat) (telem : Nat := 0) : M α :=
  throw { cause := cause, tval := BitVec.ofNat 64 tval, telem := telem }

/-- Poisoned data consumed from bits [bit, bit + width) of a register (R125, R219). -/
def poisonTrap {α : Type} (cls : RegClass) (reg bit width tval telem : Nat) : M α :=
  throw { cause := 0x0B, tval := BitVec.ofNat 64 tval, telem := telem, pois := some (cls, reg, bit, width) }

/-! Maps by number, keys rising. -/

def mget {α : Type} (l : List (Nat × α)) (k : Nat) (d : α) : α :=
  match l with
  | [] => d
  | (j, x) :: r => if j = k then x else mget r k d

def mset {α : Type} (l : List (Nat × α)) (k : Nat) (x : α) : List (Nat × α) :=
  match l with
  | [] => [(k, x)]
  | (j, y) :: r => if j < k then (j, y) :: mset r k x else if j = k then (k, x) :: r else (k, x) :: (j, y) :: r

def mdel {α : Type} (l : List (Nat × α)) (k : Nat) : List (Nat × α) :=
  match l with
  | [] => []
  | (j, y) :: r => if j = k then r else (j, y) :: mdel r k

def mhas {α : Type} (l : List (Nat × α)) (k : Nat) : Bool := l.any fun p => p.1 == k

/-! Bytes (canonical form: addresses rise, and no entry equals what an unlisted address reads). -/

def Memory.rising : List Host.Cell → Bool
  | [] => true
  | [_] => true
  | a :: b :: r => decide (a.1 < b.1) && Memory.rising (b :: r)

def Memory.wf (m : List Host.Cell) : Bool := Memory.rising m && m.all fun c => c.2 != unlisted

def memGet (m : List Host.Cell) (a : Nat) : Byte := mget m a unlisted

def memSet (m : List Host.Cell) (a : Nat) (b : Byte) : List Host.Cell :=
  match m with
  | [] => if b = unlisted then [] else [(a, b)]
  | c :: r =>
    if c.1 < a then c :: memSet r a b
    else if c.1 = a then (if b = unlisted then r else (a, b) :: r)
    else if b = unlisted then c :: r else (a, b) :: c :: r

/-- n bytes at a, little-endian (R1). -/
def memRead (m : List Host.Cell) (a : Nat) : Nat → Nat
  | 0 => 0
  | n + 1 => (memGet m a).toNat + 256 * memRead m (a + 1) n

def memWrite (m : List Host.Cell) (a : Nat) (n : Nat) (v : Nat) : List Host.Cell :=
  match n with
  | 0 => m
  | n + 1 => memWrite (memSet m a (BitVec.ofNat 8 v)) (a + 1) n (v / 256)

/-- The bytes bs from a on, merged into m; n bounds the work. -/
def memPut : Nat → List Host.Cell → Nat → List Byte → List Host.Cell
  | _, m, _, [] => m
  | 0, m, _, _ :: _ => m
  | n + 1, m, a, b :: bs =>
    match m with
    | [] => if b = unlisted then memPut n [] (a + 1) bs else (a, b) :: memPut n [] (a + 1) bs
    | c :: r =>
      if c.1 < a then c :: memPut n r a (b :: bs)
      else
        let r' := if c.1 = a then r else c :: r
        if b = unlisted then memPut n r' (a + 1) bs else (a, b) :: memPut n r' (a + 1) bs

/-! The parts of the state. -/

def State.hart (s : State) (h : HartId) : Hart := mget s.harts h.val {}
def State.setHart (s : State) (h : HartId) (x : Hart) : State := { s with harts := mset s.harts h.val x }
def State.onHart (s : State) (h : HartId) (f : Hart → Hart) : State := s.setHart h (f (s.hart h))
def State.tile (s : State) (t : TileId) : Tile := mget s.tiles t.val Tile.reset
def State.setTile (s : State) (t : TileId) (x : Tile) : State := { s with tiles := mset s.tiles t.val x }
def State.onTile (s : State) (t : TileId) (f : Tile → Tile) : State := s.setTile t (f (s.tile t))
def State.engine (s : State) (e : Nat) : Engine := mget s.engines e {}
def State.setEngine (s : State) (e : Nat) (x : Engine) : State := { s with engines := mset s.engines e x }
def State.tslot (s : State) (k : Nat) : TSlot := mget s.tslots k {}
def State.setTslot (s : State) (k : Nat) (x : TSlot) : State := { s with tslots := mset s.tslots k x }
def State.queue (s : State) (q : Nat) : Queue := mget s.queues q {}
def State.setQueue (s : State) (q : Nat) (x : Queue) : State := { s with queues := mset s.queues q x }
def State.kernel (s : State) (n : Nat) : Kernel := mget s.kernels n {}
def State.setKernel (s : State) (n : Nat) (x : Kernel) : State := { s with kernels := mset s.kernels n x }
def State.func (s : State) (f : Nat) : Func := mget s.funcs f {}
def State.setFunc (s : State) (f : Nat) (x : Func) : State := { s with funcs := mset s.funcs f x }
def State.onFunc (s : State) (f : Nat) (g : Func → Func) : State := s.setFunc f (g (s.func f))
def State.later (s : State) (i : Instr) : State := { s with agenda := s.agenda ++ [.event i] }

/-- The tile and slot of a hart (R14). -/
def tileOf (h : HartId) : TileId := ⟨h.val / 8, by omega⟩
def slotOf (h : HartId) : Fin 8 := ⟨h.val % 8, by omega⟩
def hartOf (t : TileId) (s : Fin 8) : HartId := ⟨t.val * 8 + s.val, by omega⟩
/-- HARTID (R14). -/
def hartIdWord (h : HartId) : Word := BitVec.ofNat 64 (h.val / 1024 * 8192 + h.val / 8 % 128 * 8 + h.val % 8)

/-- TICK, and the sum that carries it and CYCLE forward (R205, R327). -/
def deltaSum (f : Nat → BitVec 16) (a : Nat) : Nat → Nat
  | 0 => 0
  | n + 1 => (f (a + n)).toNat + deltaSum f a n
def State.tick (s : State) : Word :=
  if s.hub.tickHeld then s.hub.tickBase
  else s.hub.tickBase + BitVec.ofNat 64 (deltaSum Config.tickDelta s.hub.tickSince (s.now - s.hub.tickSince))
def State.cycle (s : State) (t : TileId) : Word :=
  let x := s.tile t
  if x.gchg then x.cycBase
  else x.cycBase + BitVec.ofNat 64 (deltaSum (Config.cycDelta t.val) x.cycSince (s.now - x.cycSince))

/-! The physical map (R44). -/

def regionOf (pa : Nat) : Option Region :=
  if pa < 0xD800000000 then some .hbm
  else if 0x100000000000 ≤ pa ∧ pa < 0x100040000000 then some .store
  else if (0x200000000000 ≤ pa ∧ pa < 0x200004000000) ∨ (0x200100000000 ≤ pa ∧ pa < 0x200100800000)
    ∨ (0x200200000000 ≤ pa ∧ pa < 0x200202000000) ∨ (0x200300000000 ≤ pa ∧ pa < 0x200302000000)
    ∨ (0x200400000000 ≤ pa ∧ pa < 0x200440000000) ∨ (0x200500000000 ≤ pa ∧ pa < 0x200504000000) then some .control
  else if 0x300000000000 ≤ pa ∧ pa < 0x400000000000 then some .peer
  else if 0x400000000000 ≤ pa ∧ pa < 0x500000000000 then some .host
  else if 0x7F0000000000 ≤ pa ∧ pa < 0x800000000000 then some .device
  else none

def Region.kinds : Region → List Nat
  | .hbm | .store | .peer => [0, 4]
  | .control => [2]
  | .host => [1, 4]
  | .device => [2, 3]

/-- The tile whose quarantine takes this address (R20). -/
def pageTile (pa : Nat) : Option Nat :=
  if 0x100000000000 ≤ pa ∧ pa < 0x100040000000 then some ((pa - 0x100000000000) / 0x200000)
  else if 0x200000000000 ≤ pa ∧ pa < 0x200004000000 then some ((pa - 0x200000000000) / 0x20000)
  else if 0x200100000000 ≤ pa ∧ pa < 0x200100800000 then some ((pa - 0x200100000000) / 0x4000)
  else if 0x200200000000 ≤ pa ∧ pa < 0x200202000000 then some ((pa - 0x200200000000) / 0x10000)
  else if 0x200300000000 ≤ pa ∧ pa < 0x200302000000 then some ((pa - 0x200300000000) / 0x10000)
  else none

def quarantined (s : State) (pa : Nat) : Bool :=
  match pageTile pa with
  | some t => (mget s.tiles t Tile.reset).quar
  | none => false

/-! The table arena (R304 to R306). -/

def arenaBase : Nat := 0x7F8000000000
def inArena (s : State) (pa : Nat) : Bool := arenaBase ≤ pa && pa < arenaBase + s.hub.aframes.toNat * 0x4000
def inBacking (s : State) (pa : Nat) : Bool :=
  s.hub.aback.toNat ≤ pa && pa < s.hub.aback.toNat + s.hub.aframes.toNat * 0x4000
/-- Tag of the arena frame at pa: USE, LEVEL, FWORLD, FFUNC, FSPACE; 0 outside the arena. -/
def frameTag (s : State) (pa : Nat) : Nat :=
  if inArena s pa then (mget s.hub.tags ((pa - arenaBase) / 0x4000) 0).toNat else 0
def tagUse (t : Nat) : Bool := t % 4 == 1
def tagLevel (t : Nat) : Nat := t / 4 % 4
def tagWorld (t : Nat) : Bool := t / 256 % 2 == 1
def tagSpace (t : Nat) : Nat := t / 0x100000000 % 0x100000
def frameNo (pa : Nat) : Nat := (pa - arenaBase) / 0x4000
/-- Where the arena address stands in HBM. -/
def backing (s : State) (pa : Nat) : Nat := s.hub.aback.toNat + (pa - arenaBase)

/-- The old values of an entry that table stores have changed whose tfence is not complete.  Neither agent of a hart that
has stored to it itself sees one (R308). -/
def oldValues (s : State) (w : Who) (ea : Nat) : List Word :=
  let own := w.port != .eng && (match w.iss.hart with
    | some h => (s.hart h).tstores.any fun q => q.1 == ea
    | none => false)
  if own then [] else s.harts.flatMap fun p => (p.2.tstores.filter fun q => q.1 == ea).map (·.2)

/-- One entry of a table, read indivisibly at device scope (R299).  With `staleXlat` a free choice per access may be a
translation cached from an old value, where R308 and R313 let the agent use one. -/
def readEntry (s : State) (w : Who) (va ea : Nat) : Nat :=
  let now : Nat := memRead s.mem (backing s ea) 8
  if s.staleXlat then
    match Config.oldXlat s.now va ea with
    | 0 => now
    | n + 1 => (((oldValues s w ea)[n]?).map (·.toNat)).getD now
  else now

def eV (e : Nat) : Bool := e % 2 == 1
def eN (e : Nat) : Bool := e / 2 % 2 == 1
def eBit (e i : Nat) : Bool := e / 2 ^ i % 2 == 1
def eKind (e : Nat) : Nat := e / 32 % 8
def eFrame (e : Nat) : Nat := e / 0x4000 % 0x400000000 * 0x4000
def eKey (e : Nat) : Nat := e / 0x10000000000000 % 4096
def leafSize (lvl : Nat) : Nat := if lvl = 1 then 0x1000000000 else if lvl = 2 then 0x2000000 else 0x4000

/-- Malformed but for the last rule of R300. -/
def malformedSelf (e lvl : Nat) : Bool :=
  e / 0x1000 % 4 != 0 || e / 0x1000000000000 % 16 != 0 || 5 ≤ eKind e || (eN e && lvl == 3) || (!eN e && lvl == 0)
  || (eN e && (e / 4 % 1024 != 0 || eKey e != 0)) || (!eN e && eFrame e % leafSize lvl != 0)
/-- The last rule of R300: a pointer names a table of the next level. -/
def badPointer (s : State) (e lvl : Nat) : Bool :=
  eN e && !(tagUse (frameTag s (eFrame e)) && tagLevel (frameTag s (eFrame e)) == lvl + 1)
def malformed (s : State) (e lvl : Nat) : Bool := malformedSelf e lvl || badPointer s e lvl

def vaIndex (va lvl : Nat) : Nat :=
  if lvl = 0 then va / 0x800000000000 % 32 else if lvl = 1 then va / 0x1000000000 % 2048
  else if lvl = 2 then va / 0x2000000 % 2048 else va / 0x4000 % 2048

/-- The walk from table t (R299): leaf, its address, its level. -/
def walkFrom (s : State) (w : Who) (va : Nat) : List Nat → Nat → Option (Nat × Nat × Nat)
  | [], _ => none
  | lvl :: rest, t =>
    let ea := t + 8 * vaIndex va lvl
    let e := readEntry s w va ea
    if !eV e || malformed s e lvl then none
    else if eN e then walkFrom s w va rest (eFrame e) else some (e, ea, lvl)

def walk (s : State) (w : Who) (va : Nat) : Option (Nat × Nat × Nat) :=
  if 0x10000000000000 ≤ va then none
  else if tagUse (frameTag s w.iss.space) && tagLevel (frameTag s w.iss.space) == 0 && w.iss.space % 0x4000 == 0 then
    walkFrom s w va [0, 1, 2, 3] w.iss.space
  else none

/-- R302, R306, R307: whether the entry permits the access to the place it names. -/
def permits (s : State) (w : Who) (acc : Acc) (e pa : Nat) (r : Region) : Bool :=
  let arenaOk := eKind e == 3 && inArena s pa && tagUse (frameTag s pa) && tagWorld (frameTag s pa) == w.iss.secure
    && (acc == .load || acc == .store)
  (match acc with
    | .load => eBit e 2
    | .store => eBit e 3
    | .atomic => eBit e 2 && eBit e 3
    | .fetch => eBit e 4)
  && r.kinds.contains (eKind e)
  && (!eBit e 8 || w.iss.secure)
  && (if eKind e == 3 || inArena s pa then arenaOk else r != .device || w.iss.secure)
  && !inBacking s pa

/-- The leaf that an access uses.  A cached translation serves it only where it is one, with the A and D bits that
the access needs; otherwise the walk is made afresh (R303, R308). -/
def leafFor (s : State) (w : Who) (acc : Acc) (va : Nat) : Option (Nat × Nat × Nat) :=
  if s.staleXlat then
    match walk s w va with
    | some (e, ea, lvl) =>
      if eBit e 9 && (acc == .load || acc == .fetch || eBit e 10) then some (e, ea, lvl) else walk { s with staleXlat := false } w va
    | none => walk { s with staleXlat := false } w va
  else walk s w va

/-- Translation of one aligned access with the checks of R99 items 2 and 3 and R302.  An invalid outbound window is looked
at after permission (R324; log 28). -/
def xlate (s : State) (w : Who) (acc : Acc) (va : Nat) : Except Trap Xl :=
  let no (c : Nat) : Except Trap Xl := .error { cause := c, tval := BitVec.ofNat 64 va }
  match leafFor s w acc va with
  | none => no 0x04
  | some (e, ea, lvl) =>
    let pa := eFrame e + va % leafSize lvl
    match regionOf pa with
    | none => no 0x04
    | some r =>
      if quarantined s pa then no 0x04
      else if !permits s w acc e pa r then no 0x05
      else if r == .peer && s.hub.outw[(pa / 0x4000000000) % 64]! % 2 == 0 then no 0x04
      else .ok ⟨pa, e, ea, r⟩

/-- The A and D bits that the walk of an access sets, by an OR at the entry's home, where its leaf has them clear
(R303, R348). -/
def touch (s : State) (x : Xl) (store : Bool) : State :=
  if eBit x.leaf 9 && (!store || eBit x.leaf 10) then s
  else
    let e := memRead s.mem (backing s x.entry) 8
    { s with mem := memWrite s.mem (backing s x.entry) 8 (e ||| 0x200 ||| (if store then 0x400 else 0)) }

/-! The scalar data caches and the keys (R49, R302). -/

def hbm (pa : Nat) : Bool := pa < 0xD800000000
/-- The key value in slot k (R334). -/
def keyAt (s : State) (k : Nat) : BitVec 512 := mget s.hub.keys k 0
def lineKeyAt (s : State) (pa : Nat) : BitVec 512 := mget s.lineKey (pa / 64) 0
/-- Byte pa of a line written under key value wk, as key value k sees it (R302). -/
def underKey (m : List Host.Cell) (wk k : BitVec 512) (pa : Nat) : Byte :=
  if wk = k then memGet m pa
  else BitVec.ofNat 8 (Cipher.view wk k (pa / 64 * 64) (pa % 64 / 16) (memRead m (pa / 16 * 16) 16) / 256 ^ (pa % 16))
/-- The bytes of a line as key value `k` sees them, where another key wrote it. -/
def rekey (s : State) (line : Nat) (k : BitVec 512) : State :=
  if lineKeyAt s (64 * line) = k then s
  else { s with
    lineKey := mset s.lineKey line k
    mem := (List.range 64).foldl (fun m i => memSet m (64 * line + i) (underKey s.mem (lineKeyAt s (64 * line)) k (64 * line + i))) s.mem }

/-- The n bytes at pa (all in one line) written at the home under the key of slot k. -/
def homeWrite (s : State) (pa n v k : Nat) : State :=
  let s := if hbm pa then rekey s (pa / 64) (keyAt s k) else s
  { s with mem := memWrite s.mem pa n v }

/-- One byte as the home gives it to a reader with key k. -/
def homeByte (s : State) (pa k : Nat) : Byte :=
  match regionOf pa with
  | some .host | some .peer => Config.outsideByte s.now pa
  | some .hbm => underKey s.mem (lineKeyAt s pa) (keyAt s k) pa
  | _ => memGet s.mem pa

/-- n bytes as the home gives them. -/
def seenBytes (s : State) (pa k : Nat) : Nat → Nat
  | 0 => 0
  | n + 1 => (homeByte s pa k).toNat + 256 * seenBytes s (pa + 1) k n

/-- Whether the value v of a barrier word ends a `barw` that waits for GEN ≠ gen: a release, a zero count or OVR (R240). -/
def barMet (gen v : Nat) : Bool :=
  if v / 2 ^ 63 % 2 = 1 then v / 2 ^ 32 % 2 ^ 31 != 0 || v % 2 ^ 32 == 0 else v / 2 ^ 32 % 2 ^ 16 != gen

/-- The peers whose `barw` waits at a word that a store has changed: each is sent the word, and waits on where it does not end
the wait (R240, R325). -/
def noticePeers (s : State) (pa n : Nat) : State :=
  let meets (w : PeerWait) : Bool := pa < w.pa + 8 && w.pa < pa + n
  if s.hub.peerWaits.any meets then
    { s with
      sent := s.sent ++ (s.hub.peerWaits.filter meets).map fun w => .notice w.win w.va (BitVec.ofNat 64 (seenBytes s w.pa w.key 8))
      hub := { s.hub with peerWaits := s.hub.peerWaits.filter fun w => !(meets w && barMet w.gen (seenBytes s w.pa w.key 8)) } }
  else s

/-- A store to the line that a waiting hart watches lets its `wait` return (R217); one that brings a barrier word to what a
`barw` waits for lets that return (R240).  The waiting hart's own S agent makes no store. -/
def wakeWaits (s : State) (pa n : Nat) : State :=
  let s := noticePeers s pa n
  let hit (l : Nat) : Bool := pa / 64 ≤ l && l ≤ (pa + n - 1) / 64
  let next (w : Wait) : Option Wait :=
    match w with
    | .wait (some l) false => if hit l then some (.wait (some l) true) else none
    | .barw g a k none =>
      if pa < a + 8 && a < pa + n && barMet g (seenBytes s a k 8) then some (.barw g a k (some (seenBytes s a k 8))) else none
    | _ => none
  if s.harts.any fun p => (next p.2.live.wait).isSome then
    { s with harts := s.harts.map fun (i, h) =>
        match next h.live.wait with
        | some w => (i, { h with live := { h.live with wait := w } })
        | none => (i, h) }
  else s

/-- Write back, and drop, every dirty byte for which p holds; the waits see what then stands at the home (R217, R240). -/
def writeBack (s : State) (p : Nat → Dirty → Bool) : State :=
  let es := s.dcache.filter fun c => p c.1 c.2
  es.foldl (fun s c => wakeWaits s c.1 1)
    { es.foldl (fun s c => homeWrite s c.1 1 c.2.byte.toNat c.2.key) s with dcache := s.dcache.filter fun c => !p c.1 c.2 }

/-- What a tile's harts have stored, and its data cache still holds, is performed at device scope (R49, R54, R56). -/
def sendHome (s : State) (t : TileId) : State := writeBack s fun _ d => d.tile == t

/-- The home recalls the dirty lines of an access (R49): all but, for a V load, those of its own tile. -/
def recallLines (s : State) (pa n : Nat) (keep : Option TileId) : State :=
  writeBack s fun a d => pa / 64 ≤ a / 64 && a / 64 ≤ (pa + n - 1) / 64 && some d.tile != keep

/-- The byte that hart h's V agent has stored at pa and that is not performed yet, as an access of the VP `vp` sees it: the
stores of another VP's facet instruction are in no order with it (R159). -/
def unperformedAt (s : State) (h : HartId) (vp : Option Nat) (pa : Nat) : Option Unperformed :=
  let k := 2 ^ 48 * h.val + pa
  if mhas s.vbuf k then
    let e := mget s.vbuf k ⟨h, none, 0, 0, 0⟩
    if e.vp.isSome && vp.isSome && e.vp != vp then none else some e
  else none

def seenByte (s : State) (w : Who) (pa k : Nat) : Byte :=
  match w.port with
  | .s => if mhas s.dcache pa then (mget s.dcache pa ⟨w.tile, k, 0⟩).byte else homeByte s pa k
  | .v =>
    match w.iss.hart.bind fun h => unperformedAt s h w.vp pa with
    | some e => e.byte
    | none => homeByte s pa k
  | .eng => homeByte s pa k

def seenRead (s : State) (w : Who) (pa k : Nat) : Nat → Nat
  | 0 => 0
  | n + 1 => (seenByte s w pa k).toNat + 256 * seenRead s w (pa + 1) k n

/-- Which dirty lines stay where they are when w reads. -/
def Who.keeps (w : Who) : Option TileId :=
  match w.port with
  | .eng => none
  | _ => some w.tile

/-- A dirty line that another key wrote, which an S load reads through its home (R302). -/
def otherKey (s : State) (w : Who) (pa n k : Nat) : Bool :=
  w.port == .s && s.dcache.any fun c => pa ≤ c.1 && c.1 < pa + n && keyAt s c.2.key != keyAt s k

/-- What an access sends out: to the host window a PCIe request (R319).  A store to a peer is lost where every port is down
(R324, R326). -/
def outRequest (s : State) (w : Who) (pa n : Nat) (data : Option Nat) (atomic : Bool := false) : State :=
  if regionOf pa == some .host then { s with sent := s.sent ++ [.request w.iss.func (pa - 0x400000000000) n data atomic] }
  else if regionOf pa == some .peer && data.isSome && s.hub.portUp == 0 then
    s.later (.flaodPostedStoreError (Fin.ofNat 64 (pa / 0x4000000000)) (Fin.ofNat 17 w.iss.func))
  else s

def poisoned (s : State) (pa n : Nat) : Bool :=
  s.poison.any fun q => pa / 8 ≤ q && q ≤ (pa + n - 1) / 8

/-- Resetting a tangent slot on an invalidation (R274, R275, R285). -/
def TSlot.reset (k : TSlot) : TSlot :=
  { k with w := k.init, sbcount := 0, sbhead := 0, good := 0, errn := 0, errhead := 0, sampled := 0, runerr := 0,
           hist := Vector.replicate 64 0, steps := 0 }
def TSlot.invalidate (k : TSlot) : TSlot :=
  if k.st = 0 then k else { k.reset with st := 1, invals := k.invals + 1, epoch := k.epoch + 1 }

/-- The store numbered q reaches memory in several steps and is not at its end. -/
def storeLives (s : State) (q : Nat) : Bool :=
  (s.harts.any fun p => p.2.live.vstore ≠ 0 && p.2.live.vstore ≤ q && q < p.2.live.vstore + 4096) || s.vbuf.any fun p => p.2.no == q

/-- The watch on dependency ranges, before a store of n bytes at pa is performed.  One store invalidates a slot once, even
where it reaches memory in several pieces (R285). -/
def watchStore (s : State) (pa n : Nat) (except : Option Nat) : State :=
  { s with tslots := s.tslots.map fun (i, k) =>
      if k.st ≠ 0 && some i != except && !k.hits.contains s.storeNo && k.depbase.toNat < k.deplimit.toNat && k.depbase.toNat < pa + n && pa < k.deplimit.toNat then
        (i, { k.invalidate with hits := s.storeNo :: k.hits.filter (storeLives s) }) else (i, k) }
/-- Another store begins. -/
def State.nextStore (s : State) : State := { s with storeNo := s.storeNo + 1 }

/-- Numbers rising, with q among them. -/
def insRise (q : Nat) : List Nat → List Nat
  | [] => [q]
  | a :: r => if a < q then a :: insRise q r else if a = q then a :: r else q :: a :: r
/-- The 8-byte word at pa is held poisoned (R99, R203). -/
def poisonWord (s : State) (pa : Nat) : State := { s with poison := insRise (pa / 8) s.poison }
def unpoison (s : State) (pa n : Nat) : State :=
  { s with poison := s.poison.filter fun q => !(pa ≤ 8 * q && 8 * q + 8 ≤ pa + n) }

/-- The tile's data cache owns the line: it holds dirty bytes of it. -/
def ownsLine (s : State) (t : TileId) (pa : Nat) : Bool := s.dcache.any fun c => c.2.tile == t && c.1 / 64 == pa / 64

/-- A store of n bytes performed at its home. -/
def storeHome (s : State) (pa n v k : Nat) (except : Option Nat := none) : State :=
  wakeWaits (unpoison (homeWrite (recallLines (watchStore s pa n except) pa n none) pa n v k) pa n) pa n

/-- The bytes that V agents have stored and for which p holds are performed. -/
def performV (s : State) (p : Nat → Unperformed → Bool) : State :=
  let es := s.vbuf.filter fun c => p (c.1 % 2 ^ 48) c.2
  let s1 := es.foldl (fun s c => recallLines (watchStore { s with storeNo := c.2.no } (c.1 % 2 ^ 48) 1 none) (c.1 % 2 ^ 48) 1 none) s
  let s2 := es.foldl (fun s c => homeWrite s (c.1 % 2 ^ 48) 1 c.2.byte.toNat c.2.key) s1
  es.foldl (fun s c => wakeWaits s (c.1 % 2 ^ 48) 1)
    { s2 with vbuf := s.vbuf.filter fun c => !p (c.1 % 2 ^ 48) c.2, storeNo := s.storeNo }
/-- What the V agent of hart h has stored is performed (R58, R159, R187, R207, R286). -/
def performHart (s : State) (h : HartId) : State :=
  let s := performV s fun _ e => e.hart == h
  if (s.hart h).live.vfence then s.setHart h { s.hart h with live := { (s.hart h).live with vfence := false } } else s
/-- A join point: the accesses of the hart's VPs to one address are in program order across it (R158, R159). -/
def joinV (s : State) (h : HartId) : State :=
  if s.vbuf.any fun p => p.2.hart == h && p.2.vp.isSome then
    { s with vbuf := s.vbuf.map fun (k, e) => (k, if e.hart = h then { e with vp := none } else e) }
  else s
/-- Before an access of w: a V agent's stores before a `fencevv` (R58), and what it has stored to the same bytes where the access
goes past its own stores (R53). -/
def vOrder (s : State) (w : Who) (past : Bool) (pa n : Nat) : State :=
  match w.iss.hart with
  | some h =>
    if w.port != .v then s
    else if (s.hart h).live.vfence then performHart s h
    else if past then performV s fun a e => e.hart == h && pa ≤ a && a < pa + n
    else s
  | none => s

/-- A load of n bytes at a physical address of memory. -/
def physRead (w : Who) (pa n k : Nat) : M Nat := do
  modify fun s => vOrder s w false pa n
  modify fun s => recallLines (outRequest s w pa n none) pa n (if otherKey s w pa n k then none else w.keeps)
  return seenRead (← get) w pa k n

/-- A V store to a normal page that is performed later: the bytes wait.  Where another VP's store to one of them waits already, one
of the two is performed, in either order (R53, R159). -/
def bufferV (s : State) (h : HartId) (w : Who) (pa n v k : Nat) : State :=
  let other (a : Nat) (e : Unperformed) : Bool := e.hart == h && pa ≤ a && a < pa + n && e.vp.isSome && w.vp.isSome && e.vp != w.vp
  if (s.vbuf.any fun p => other (p.1 % 2 ^ 48) p.2) && !Config.laterWins s.now pa then storeHome s pa n v k
  else
  let s := performV s other
  { s with vbuf := (List.range n).foldl (fun d i =>
      mset d (2 ^ 48 * h.val + (pa + i)) ⟨h, w.vp, k, BitVec.ofNat 8 (v / 256 ^ i), s.storeNo⟩) s.vbuf }

/-- The hart whose V agent performs this store later. -/
def laterV (s : State) (w : Who) (cached : Bool) (pa n : Nat) : Option HartId :=
  match w.iss.hart with
  | some h => if cached && w.port == .v && (s.hart h).lazyV && !poisoned s pa n && (regionOf pa == some .hbm || regionOf pa == some .store)
      then some h else none
  | none => none

/-- The store of n bytes at pa: watches, then the home or, for a store to a normal page that is performed later, the tile's
data cache (R49, R56, R100) or the V agent's own stores (log 70).  For a cached store the watch acts when the home grants
ownership (R285). -/
def physWrite (w : Who) (cached : Bool) (pa n v k : Nat) (except : Option Nat := none) : M Unit := do
  let lazy := cached && w.port == .s && ((← get).tile w.tile).lazyWb
  if lazy then
    modify fun s =>
      let s := if ownsLine s w.tile pa then s else watchStore s pa n except
      let s := recallLines s pa n (if otherKey s w pa n k then none else some w.tile)
      unpoison { s with dcache := (List.range n).foldl (fun d i => mset d (pa + i) ⟨w.tile, k, BitVec.ofNat 8 (v / 256 ^ i)⟩) s.dcache } pa n
  else
    modify fun s => vOrder s w (laterV s w cached pa n).isNone pa n
    match laterV (← get) w cached pa n with
    | some h => modify fun s => bufferV s h w pa n v k
    | none => modify fun s => storeHome (outRequest s w pa n (some v)) pa n v k except

/-! Free memory of an access to the outside (R319, R324). -/

/-- A request to the host or a peer: whether it completes; with an error, it traps (log 12).  With every port down none to a
peer completes (R326). -/
def outside (x : Xl) (va : Nat) : M Bool := do
  let s ← get
  if x.region != .host && x.region != .peer then return true
  if s.outsideErr ≠ 0 then
    set { s with outsideErr := 0 }
    trap (if x.region == .host then 0x04 else s.outsideErr.toNat) va
  return !((x.region == .host && s.hostStall) || (x.region == .peer && (s.peerStall || s.hub.portUp == 0)))

/-- A future, barrier or atomic target under scrub or reset (R243). -/
def underScrub (s : State) (x : Xl) : Bool :=
  s.hub.lease.state == 2 && ((x.region == .hbm && !Config.secureHbm x.pa) || x.region == .store)

end Sys2Proof.Machine
end

