-- ==== Sys2Proof/Machine/Ops.lean ====
section
/-! DEFINITION. Named operations on harts and queues: registers, events, gears, notices, save and restore,
taking a trap and returning from it (09, 12, 13, 15, 18). -/
namespace Sys2Proof.Machine

/-! Registers. -/

/-- g[r]; g0 reads as zero (R90). -/
def State.g (s : State) (h : HartId) (r : Fin 32) : Word := if r = 0 then 0 else (s.hart h).c.g[r]
/-- g[r] := v; a write to g0 is discarded (R90). -/
def State.setG (s : State) (h : HartId) (r : Fin 32) (v : Word) : State :=
  if r = 0 then s else s.onHart h fun x => { x with c := { x.c with g := x.c.g.set r v } }
def State.setPc (s : State) (h : HartId) (pc : Word) : State := s.onHart h fun x => { x with c := { x.c with pc := pc } }
def State.onCtx (s : State) (h : HartId) (f : Ctx → Ctx) : State := s.onHart h fun x => { x with c := f x.c }
def State.onLive (s : State) (h : HartId) (f : Live → Live) : State := s.onHart h fun x => { x with live := f x.live }
def State.setSt (s : State) (h : HartId) (i : Fin 18) (v : Word) : State := s.onCtx h fun c => { c with st := c.st.set i v }
def State.setWait (s : State) (h : HartId) (w : Wait) : State := s.onLive h fun l => { l with wait := w }
def Ctx.vl (c : Ctx) : Nat := c.st[0].toNat
def Ctx.vt (c : Ctx) : Nat := c.st[1].toNat
def Ctx.vsi (c : Ctx) : Nat := c.st[2].toNat
/-- XFLAGS := XFLAGS OR f (R37). -/
def State.orFlags (s : State) (h : HartId) (f : Nat) : State :=
  if f = 0 then s else s.onCtx h fun c => { c with st := c.st.set 4 (c.st[4] ||| BitVec.ofNat 64 f) }

/-- Whether the hart's live values are those in the control core and the lanes (R201). -/
def Hart.onCore (x : Hart) : Bool := x.state == .running || x.state == .stopping

/-! The sector map (R220, R205). -/

def slotHN (w : Word) : Nat := w.toNat % 16
def slotHF (w : Word) : Nat := w.toNat / 16 % 8
def slotN (w : Word) : Nat := w.toNat / 256 % 16
def slotF (w : Word) : Nat := w.toNat / 4096 % 8
def slotPN (w : Word) : Nat := w.toNat / 65536 % 16
def slotPF (w : Word) : Nat := w.toNat / 0x100000 % 8
def State.slotWord (s : State) (h : HartId) : Word := (s.tile (tileOf h)).slots[slotOf h]
/-- Lanes a hart holds. -/
def State.lanes (s : State) (h : HartId) : Nat := 4 * slotN (s.slotWord h)
def holderOf (t : Tile) (g : Nat) : Nat := t.holder.toNat / 16 ^ g % 16
/-- The slot whose home run holds group g (R221: at most one). -/
def homeOf (t : Tile) (g : Nat) : Option (Fin 8) :=
  (List.finRange 8).find? fun i => slotHN t.slots[i] ≠ 0 && slotHF t.slots[i] ≤ g && g < slotHF t.slots[i] + slotHN t.slots[i]
def idleSlot (s : State) (t : TileId) (i : Fin 8) : Bool :=
  let x := (s.hart (hartOf t i)).state; x == .empty || x == .exited
/-- R223: a group that slot i holds is recalled when its home is another slot that is neither EMPTY nor EXITED. -/
def recalledFrom (s : State) (t : TileId) (i : Fin 8) (g : Nat) : Bool :=
  let x := s.tile t
  holderOf x g == i.val && (match homeOf x g with | some j => j != i && !idleSlot s t j | none => false)
def lendable (s : State) (t : TileId) (i : Fin 8) (g : Nat) : Bool :=
  let x := s.tile t
  match homeOf x g with
  | none => holderOf x g == 15
  | some j => j != i && idleSlot s t j && (holderOf x g == 15 || holderOf x g == j.val)
/-- Some home group of the hart is on loan (R223). -/
def homeOnLoan (s : State) (h : HartId) : Bool :=
  let x := s.tile (tileOf h); let w := s.slotWord h
  (List.range 8).any fun g => slotHF w ≤ g && g < slotHF w + slotHN w && holderOf x g != (slotOf h).val
/-- The holder word with group g held by i (15: by no slot). -/
def setHolder (x : Nat) (g i : Nat) : Nat := putBits x (4 * g + 3) (4 * g) i
/-- Slot i gives back every group it holds outside its home run, and holds its home groups (R221, R223). -/
def releaseToHome (s : State) (h : HartId) : State :=
  s.onTile (tileOf h) fun x =>
    let i := slotOf h
    let w := x.slots[i]
    let inHome (g : Nat) : Bool := slotHF w ≤ g && g < slotHF w + slotHN w
    let hold := (List.range 8).foldl (fun a g =>
      if a / 16 ^ g % 16 = i.val ∧ !inHome g then
        setHolder a g (match homeOf x g with | some j => if j = i then 15 else j.val | none => 15)
      else if inHome g ∧ a / 16 ^ g % 16 = 15 then setHolder a g i.val else a) x.holder.toNat
    { x with holder := BitVec.ofNat 32 hold
             slots := x.slots.set i (BitVec.ofNat 64 (putBits (putBits (putBits w.toNat 11 8 (slotHN w)) 14 12 (slotHF w)) 24 24 0)) }
/-- The images that a renegotiation of lanes resets (R223). -/
def Ctx.renegotiated (c : Ctx) : Ctx :=
  { c with hw := Vector.replicate 32 0, st := c.st.set 16 0, accst := 0, m := Vector.replicate 8 0, k := Vector.replicate 8 0,
           mPois := Vector.replicate 8 0, kPois := Vector.replicate 8 0 }

/-- The same for a hart that is not on the core: the lanes hold nothing of it (R223). -/
def Hart.renegotiated (x : Hart) : Hart :=
  { x with img := x.img.renegotiated, live := { x.live with stored := 0, vPois := Vector.replicate 32 0, aPois := Vector.replicate 4 0 } }

/-! VLMAX and VT fields (R105 to R107). -/

def fmtWidth (f : Nat) : Nat :=
  match f with
  | 0 => 8 | 1 => 16 | 2 => 32 | 3 => 64 | 4 => 4 | 5 => 2 | 6 => 16 | 7 => 16 | 8 => 32 | 9 => 64 | 10 => 8 | 11 => 8 | 12 => 4 | 13 => 8
  | _ => 8
def vtEw (vt : Nat) : Nat := vt % 16
def vtEw2 (vt : Nat) : Nat := vt / 16 % 16
def vtG (vt : Nat) : Nat := 2 ^ (vt / 256 % 4)
def vtBlock (vt : Nat) : Nat := vt / 1024 % 4
def vtIll (vt : Nat) : Bool := 2 ^ 63 ≤ vt
def vlMax (lanes vt : Nat) : Nat := min 4096 (lanes * 256 * vtG vt / fmtWidth (vtEw vt))
def scalable (f : Nat) : Bool := 10 ≤ f && f ≤ 13
/-- R107, bits [63:13] apart. -/
def vtIllegal (vt : Nat) : Bool :=
  14 ≤ vtEw vt || 14 ≤ vtEw2 vt || 8 * fmtWidth (vtEw vt) < vtG vt * fmtWidth (vtEw2 vt)
  || 8 * (vtG vt * fmtWidth (vtEw2 vt)) < fmtWidth (vtEw vt)
  || (vtBlock vt != 0 && !(scalable (vtEw vt) || scalable (vtEw2 vt)))
/-- VT as a value that R110 validates stands in the register. -/
def vtValue (v : Nat) : Word :=
  if v / 8192 ≠ 0 ∨ vtIllegal (v % 4096) then 0x8000000000000000#64 else BitVec.ofNat 64 (v % 4096)

/-! Who a hart is. -/

def issuer (s : State) (h : HartId) : Issuer :=
  let x := s.hart h
  { hart := some h, func := x.func.toNat, space := x.space.toNat, secure := x.world }
def whoS (s : State) (h : HartId) : Who := ⟨issuer s h, .s, tileOf h, none⟩
def whoV (s : State) (h : HartId) : Who := ⟨issuer s h, .v, tileOf h, none⟩
def Issuer.eng (i : Issuer) (t : TileId) : Who := ⟨i, .eng, t, none⟩
/-- The device itself, at device scope. -/
def whoHome : Who := ⟨{ hart := none, func := 0, space := 0, secure := true }, .eng, 0, none⟩
def funcKey (s : State) (f : Nat) : Nat := (s.func f).w[6].toNat % 4096

/-- A tenant's hart, which runs on no cluster in start-up, test or recovery mode (R332, R333). -/
def Hart.tenant (x : Hart) : Bool := x.func != 31 && !x.world
/-- The mode of its cluster holds the hart: it does not run, and no RESUME or STEP of it acts (R332; log 81). -/
def clusterHolds (s : State) (h : HartId) : Bool := (s.hart h).tenant && s.hub.cluster.getLsbD (h.val / 64)
/-- The hart does not move: its tile is in a gear change (R17, R293), or the mode of its cluster holds it (R332). -/
def standsStill (s : State) (h : HartId) : Bool := (s.tile (tileOf h)).gchg || clusterHolds s h

/-- An access stands at the host or a peer. -/
def Wait.isOutside : Wait → Bool
  | .outside _ _ _ => true
  | _ => false

/-! Gears (R290 to R294). -/

def Hart.requesting (x : Hart) : Bool :=
  x.state == .running && (match x.live.wait with | .barw _ _ _ _ | .tget _ _ | .outside _ _ true => false | _ => true)
def Hart.near (x : Hart) : Bool := x.c.st[5].toNat % 2 == 1
def wantNear (s : State) (t : TileId) : Bool :=
  (List.finRange 8).all fun i => let x := s.hart (hartOf t i); !(x.requesting && !x.near)
/-- The tile begins a change when the wanted gear differs and none is in progress (R293). -/
def gearCheck (s : State) (t : TileId) : State :=
  let x := s.tile t
  if !x.gchg && wantNear s t != x.gcur then
    (s.setTile t { x with gchg := true, nchg := x.nchg + 1, cycBase := s.cycle t, cycSince := s.now }).later (.gearChangeEnd t)
  else s
/-- GEAR.REQ := near (R290). -/
def setReq (s : State) (h : HartId) (near : Bool) : State :=
  gearCheck (s.setSt h 5 (if near then 1 else 0)) (tileOf h)

/-! Events (R211, R212). -/

/-- Event 0x101 + i is raised at hart h: in EVPEND, or in its image while the hart is not on the core. -/
def pendEvent (s : State) (h : HartId) (i : Fin 4) (v : Word) : State :=
  s.onHart h fun x =>
    let set (c : Ctx) : Ctx := { c with st := c.st.set 11 (c.st[11] ||| BitVec.ofNat 64 (2 ^ i.val)) }
    let x := { x with evval := x.evval.set i v }
    if x.onCore then { x with c := set x.c } else { x with img := set x.img }
/-- The same, held back while the tile changes gear (R296). -/
def raiseEvent (s : State) (h : HartId) (i : Fin 4) (v : Word) : State :=
  if (s.tile (tileOf h)).gchg then s.onHart h fun x => { x with evlate := x.evlate ++ [(i, v)] }
  else pendEvent s h i v
def raiseAt (s : State) (h : Option HartId) (i : Fin 4) (v : Word) : State :=
  match h with
  | some h => raiseEvent s h i v
  | none => s

/-! Queues (R244, R245, R253 to R256). -/

def qKind (q : Queue) : Nat := q.w[0].toNat % 8
def qEn (q : Queue) : Bool := q.w[0].toNat / 256 % 2 == 1
def qNb (q : Queue) : Bool := q.w[0].toNat / 512 % 2 == 1
def qHalt (q : Queue) : Bool := q.w[0].toNat / 1024 % 2 == 1
def qKernel (q : Queue) : Nat := q.w[0].toNat / 65536 % 4096
def qKv (q : Queue) : Bool := q.w[0].toNat / 2 ^ 28 % 2 == 1
def qBase (q : Queue) : Nat := q.w[1].toNat % 2 ^ 48
def qCap (q : Queue) : Nat := 2 ^ (q.w[2].toNat % 32)
def qHead (q : Queue) : Nat := q.w[3].toNat % 2 ^ 32
def qTail (q : Queue) : Nat := q.w[4].toNat % 2 ^ 32
def qCount (q : Queue) : Nat := (qTail q + 2 ^ 32 - qHead q) % 2 ^ 32
def qFull (q : Queue) : Bool := qCount q == qCap q
def qCode (q : Queue) : Nat := q.w[5].toNat % 256
def qOwner (q : Queue) : Nat := q.w[7].toNat % 32
def qWorld (q : Queue) : Bool := q.w[7].toNat / 256 % 2 == 1
def entrySize (kind : Nat) : Nat := if kind = 2 then 4 else if kind = 3 then 64 else 32
def ringAddr (q : Queue) (i : Nat) : Nat := qBase q + i % qCap q * entrySize (qKind q)
def Queue.setTail (q : Queue) (v : Nat) : Queue := { q with w := q.w.set 4 (BitVec.ofNat 64 (v % 2 ^ 32)) }
def Queue.setHead (q : Queue) (v : Nat) : Queue := { q with w := q.w.set 3 (BitVec.ofNat 64 (v % 2 ^ 32)) }

/-- The home of queue q at its ring: for the host, the function that owns the queue asks (R244, R319). -/
def ringAgent (q : Queue) : Who := { whoHome with iss := { whoHome.iss with func := qOwner q } }

/-- n words of a ring entry, written by the home; the store of a quarantined tile takes none (R20). -/
def homeWords (s : State) (w : Who) (pa key : Nat) : List Word → State
  | [] => s
  | v :: r => homeWords (if quarantined s pa then s else ((physWrite w false pa 8 v.toNat key).run.run s).2) w (pa + 8) key r

/-- The four words of a 32-byte entry go to the ring at TAIL, and TAIL advances. -/
def ringPut (s : State) (n : Nat) (e : List Word) : State :=
  let q := s.queue n
  (homeWords s (ringAgent q) (ringAddr q (qTail q)) q.key e).setQueue n (q.setTail (qTail q + 1))

/-- ERR takes a code, or counts it in LATER; HALT is set (R254, R256). -/
def Queue.withError (q : Queue) (code detail : Nat) : Queue :=
  let e := q.w[5].toNat
  if e % 256 = 0 then
    { q with w := (q.w.set 5 (BitVec.ofNat 64 (code + 256 * (detail % 2 ^ 24) + e / 2 ^ 32 * 2 ^ 32))).set 0 (q.w[0] ||| 0x400#64) }
  else { q with w := q.w.set 5 (BitVec.ofNat 64 (e % 2 ^ 32 + min (2 ^ 32 - 1) (e / 2 ^ 32 + 1) * 2 ^ 32)) }

/-- The MSI-X message of an append to queue q, or its pending bit (R320). -/
def messageFor (s : State) (q : Queue) (f : Nat) : State :=
  if q.w[6].toNat / 2 ^ 22 % 2 = 1 then
    let i : Fin 64 := Fin.ofNat 64 (q.w[6].toNat / 65536)
    let x := s.func f
    if (x.msix[2 * i.val + 1]!).toNat / 2 ^ 32 % 2 = 1 then s.setFunc f { x with msixPend := x.msixPend ||| BitVec.ofNat 64 (2 ^ i.val) }
    else { s with sent := s.sent ++ [.msix (Fin.ofNat 17 f) i] }
  else s

/-- One entry for the EVENT (kind 4) or FAULT (kind 5) queue of function f (R256).  Answers also the queue whose
first loss this is. -/
def post (s : State) (f kind : Nat) (e : List Word) : State × Option Nat :=
  let x := s.func f
  let c := x.w[1].toNat
  let (valid, n) := if kind = 4 then (c / 65536 % 2 == 1, c % 65536) else (c / 2 ^ 48 % 2 == 1, c / 2 ^ 32 % 65536)
  let q := s.queue n
  if valid && qKind q == kind && qOwner q == f && qWorld q == (x.w[0].toNat / 256 % 2 == 1) then
    if qEn q && !qFull q then (messageFor (ringPut s n e) q f, none)
    else (s.setQueue n (q.withError 0x23 (Config.openField s.now 0).toNat), if qCode q = 0 then some n else none)
  else
    let l := x.w[9].toNat
    let l' := if kind = 4 then min (2 ^ 32 - 1) (l % 2 ^ 32 + 1) + l / 2 ^ 32 * 2 ^ 32
      else l % 2 ^ 32 + min (2 ^ 32 - 1) (l / 2 ^ 32 + 1) * 2 ^ 32
    (s.setFunc f { x with w := x.w.set 9 (BitVec.ofNat 64 l') }, none)

/-- An EVENT entry (R256). -/
def postEvent (s : State) (f code tag qnum detail : Nat) : State :=
  (post s f 4 [BitVec.ofNat 64 (code + 65536 * tag), BitVec.ofNat 64 qnum, BitVec.ofNat 64 detail, s.tick]).1

/-- A queue error: latched, and reported by an EVENT entry (R254, R256). -/
def queueError (s : State) (n code detail tag : Nat) : State :=
  let q := s.queue n
  let s' := s.setQueue n (q.withError code detail)
  if qCode q = 0 then postEvent s' (qOwner q) code tag n (detail % 2 ^ 24) else s'

/-- A FAULT notice (R209, R234); the first loss at the queue is itself a queue error (R256). -/
def postNotice (s : State) (f : Nat) (hart : Word) (cause : Nat) (tpc tval : Word) : State :=
  match post s f 5 [hart, BitVec.ofNat 64 cause, tpc, tval] with
  | (s', none) => s'
  | (s', some n) => postEvent s' f 0x23 0 n ((s'.queue n).w[5].toNat / 256 % 2 ^ 24)

/-- Engine page e records a fault: its cause and address, and one more (R200). -/
def engineNote (s : State) (e cause addr : Nat) : State :=
  let x := s.engine e
  s.setEngine e { x with w := ((x.w.set 5 (BitVec.ofNat 64 (cause % 256 + 256))).set 6 (BitVec.ofNat 64 addr)).set 7 (x.w[7] + 1) }

/-! The vector queue (R150, R166). -/

def vqCount (c : Ctx) : Nat := min 12 c.vqcount.toNat
def vqAt (c : Ctx) (k : Nat) : Vector Word 8 := c.vq[k % 12]!
def entryBegun (x : Vector Word 8) : Bool := x[7].toNat % 2 == 1
def entryDone (x : Vector Word 8) : Bool := x[7].toNat / 2 % 2 == 1
/-- A fetch entry: VCTL, D = 0 or 7. -/
def entryFetch (x : Vector Word 8) : Bool := x[1].toNat % 4 == 1 && x[1].toNat / 8 % 64 == 0x36
/-- The entry of an `sfree`, and its register. -/
def entrySfree (x : Vector Word 8) : Option Nat :=
  let w := x[1].toNat
  if w % 512 = 1 + 8 * 33 ∧ w / 16384 = 1024 then some (w / 512 % 32) else none
def entryByReg (x : Vector Word 8) : Bool := x[1].toNat / 512 % 32 == 7
def entryBase (x : Vector Word 8) : Word := if entryByReg x then x[5] else x[4]
def entryFacet (x : Vector Word 8) : Nat := if entryByReg x then (x[4] - x[5]).toNat / 64 else x[1].toNat / 16384 % 65536
/-- The first address of the facet n of a fetch entry (R148). -/
def facetAddr (x : Vector Word 8) (n : Nat) : Word := entryBase x + BitVec.ofNat 64 (64 * n)


/-- The current entry: BEGUN and not SDONE (R166). -/
def curEntry (c : Ctx) : Option Nat :=
  (List.range (vqCount c)).find? fun k => entryBegun (vqAt c k) && !entryDone (vqAt c k)
/-- A vector-side fault that is not entered yet. -/
def vPending (x : Hart) : Bool := x.live.vfault.isSome || x.live.tvps.any fun t => t.faulted.isSome
/-- The fault that is reported: of the stream instruction and the faulted VPs, the lowest-indexed (R164). -/
def vReported (x : Hart) : Option Trap :=
  (x.live.vfault.toList ++ x.live.tvps.filterMap (·.faulted)).foldl (fun a t =>
    match a with
    | none => some t
    | some u => if t.telem < u.telem then some t else some u) none
/-- It is entered at the control thread's next boundary, or after the `tret` of a control-side fault entered first
(R164, R218). -/
def vDue (x : Hart) : Bool := vPending x && !(x.live.vhold && x.c.inh)

/-- Nothing is queued, streaming or threaded. -/
def vIdle (x : Hart) : Bool := vqCount x.c == 0 && x.live.tvps.isEmpty
/-- Every earlier vector instruction has completed; a unit that a fault froze is not waited for (R158, R164). -/
def vDrained (x : Hart) : Bool := (x.live.frozen && !vDue x) || vIdle x

/-! Saving and restoring a context (R203, R204, R207, R208, R169, R167). -/

/-- A byte of a VSAVE area is there: in HBM or a tile store that is not quarantined (R20, R203). -/
def areaOk (s : State) (pa : Nat) : Bool := (regionOf pa == some .hbm || regionOf pa == some .store) && !quarantined s pa

/-- Bytes to an area that is there at both ends, as one store; a word wholly written is no longer poisoned.  DESIGN CHOICE: one
that is written in part stays poisoned (log 71). -/
def areaPut (s : State) (key pa : Nat) (bs : List Byte) : State :=
  let n := bs.length
  if areaOk s pa && areaOk s (pa + n - 1) then
    let s := recallLines (watchStore s pa n none) pa n none
    let s := if hbm pa then (List.range ((pa + n - 1) / 64 + 1 - pa / 64)).foldl (fun s i => rekey s (pa / 64 + i) (keyAt s key)) s else s
    wakeWaits (unpoison { s with mem := memPut (s.mem.length + n) s.mem pa bs } pa n) pa n
  else s

/-- The low n bytes of a value. -/
def bytesOf : Nat → Nat → List Byte
  | 0, _ => []
  | n + 1, v => BitVec.ofNat 8 v :: bytesOf n (v / 256)

/-- A value and its poison marks saved: n bytes, and the words of poisoned bits held poisoned (R203, R219). -/
def areaWrite (s : State) (key pa n v p : Nat) : State :=
  let s := areaPut s key pa (bytesOf n v)
  if p % 256 ^ n = 0 then s
  else (List.range n).foldl (fun s i => if p / 256 ^ i % 256 ≠ 0 && areaOk s (pa + i) then poisonWord s (pa + i) else s) s

/-- The bytes of an area, and which of their bits are poisoned. -/
def areaRead (s : State) (key pa : Nat) : Nat → Nat × Nat
  | 0 => (0, 0)
  | n + 1 =>
    let (v, p) := areaRead s key (pa + 1) n
    let ok := areaOk s pa
    (256 * v + (if ok then (homeByte s pa key).toNat else 0), 256 * p + (if ok && poisoned s pa 1 then 255 else 0))

def runM (m : M Unit) (s : State) : State := (m.run.run s).2

/-- Register j is bound to a ray (R183). -/
def rayBound (c : Ctx) (j : Nat) : Option (Fin 8) :=
  (List.finRange 8).find? fun r => c.rays[r][0].toNat % 2 == 1 && c.rays[r][0].toNat / 2 % 32 == j
/-- Register j is a ray: its `sbind` has left the vector queue (R186). -/
def rayOf (c : Ctx) (j : Nat) : Option (Fin 8) :=
  (rayBound c j).filter fun r => c.rays[r][0].toNat / 512 % 2 == 1

/-- Bytes 0 to hw − 1 of the first lanes of a register (R204). -/
def saveReg (key area hw v p : Nat) : Nat → State → State
  | 0, s => s
  | l + 1, s => areaWrite (saveReg key area hw v p l s) key (area + 32 * l) hw (v / 2 ^ (256 * l)) (p / 2 ^ (256 * l))
/-- The bits of a register at and above byte hw of each lane (R204). -/
def aboveMark (hw : Nat) : Nat :=
  (List.range 32).foldl (fun a l => a + 2 ^ (256 * l) * (2 ^ 256 - 2 ^ (8 * min 32 hw))) 0
/-- Poison that a save has not stored: all of a register or accumulator that was not dirty, and what stands above the mark.  It
stays in the lanes over a stop (R169, R204, R219). -/
def keptPoison (x : Hart) (j : Fin 32) : BitVec 8192 :=
  if x.live.stored.toNat / 2 ^ j.val % 2 = 1 then x.live.vPois[j] &&& BitVec.ofNat 8192 (aboveMark x.c.hw[j].toNat) else x.live.vPois[j]
def keptAcc (x : Hart) (t : Fin 4) : BitVec 262144 :=
  if x.live.stored.toNat / 2 ^ (32 + t.val) % 2 = 1 then 0 else x.live.aPois[t]

/-- The VP PC entry and the fetch entry of VP i (R167). -/
def vpWord (l : Live) (i : Nat) : Nat × Nat :=
  match l.tvps.find? fun t => t.vp.val == i with
  | some t => (t.facet % 0x8000, t.entry)
  | none => if l.inStream.toNat / 2 ^ i % 2 = 1 then (0x8000, 0xFF) else (0xFFFF, 0xFF)

/-- Undo one write of a threaded VP. -/
def undoOne (x : Hart) (i : Fin 4096) (u : Undo) : Hart :=
  let hi := u.bit + u.width - 1
  match u.cls with
  | .vector => { x with live := { x.live with
      v := x.live.v.set u.reg (BitVec.ofNat 8192 (putBits x.live.v[u.reg].toNat hi u.bit u.old))
      vPois := x.live.vPois.set u.reg (BitVec.ofNat 8192 (putBits x.live.vPois[u.reg].toNat hi u.bit u.pois)) } }
  | .mask =>
    let r : Fin 8 := Fin.ofNat 8 u.reg.val
    { x with c := { x.c with
      m := x.c.m.set r (BitVec.ofNat 4096 (putBits x.c.m[r].toNat hi u.bit u.old))
      mPois := x.c.mPois.set r (BitVec.ofNat 4096 (putBits x.c.mPois[r].toNat hi u.bit u.pois)) } }
  | .scale => { x with live := { x.live with
      tvps := x.live.tvps.map fun t => if t.vp = i then { t with cnt := BitVec.ofNat 64 u.old } else t } }
  | .accumulator => x
/-- VP i gives up its uncommitted writes and stands at its facet's first instruction again (R161). -/
def rollVp (x : Hart) (i : Fin 4096) : Hart :=
  match x.live.tvps.find? fun t => t.vp == i with
  | none => x
  | some t =>
    let x := t.undo.foldl (fun x u => undoOne x i u) x
    { x with live := { x.live with tvps := x.live.tvps.map fun y =>
        if y.vp = i then { y with undo := [], faulted := none, pc := facetAddr (vqAt x.c y.entry) y.facet } else y } }
def rollBack (x : Hart) : Hart := x.live.tvps.foldl (fun x t => rollVp x t.vp) x

/-- Status images (R205): HARTID, CYCLE, TICK and LANES as they read now. -/
def lanesWord (s : State) (h : HartId) : Word :=
  let w := s.slotWord h; let vt := (s.hart h).c.vt
  BitVec.ofNat 64 (slotN w + 16 * slotF w + 256 * (4 * slotN w) + 65536 * (if vtIll vt then 0 else vlMax (4 * slotN w) vt))
def gearWord (s : State) (h : HartId) : Word :=
  BitVec.ofNat 64 ((s.hart h).c.st[5].toNat % 2 + (if (s.tile (tileOf h)).gcur then 256 else 0))
def statusImages (s : State) (h : HartId) : Vector Word 18 :=
  (((((s.hart h).c.st.set 5 (gearWord s h)).set 12 (hartIdWord h)).set 13 (s.cycle (tileOf h))).set 14 s.tick).set 15 (lanesWord s h)

/-- No agent translates through an old value of an entry at one of the addresses p (R310, R335). -/
def cutEntries (s : State) (p : List Nat) : State :=
  if p.isEmpty then s
  else { s with harts := s.harts.map fun (i, x) => (i, { x with tstores := x.tstores.filter fun q => !p.contains q.1 }) }
/-- No agent translates through an old value of an entry that the hart has stored to (R310, R311). -/
def cutTables (s : State) (h : HartId) : State := cutEntries s ((s.hart h).tstores.map (·.1))

/-- The control thread's last load, where it is not performed yet, is performed: its register takes the value (R53; log 70). -/
def landLate (s : State) (h : HartId) : State :=
  match (s.hart h).live.late with
  | none => s
  | some l =>
    let s := s.onLive h fun x => { x with late := none }
    match (physRead (whoS s h) l.pa l.n l.key).run.run s with
    | (.ok v, s') => s'.setG h l.reg (if l.signed then wordOf (sgn (8 * l.n) v) else BitVec.ofNat 64 v)
    | (.error _, s') => s'

/-- Steps 3 to 5 of R207: everything is performed, cuts complete, images and the VSAVE area written.
STATE is left to the caller. -/
def save (s : State) (h : HartId) : State :=
  let s := cutTables (performHart (sendHome (landLate (s.onHart h rollBack) h) (tileOf h)) h) h
  let x := s.hart h
  let key := funcKey s x.func.toNat
  let lanes := s.lanes h
  let area := x.vsave.toNat
  let dirty := x.c.st[16].toNat
  let saved (j : Nat) : Bool := dirty / 2 ^ j % 2 = 1 && (rayOf x.c j).isNone
  let s := (List.finRange 32).foldl (fun s j =>
    if saved j.val then
      saveReg key (area + 0x400 * j.val) x.c.hw[j].toNat x.live.v[j].toNat x.live.vPois[j].toNat lanes s
    else s) s
  let s := (List.finRange 4).foldl (fun s t =>
    if x.c.accst.toNat / 2 ^ t.val % 2 = 1 then
      areaWrite s key (area + 0x8000 + 0x8000 * t.val) (lanes * 1024) x.live.acc[t].toNat x.live.aPois[t].toNat
    else s) s
  let s := x.live.tvps.foldl (fun s t => areaWrite s key (area + 0x2A000 + 8 * t.vp.val) 8 t.cnt.toNat 0) s
  let vps := (List.range 4096).map (vpWord x.live)
  let s := areaPut s key (area + 0x28000) (vps.flatMap fun p => [BitVec.ofNat 8 p.1, BitVec.ofNat 8 (p.1 / 256)])
  let s := areaPut s key (area + 0x32000) (vps.map fun p => BitVec.ofNat 8 p.2)
  let acc := BitVec.ofNat 64 ((x.c.accst.toNat / 16 % 16) * 16 + ((x.c.accst.toNat / 256 % 16) ||| (x.c.accst.toNat % 16)) * 256 + 4096)
  let img := { x.c with st := statusImages s h, accst := acc }
  s.onHart h fun x => { x with
    img := img, c := { x.c with st := x.c.st.set 16 0, accst := acc }
    live := { x.live with stored := BitVec.ofNat 36 ((List.range 32).foldl (fun a j => if saved j then a + 2 ^ j else a) 0 + x.c.accst.toNat % 16 * 2 ^ 32) } }

/-- The must-be-zero, COUNT, EW, DEPTH, MODE and INNER checks of a ray descriptor (R186 item 1). -/
def descBad (d : Vector Word 8) : Bool :=
  let f := d[4].toNat
  f / 8 % 32 != 0 || f / 4096 % 16 != 0 || f / 2 ^ 24 != 0 || d[7] != 0 || d[1].toNat % 2 ^ 32 == 0
  || fmtWidth (f / 256 % 16) < 8 || 14 ≤ f / 256 % 16 || f / 65536 % 256 == 0 || f % 4 == 3
  || (f / 4 % 2 == 1 && d[1].toNat / 2 ^ 32 == 0)

/-- Every byte of [va, va + n) lies in the store of tile t (R186 item 4). -/
def landOk (s : State) (w : Who) (t : TileId) (va n : Nat) : Bool :=
  va % 64 == 0 && (List.range (n / 64)).all fun i =>
    match leafFor s w .load (va + 64 * i) with
    | some (e, _, lvl) =>
      let pa := eFrame e + (va + 64 * i) % leafSize lvl
      regionOf pa == some .store && (pa - 0x100000000000) / 0x200000 == t.val
    | none => false

/-- n words of memory by the S agent, with the faults of R99 for an aligned load of them all. -/
def loadWords (w : Who) (va : Nat) : Nat → M (List Word)
  | 0 => pure []
  | n + 1 => do
    let s ← get
    match xlate s w .load va with
    | .error t => throw t
    | .ok x =>
      set (touch s x false)
      let s ← get
      if x.region == .control || (x.region == .device && !inArena s x.pa) then trap 0x0E va
      let pa := if inArena s x.pa then backing s x.pa else x.pa
      if poisoned s pa 8 then trap 0x0B va
      if !(← outside x va) then trap 0x04 va
      let v ← if inArena s x.pa then pure (memRead s.mem pa 8)
        else physRead (if eKind x.leaf = 0 then w else { w with port := .eng }) x.pa 8 (eKey x.leaf)
      let r ← loadWords w (va + 8) n
      return BitVec.ofNat 64 v :: r

/-- RCTL with the fields that the descriptor gives: DIR, MODE, DIM and EW (R192, R193). -/
def rctlOf (w0 : Nat) (d : Vector Word 8) : Nat := putBits (putBits w0 8 6 (d[4].toNat % 8)) 15 12 (d[4].toNat / 256 % 16)

/-- RESUME reads the descriptor of each live ray again and uses what it then holds; where it cannot, the ray keeps a
restore error (R192, R193). -/
def restoreRay (h : HartId) (s : State) (r : Fin 8) : State :=
  let x := s.hart h
  let e := x.c.rays[r]
  let bad (s : State) (addr : Word) (cause : Nat) : State :=
    s.onHart h fun x => { x with
      c := { x.c with rays := x.c.rays.set r (((e.set 0 (BitVec.ofNat 64 (putBits e[0].toNat 31 24 7))).set 5 addr).set 6
        (BitVec.ofNat 64 (cause + 256 * (e[3].toNat % 2 ^ 32)))) }
      rayRest := x.rayRest ||| BitVec.ofNat 8 (2 ^ r.val) }
  if e[0].toNat % 2 = 1 ∧ e[0].toNat / 512 % 2 = 1 then
    match (if e[1].toNat % 64 ≠ 0 then trap 0x03 e[1].toNat else loadWords (whoS s h) e[1].toNat 8 : M (List Word)).run.run s with
    | (.error t, s') => bad s' e[1] t.cause
    | (.ok ws, s') =>
      let d := Vector.ofFn fun i : Fin 8 => ws.getD i.val 0
      let s' := s'.onLive h fun l => { l with rdesc := l.rdesc.set r d }
      if descBad d then bad s' e[1] 0x09
      else if !landOk s' (whoS s' h) (tileOf h) d[5].toNat (256 * (d[4].toNat / 65536 % 256)) then bad s' d[5] 0x09
      else s'.onCtx h fun c => { c with rays := c.rays.set r (e.set 0 (BitVec.ofNat 64 (rctlOf e[0].toNat d))) }
  else s

/-- The first lanes of a register, as saveReg has saved them. -/
def restoreReg (s : State) (key area hw : Nat) : Nat → Nat × Nat
  | 0 => (0, 0)
  | l + 1 =>
    let (v, p) := restoreReg s key area hw l
    let (a, b) := areaRead s key (area + 32 * l) hw
    (v + a * 2 ^ (256 * l), p + b * 2 ^ (256 * l))

/-- The in-stream set and the threaded VPs of a saved VP PC array (R167). -/
def restoreVps (s : State) (key area : Nat) : BitVec 4096 × List TVP :=
  let pcs := (areaRead s key (area + 0x28000) 8192).1
  let cnt (i : Nat) : Nat := (areaRead s key (area + 0x2A000 + 8 * i) 8).1
  let ents := (areaRead s key (area + 0x32000) 4096).1
  let pcOf (i : Nat) : Nat := pcs / 2 ^ (16 * i) % 65536
  ((List.range 4096).foldl (fun a i => if pcOf i = 0x8000 then a ||| BitVec.ofNat 4096 (2 ^ i) else a) 0,
   (List.finRange 4096).filterMap fun i =>
    if pcOf i.val < 0x8000 then
      some { vp := i, facet := pcOf i.val, pc := 0, cnt := BitVec.ofNat 64 (cnt i.val), entry := ents / 2 ^ (8 * i.val) % 256 }
    else none)

/-- Restore (R208): the reverse of the save, with status images taken as `setst` would. -/
def restore (s : State) (h : HartId) : State :=
  let x := s.hart h
  let key := funcKey s x.func.toNat
  let lanes := s.lanes h
  let area := x.vsave.toNat
  let s := recallLines s area 0x33000 none
  let i := x.img
  let vt := vtValue (i.st[1].toNat % 2 ^ 63 + (if vtIll i.st[1].toNat then 2 ^ 63 else 0))
  let vmax := if vtIll vt.toNat then 0 else vlMax lanes vt.toNat
  let st := (((((((((i.st.set 1 vt).set 0 (BitVec.ofNat 64 (min i.st[0].toNat vmax))).set 2 (i.st[2] &&& 0x1FFF#64)).set 4 (i.st[4] &&& 0x7F#64)).set 5
    (i.st[5] &&& 1#64)).set 7 (i.st[7] &&& 0x3FF#64)).set 10 (i.st[10] &&& 0x1000F#64)).set 11 (i.st[11] &&& 0xF#64)).set 16 0).set 17
    (i.st[17] &&& 0x1FFF#64)
  let regs := fun j : Fin 32 => restoreReg s key (area + 0x400 * j.val) (min 32 i.hw[j].toNat) lanes
  let accs := fun t : Fin 4 => if i.accst.toNat / 2 ^ (8 + t.val) % 2 = 1 then areaRead s key (area + 0x8000 + 0x8000 * t.val) (lanes * 1024) else (0, 0)
  let (ins, tvps) := if i.accst.toNat / 4096 % 2 = 1 then restoreVps s key area else (0, [])
  let last := vqAt i (vqCount i - 1)
  let stalls := match (entrySfree last).bind (rayBound i) with
    | some r => x.live.rdesc[r][6] == 0 && vqCount i != 0 && last[0] == i.pc && !entryBegun last
    | none => false
  let l : Live := {
    v := Vector.ofFn fun j => if (rayOf i j.val).isSome then 0 else BitVec.ofNat 8192 (regs j).1
    vPois := Vector.ofFn fun j => BitVec.ofNat 8192 (regs j).2 ||| keptPoison x j
    acc := Vector.ofFn fun t => BitVec.ofNat 262144 (accs t).1
    aPois := Vector.ofFn fun t => BitVec.ofNat 262144 (accs t).2 ||| keptAcc x t
    inStream := ins
    rdesc := x.live.rdesc
    tvps := tvps.map fun t =>
      let e := i.vq[t.entry % 12]!
      { t with pc := facetAddr e t.facet }
    -- the control thread stalls at an `sfree` that stands in the queue
    wait := if stalls then .sfree else .none
    frozen := i.st[7].toNat / 512 % 2 == 1 && i.inh
    streamFault := i.st[7].toNat / 512 % 2 == 1 && i.inh && x.live.streamFault }
  let s := s.onHart h fun x => { x with
    c := { i with st := st, accst := i.accst &&& 0x1FFF#64 }
    live := l
    falling := false
    rayRest := (List.finRange 8).foldl (fun a r => if i.rays[r][0].toNat / 2 ^ 24 % 256 = 0 then a &&& ~~~(BitVec.ofNat 8 (2 ^ r.val)) else a) x.rayRest }
  (List.finRange 8).foldl (restoreRay h) s

/-! Taking an exception (R164, R209, R210) and returning from one (R215). -/

/-- The hart stops being on the core, in state st, after a save. -/
def leave (s : State) (h : HartId) (st : HState) : State :=
  gearCheck ((save s h).onHart h fun x => { x with state := st, nstop := x.nstop + 1, step1 := false, latched := false, falling := false, live := { x.live with wait := .none } }) (tileOf h)

def swapBank (c : Ctx) : Ctx :=
  { c with g := Vector.ofFn fun i : Fin 32 => if 24 ≤ i.val then c.sh[i.val - 24]! else c.g[i]
           sh := Vector.ofFn fun i : Fin 8 => c.g[i.val + 24]! }

/-- The trap consumes the soft error e (R219): it was raised by poison of those bits. -/
def consumes (t : Trap) (e : Soft) : Bool :=
  match t.pois with
  | some (cls, reg, bit, width) => cls == e.cls && reg == e.reg.val && e.bit < bit + width && bit < e.bit + e.width
  | none => false

/-- A threaded VP that stands inside its facet, of a unit that is not frozen (R161). -/
def insideFacet (x : Hart) : Option (Fin 4096) :=
  if x.live.frozen then none
  else (x.live.tvps.find? fun t => t.faulted.isNone && (t.pc != facetAddr (vqAt x.c t.entry) t.facet || !t.undo.isEmpty)).map (·.vp)

/-- FAULTED: the save, then the notice with the trap registers (R207, R209, R210). -/
def fallDown (s : State) (h : HartId) : State :=
  let c := (s.hart h).c
  let s := leave s h .faulted
  postNotice s (s.hart h).func.toNat (hartIdWord h) c.st[7].toNat c.st[9] c.st[8]

/-- An `sfree` at which the control thread stalls has not completed: it leaves the vector queue, and is issued anew (R164,
R187). -/
def withdraw (x : Hart) : Hart :=
  if x.live.wait == .sfree then
    let n := vqCount x.c - 1
    { x with c := { x.c with vq := x.c.vq.set! n (Vector.replicate 8 0), vqcount := BitVec.ofNat 64 n } }
  else x

/-- Trap entry (R210): the trap registers are written; then the handler at TVEC runs with the banks swapped and
INH set, or, with TVEC = 0 or INH = 1, the hart becomes FAULTED and a notice is appended (R209), once its VPs have
reached the ends of their facets (R207). -/
def trapEntry (h : HartId) (t : Trap) (pc : Word) (s : State) : State :=
  let tpc := t.tpc.getD pc
  let s := if vPending (s.hart h) then s.onLive h fun l => { l with vhold := true } else s
  let s := s.onHart h fun x => withdraw { x with soft := x.soft.filter fun e => !consumes t e }
  let s := (s.onCtx h fun c => { c with
    st := (((c.st.set 7 (BitVec.ofNat 64 t.cause)).set 8 t.tval).set 9 tpc).set 17 (BitVec.ofNat 64 t.telem) }).setWait h .none
  let x := s.hart h
  if x.c.st[6] = 0 ∨ x.c.inh = true then
    let s := (s.setPc h tpc).onHart h fun x => { x with lcause := BitVec.ofNat 8 t.cause }
    if (insideFacet x).isSome then gearCheck ((s.onHart h fun x => { x with falling := true }).later (.saveComplete h)) (tileOf h)
    else fallDown s h
  else gearCheck (s.onCtx h fun c => { swapBank c with inh := true, pc := c.st[6] }) (tileOf h)

/-- A vector-side fault enters at the control thread's boundary: the unit is frozen, CRESUME records the boundary, and
TCAUSE bit 9 is set (R164). -/
def vectorTrap (h : HartId) (t : Trap) (s : State) : State :=
  let x := s.hart h
  let pc := x.c.pc
  let stream := x.live.vfault == some t && x.c.convoy == 0 && (curEntry x.c).any fun k => entryFetch (vqAt x.c k)
  trapEntry h { t with cause := t.cause + 0x200 } pc
    ((s.onCtx h fun c => { c with cresume := pc }).onLive h fun l => { l with
      frozen := true, vfault := none, vhold := false, streamFault := stream, tvps := l.tvps.map fun y => { y with faulted := none } })

/-- Return from a trap (R215, R164).  Answers none where INH = 0, and the trap where TPC is odd. -/
def trapReturn (h : HartId) (s : State) : Option (Except Trap State) :=
  let c := (s.hart h).c
  if c.inh = false then none
  else if c.st[7].toNat / 512 % 2 = 1 then
    some (.ok ((s.onCtx h fun c => { swapBank c with inh := false, pc := c.cresume }).onLive h fun l => { l with frozen := false, streamFault := false }))
  else if c.st[9].toNat % 2 = 1 then some (.error { cause := 0x03, tval := c.st[9] })
  else some (.ok (s.onCtx h fun c => { swapBank c with inh := false, pc := c.st[9] }))

/-- What the control thread does with a computation: go on, or take the trap at its instruction. -/
def settle (h : HartId) (m : M Unit) (s : State) : State :=
  match m.run.run s with
  | (.ok _, s') => s'
  | (.error t, s') => trapEntry h t (s.hart h).c.pc s'

/-- The lowest pending enabled event (R212). -/
def dueEvent (x : Hart) : Option (Fin 4) :=
  if x.c.st[6] ≠ 0 ∧ x.c.inh = false then
    (List.finRange 4).find? fun i => (x.c.st[11].toNat &&& x.c.st[10].toNat) / 2 ^ i.val % 2 == 1
  else none
/-- Taking it: EVPEND bit cleared, the trap entered at the boundary (R211, R212). -/
def takeEvent (h : HartId) (i : Fin 4) (s : State) : State :=
  let x := s.hart h
  trapEntry h { cause := 0x101 + i.val, tval := x.evval[i] } x.c.pc
    (s.onCtx h fun c => { c with st := c.st.set 11 (c.st[11] &&& ~~~(BitVec.ofNat 64 (2 ^ i.val))) })

/-! Context commands (R206, R222). -/

/-- The value for which RESUME or STEP refuses (R206): SPACE, VSAVE or RMODE image, or HNGRP = 0. -/
def refusal (s : State) (h : HartId) : Option Word :=
  let x := s.hart h
  let bad (a : Word) : Bool := a.toNat % 0x4000 != 0 || 2 ^ 48 ≤ a.toNat
  let rm := x.img.st[3].toNat
  if bad x.space then some x.space
  else if bad x.vsave then some x.vsave
  else if 5 ≤ rm / 4 then some x.img.st[3]
  else if slotHN (s.slotWord h) = 0 then some 0
  else none

/-- A hart of the function f runs on tile t: the steps of its slots there go on, where a world switch held them (R287). -/
def releaseSteps (s : State) (t : TileId) (f : Nat) : State :=
  (List.range 4).foldl (fun (s : State) i =>
    let n := 4 * t.val + i
    let k := s.tslot n
    if k.held && k.owner.toNat / 65536 % 32 == f then
      (List.range k.steps).foldl (fun (s : State) _ => s.later (.trainingStep (Fin.ofNat 2048 n))) (s.setTslot n { k with held := false })
    else s) s

/-- RESUME (false) or STEP (true) acts in a state that is not on the core. -/
def start (s : State) (h : HartId) (step : Bool) : State :=
  let s := s.onHart h fun x => { x with held := none }
  match refusal s h with
  | some v =>
    let x := s.hart h
    let s := s.onHart h fun x => { x with
      state := .faulted, lcause := 5, nstop := x.nstop + 1
      img := { x.img with st := (((x.img.st.set 7 5).set 8 v).set 9 x.img.pc).set 17 0 } }
    postNotice s x.func.toNat (hartIdWord h) 5 x.img.pc v
  | none =>
    let s := (restore s h).onHart h fun x => { x with state := if step then .stopping else .running, step1 := step, latched := false }
    gearCheck (releaseSteps s (tileOf h) (s.hart h).func.toNat) (tileOf h)

/-- A RESUME or STEP acts now: its function is in its slice, and no cluster's mode holds it (R206, R332; log 81). -/
def startsNow (s : State) (h : HartId) : Bool :=
  let x := s.hart h
  (s.func x.func.toNat).inSlice && !clusterHolds s h
/-- A held command that may act does. -/
def startHeld (s : State) (h : HartId) : State :=
  match (s.hart h).held with
  | some st => if startsNow s h then start s h st else s
  | none => s

def cmdStart (s : State) (h : HartId) (step : Bool) : State :=
  let x := s.hart h
  match x.state with
  | .running => if step then gearCheck ((s.onHart h fun x => { x with state := .stopping }).later (.saveComplete h)) (tileOf h) else s
  | .stopping => s.onHart h fun x => { x with latched := !step }
  | _ => if startsNow s h then start s h step else s.onHart h fun x => { x with held := some step }

def cmdStop (s : State) (h : HartId) : State :=
  match (s.hart h).state with
  | .running => gearCheck ((s.onHart h fun x => { x with state := .stopping }).later (.saveComplete h)) (tileOf h)
  | .stopping => s.onHart h fun x => { x with latched := false }
  | _ => s.onHart h fun x => { x with held := none }

/-- CLEAR: every image becomes 0 and VT ILL (R206); borrowed groups go back (R223). -/
def cmdClear (s : State) (h : HartId) : State :=
  match (s.hart h).state with
  | .running => s
  | .stopping => s.onHart h fun x => { x with latched := false }
  | _ =>
    let s := s.onHart h fun x => { x with state := .empty, space := 0, vsave := 0, img := {}, live := {}, held := none, remembered := false, evval := Vector.replicate 4 0 }
    releaseToHome (s.onTile (tileOf h) fun t => { t with bind := t.bind.set (slotOf h) 0 }) h

end Sys2Proof.Machine
end

