-- ==== Sys2Proof/Machine/Homes.lean ====
section
/-! DEFINITION. What happens at the home of an object on behalf of engines and pages: resolving futures, forking
walks, counting down barriers, kernel commands, tangent slot commands (14, 16, 17). -/
namespace Sys2Proof.Machine

/-- The step is tried again after the current hart has had a turn. -/
def State.retry (s : State) (i : Instr) : State := { s with agenda := s.agenda ++ [.own, .event i] }
def freshKey {α : Type} (l : List (Nat × α)) : Nat := (l.map (·.1)).foldl (fun a b => max a (b + 1)) 0

/-! Futures (R227, R231, R232). -/

/-- STATE of a future word, POISONED where R227 says the word counts as poisoned. -/
def futState (w : Nat) : Nat :=
  if w / 4 % 4 ≠ 0 ∨ w / 2 ^ 56 ≠ 0 ∨ (w / 16 % 2 ^ 52 ≠ 0 ∧ w % 4 ≠ 1) then 3 else w % 4
def futHead (w : Nat) : Nat := w / 16 % 2 ^ 52 * 16

/-- The kernel that a hart's slot is bound to (R263). -/
def boundKernel (s : State) (h : HartId) : Option Nat :=
  let b := ((s.tile (tileOf h)).bind[slotOf h]).toNat
  if b / 4096 % 2 = 1 then some (b % 4096) else none

/-- A walk is forked, from a link or at one join block (R234). -/
def forkWalk (s : State) (iss : Issuer) (a : Nat) (block err : Bool) : State :=
  let n := freshKey s.walks
  { s with walks := mset s.walks n ⟨iss, BitVec.ofNat 64 a, block, err, iss.hart.bind (boundKernel s)⟩ }.later (.walkerStep n)

/-- R229's checks of a target, for a hart or an engine; `acc` is load for `fpoll` and `barw`, which a table alias
refuses like any access to the arena that is no load or store (R306, R307).  `join` says that it is an `fjoin`'s future. -/
def targetCheck (w : Who) (acc : Acc) (a : Nat) (join : Bool := false) : M Xl := do
  if a % 8 ≠ 0 then trap 0x03 a
  match xlate (← get) w acc a with
  | .error t => throw t
  | .ok x =>
    if eKind x.leaf = 3 then trap 0x05 a
    modify fun s => touch s x (acc != .load)
    if x.region == .control || x.region == .device then trap 0x0E a
    if x.region == .host || (join && x.region == .peer) then trap 0x05 a
    -- a target under scrub or reset is not looked at (R243)
    if !underScrub (← get) x && poisoned (← get) x.pa 8 then trap 0x0B a
    return x

/-- The same for an engine, whose request to a peer may complete with an error (R324); answers the word as well. -/
def engineTarget (w : Who) (a : Nat) : M (Xl × Nat) := do
  let x ← targetCheck w .atomic a
  if underScrub (← get) x then trap 0x11 a
  if !(← outside x a) then trap 0x04 a
  let v ← physRead w x.pa 8 (eKey x.leaf)
  return (x, v)

/-- An engine's completion object cannot be reached: a FAULT notice and event 0x101, or for a target under reset the event
alone (R232, R243). -/
def engineLost (s : State) (iss : Issuer) (a : Word) (cause : Nat) : State × Option Nat :=
  let id : Word := match iss.hart with | some h => hartIdWord h | none => 0xFFFFFFFFFFFFFFFF
  (raiseAt (if cause = 0x11 then s else postNotice s iss.func id cause 0 a) iss.hart 0 a, some cause)

/-- The future at x, whose word is v, is resolved (R232): answers the cause of a double resolution.  The walk of a future in a
peer window is forked at its home (R325). -/
def resolveAt (s : State) (w : Who) (x : Xl) (v : Nat) (f : Word) (ok : Bool) : State × Option Nat :=
  let put (n : Nat) : State := runM (physWrite w false x.pa 8 n (eKey x.leaf)) s
  let fork (s : State) (err : Bool) : State := if x.region == .peer then s else forkWalk s w.iss (futHead v) false err
  let st := futState v
  if ok then
    if st = 0 then (put 2, none)
    else if st = 1 then (fork (put 2) false, none)
    else (raiseAt (put 3) w.iss.hart 0 f, some 0x08)
  else if st = 1 then (fork (put 3) true, none)
  else (put 3, none)

/-- An engine resolves a future (R232): answers the cause that it records, if any. -/
def resolveBy (s : State) (iss : Issuer) (t : TileId) (f : Word) (ok : Bool) : State × Option Nat :=
  match (engineTarget (iss.eng t) f.toNat).run.run s with
  | (.error e, s) => engineLost s iss f e.cause
  | (.ok (x, v), s) => resolveAt s (iss.eng t) x v f ok

/-! Stage barriers (R239). -/

/-- BYTES + delta with its saturation, OVR and must-be-zero bits (R236, R239). -/
def stageAdd (w : Nat) (delta : Int) : Nat :=
  let x := sgn 32 (w % 2 ^ 32) + delta
  let ovr := x < 0 ∨ 2 ^ 31 - 1 < x ∨ w / 2 ^ 32 % 2 = 1
  wrapTo 32 (min (2 ^ 31 - 1) (max (-(2 ^ 31)) x)) + (if ovr then 2 ^ 32 else 0) + w / 2 ^ 33 * 2 ^ 33

/-- OVR holds: set, or a must-be-zero bit is set (R236). -/
def stageOvr (w : Nat) : Bool := w / 2 ^ 32 % 2 ^ 31 != 0

/-- A delivery of n bytes (R198): the cause the engine records, if any. -/
def deliver (s : State) (iss : Issuer) (t : TileId) (b : Word) (n : Nat) : State × Option Nat :=
  let w := iss.eng t
  match (engineTarget w b.toNat).run.run s with
  | (.error e, s) => engineLost s iss b e.cause
  | (.ok (x, v), s) =>
    if v / 2 ^ 63 = 0 then (s, some 0x0A)
    else (runM (physWrite w false x.pa 8 (stageAdd v (-(n : Int))) (eKey x.leaf)) s, none)

/-! Kernels (R257 to R269). -/

def Kernel.func (k : Kernel) : Nat := k.own.toNat % 32
def Kernel.world (k : Kernel) : Bool := k.own.toNat / 256 % 2 == 1
def Kernel.closed (k : Kernel) : Bool := k.kstate == 4 || k.kstate == 5
def Kernel.issuer (k : Kernel) : Issuer := { hart := none, func := k.func, space := k.kspace.toNat, secure := k.world }
def kDmask (k : Kernel) : Nat := k.tset.toNat % 16
def kTfirst (k : Kernel) : Nat := k.tset.toNat / 16 % 128
def kTcount (k : Kernel) : Nat := k.tset.toNat / 2048 % 256
def loopWord (d : Vector Word 16) (i : Nat) : Nat := (d[i + 2]!).toNat
def loopExt (d : Vector Word 16) (i : Nat) : Nat := loopWord d i % 2 ^ 32
def loopKind (d : Vector Word 16) (i : Nat) : Nat := loopWord d i / 2 ^ 32 % 4

/-- The value that makes a descriptor invalid (R260, 0x30). -/
def descInvalid (k : Kernel) (d : Vector Word 16) : Option Word :=
  let bad (p : Prop) [Decidable p] (v : Word) : Option Word := if p then some v else none
  let lvl (i : Nat) : Option Word :=
    bad (loopWord d i / 2 ^ 34 ≠ 0 ∨ (loopKind d i = 0 ∧ loopExt d i ≠ 0) ∨ (loopKind d i ≠ 0 ∧ loopExt d i = 0) ∨ 2 ^ 20 < loopExt d i) (d[i + 2]!)
  let twice (c : Nat) : Option Word :=
    bad (2 ≤ ([0, 1, 2].filter fun i => loopKind d i == c).length) (BitVec.ofNat 64 c)
  (bad (d[0] = 0 ∨ d[0].toNat % 2 = 1) d[0]).orElse fun _ => (lvl 0).orElse fun _ => (lvl 1).orElse fun _ => (lvl 2).orElse fun _ =>
  (twice 2).orElse fun _ => (twice 3).orElse fun _ =>
  (bad (d[5].toNat / 4 ≠ 0) d[5]).orElse fun _ => (bad (d[6].toNat / 2 ≠ 0) d[6]).orElse fun _ =>
  (bad (d[9].toNat % 512 ≠ 0 ∨ 65024 < d[9].toNat) d[9]).orElse fun _ =>
  ((d.toList.drop 10).find? fun x => x != 0).orElse fun _ =>
  bad (kDmask k = 0) (BitVec.ofNat 64 (kDmask k))

/-- The queues that a thief on tile t probes, in order (R251). -/
def victims (q : Queue) (t : Nat) : List Nat :=
  let gq := q.w[8].toNat % 2 ^ 16
  let gt := q.w[8].toNat / 2 ^ 16 % 2 ^ 9
  let gn := q.w[8].toNat / 2 ^ 25 % 2 ^ 10
  let near := (List.range 7).map fun k => t / 8 * 8 + (t + k + 1) % 8
  let far := ((List.range 127).map fun k => t / 128 * 128 + (t + k + 1) % 128).filter fun u => u / 8 != t / 8
  ((near ++ far).filter fun u => gt ≤ u && u < gt + gn && u != t).map fun u => gq + (u - gt)

/-- TAIL of queue n has grown: the harts blocked in `tget` on it, or on a queue whose victim it is, pass again (R249). -/
def tailGrown (s : State) (n : Nat) : State :=
  let next (i : Nat) (w : Wait) : Option Wait :=
    match w with
    | .tget q .quiet => if n = q ∨ (victims (s.queue q) (i / 8)).contains n then some (.tget q .grown) else none
    | _ => none
  if s.harts.any fun p => (next p.1 p.2.live.wait).isSome then
    { s with harts := s.harts.map fun (i, x) =>
        match next i x.live.wait with
        | some w => (i, { x with live := { x.live with wait := w } })
        | none => (i, x) }
  else s

/-- The harts blocked in `tget` on a queue for which p holds are released, by the news w. -/
def tgetNews (s : State) (p : Nat → Hart → Bool) (w : TgetNews) : State :=
  { s with harts := s.harts.map fun (i, x) =>
      match x.live.wait with
      | .tget q v => if v != .closed && p q x then (i, { x with live := { x.live with wait := .tget q w } }) else (i, x)
      | _ => (i, x) }
/-- Kernel n enters DONE or FAULTED: the harts blocked in `tget` on its queues are released (R249, R266). -/
def kernelClose (s : State) (n : Nat) (k : Kernel) : State :=
  let s := s.setKernel n k
  tgetNews s (fun q _ => qKv (s.queue q) && qKernel (s.queue q) == n) .closed

/-- A descriptor's 128 bytes can be read (R260, 0x34). -/
def descReadable (s : State) (pa : Nat) : Bool :=
  !poisoned s pa 128 && [pa, pa + 64].all fun a =>
    (regionOf a == some .hbm || regionOf a == some .store) && !quarantined s a && !inBacking s a

/-- ARM (R260, R266): the descriptor is read once and copied, and the start is due (R269). -/
def kernelArm (s : State) (n : Nat) : State :=
  let k := s.kernel n
  if k.kstate ≠ 0 then s
  else
    let pa := k.kdesc.toNat
    let key := funcKey s k.func
    if !descReadable s pa then kernelClose s n { k with kstate := 5, kerr := 0x34, kdetail := k.kdesc }
    else
      let s := recallLines s pa 128 none
      let d := Vector.ofFn fun i : Fin 16 => BitVec.ofNat 64 (seenRead s whoHome (pa + 8 * i.val) key 8)
      match descInvalid k d with
      | some v => kernelClose s n { k with kstate := 5, kerr := 0x30, kdetail := v }
      | none =>
        (s.setKernel n { k with kstate := 1, desc := d, placed := 0, late := decide (d[7] ≠ 0 ∧ d[7].toNat < s.tick.toNat), cursor := 0, allPlaced := false }).later
          (.kernelStart (Fin.ofNat 4096 n))

/-- DONE resolved (R266, R267): KERR 0x32 and a notice where it cannot be. -/
def kernelResolve (s : State) (n : Nat) (ok : Bool) : State :=
  let k := s.kernel n
  if k.desc[8] = 0 then s
  else
    let (s, c) := resolveBy s k.issuer 0 k.desc[8] ok
    match c with
    | some 0x08 => s
    | some _ => if ok then s.setKernel n { s.kernel n with kerr := 0x32, kdetail := k.desc[8] } else s
    | none => s

/-- ABORT and a launch failure (R267). -/
def kernelFail (s : State) (n : Nat) (kerr : BitVec 8) (detail : Word) : State :=
  kernelResolve (kernelClose s n { s.kernel n with kstate := 5, kerr := kerr, kdetail := detail }) n false

def kernelAbort (s : State) (n : Nat) : State :=
  let k := s.kernel n
  if k.kstate = 1 ∨ k.kstate = 2 ∨ k.kstate = 3 then kernelFail s n 0x33 0 else s

def kernelReset (s : State) (n : Nat) : State :=
  let k := s.kernel n
  if k.closed then
    s.setKernel n { k with kstate := 0, kerr := 0, late := false, phase := 0, placed := 0, sent := 0, recv := 0, notidle := 0 }
  else s

/-! Tangent slots (R271 to R275). -/

def TSlot.ov (k : TSlot) : Bool := k.owner.toNat / 256 % 2 == 1
def TSlot.oslot (k : TSlot) : Fin 8 := Fin.ofNat 8 k.owner.toNat
def TSlot.ofunc (k : TSlot) : Nat := k.owner.toNat / 65536 % 32
def TSlot.nin (k : TSlot) : Nat := k.shape.toNat % 8 + 1
def TSlot.nhid (k : TSlot) : Nat := k.shape.toNat / 8 % 32 + 1
def TSlot.nout (k : TSlot) : Nat := k.shape.toNat / 256 % 4 + 1
def TSlot.act (k : TSlot) : Bool := k.shape.toNat / 1024 % 2 == 1
def TSlot.vin (k : TSlot) : Nat := k.shape.toNat / 2048 % 32
def TSlot.vout (k : TSlot) : Nat := k.shape.toNat / 65536 % 32
def TSlot.emax (k : TSlot) : Nat := k.thr.toNat % 2 ^ 32
def TSlot.efit (k : TSlot) : Nat := k.thr.toNat / 2 ^ 32
def TSlot.speriod (k : TSlot) : Nat := if k.samp.toNat % 65536 = 0 then 65536 else k.samp.toNat % 65536
def TSlot.batch (k : TSlot) : Nat := k.samp.toNat / 65536 % 256
def TSlot.lrate (k : TSlot) : Int := sgn 8 (k.samp.toNat / 2 ^ 24 % 256)
def TSlot.fitbatches (k : TSlot) : Nat := k.samp.toNat / 2 ^ 32 % 256
/-- FP32: a NaN, or below zero (−0 is not below zero). -/
def badThreshold (x : Nat) : Bool := 0x7F800000 < x % 2 ^ 31 || 0x80000000 < x

/-- The physical run of the sample ring, where every page of it translates so (R274, 0x05). -/
def sampleRing (s : State) (n : Nat) (k : TSlot) : Option Nat :=
  let t := n / 4
  let h := hartOf (Fin.ofNat 512 t) k.oslot
  let w := whoS s h
  let piece (i : Nat) : Option Nat :=
    match xlate s w .load (k.sbuf.toNat + i), xlate s w .store (k.sbuf.toNat + i) with
    | .ok x, .ok _ => some x.pa
    | _, _ => none
  let lo := 0x100000000000 + 0x200000 * t
  match piece 0 with
  | some p => if k.sbuf.toNat % 64 = 0 ∧ [0x4000, 0x8000, 0xC000, 0xFFC0].all (fun o => piece o == some (p + o))
      ∧ lo ≤ p ∧ p + 0x10000 ≤ lo + 0x200000 then some p else none
  | none => none

def slotCheck (s : State) (n : Nat) (k : TSlot) : Nat :=
  let b := k.depbase.toNat; let l := k.deplimit.toNat
  let lo := 0x100000000000 + 0x200000 * (n / 4)
  if !k.ov then 1
  else if k.batch = 0 ∨ k.fitbatches = 0 then 2
  else if badThreshold k.emax ∨ badThreshold k.efit then 3
  else if b % 64 ≠ 0 ∨ l % 64 ≠ 0 ∨ l < b ∨ (b < l ∧ !(lo ≤ b ∧ l ≤ lo + 0x200000)) then 4
  else if (sampleRing s n k).isNone then 5
  else 0

def slotEnable (s : State) (n : Nat) (keepWeights : Bool) : State :=
  let k := s.tslot n
  let c := slotCheck s n k
  if c ≠ 0 then s.setTslot n { k with cerr := BitVec.ofNat 8 c }
  else
    let p : Word := BitVec.ofNat 64 ((sampleRing s n k).getD 0)
    let k := { k with cerr := 0, epoch := k.epoch + 1 }
    if k.st = 0 then
      let k := { k with sbphys := p, calls := 0, fallbacks := 0, invals := 0 }
      s.setTslot n (if keepWeights then { k.reset with w := k.w, st := 2 } else { k.reset with st := 1 })
    else if keepWeights then s.setTslot n { k with st := 2, sbcount := 0, good := 0, steps := 0 }
    else s.setTslot n { k.reset with st := 1, invals := k.invals + 1 }

def slotDisable (s : State) (n : Nat) : State :=
  let k := s.tslot n; s.setTslot n { k with st := 0, steps := 0, epoch := k.epoch + 1 }
def slotInvalidate (s : State) (n : Nat) : State := s.setTslot n (s.tslot n).invalidate

end Sys2Proof.Machine
end

