-- ==== Sys2Proof/Machine/Rays.lean ====
section
/-! DEFINITION. What a ray's entry and descriptor say, and the work that an engine has for it (11 R183 to R194). -/
namespace Sys2Proof.Machine

/-! Ray state words (R192). -/

def rayW (s : State) (h : HartId) (r : Fin 8) (i : Fin 8) : Nat := ((s.hart h).c.rays[r][i]).toNat
def setRayW (s : State) (h : HartId) (r i : Fin 8) (v : Nat) : State :=
  s.onCtx h fun c => { c with rays := c.rays.set r (c.rays[r].set i (BitVec.ofNat 64 v)) }
def rayDir (s : State) (h : HartId) (r : Fin 8) : Bool := rayW s h r 0 / 64 % 2 == 1
def rayTrim (s : State) (h : HartId) (r : Fin 8) : Bool := rayW s h r 0 / 128 % 2 == 1
def rayLive (s : State) (h : HartId) (r : Fin 8) : Bool := rayW s h r 0 / 512 % 2 == 1
def rayEw (s : State) (h : HartId) (r : Fin 8) : Nat := rayW s h r 0 / 4096 % 16
def rayErr (s : State) (h : HartId) (r : Fin 8) : Nat := rayW s h r 0 / 2 ^ 24 % 256
def rayHeld (s : State) (h : HartId) (r : Fin 8) : Bool := rayW s h r 0 / 65536 % 2 == 1
def rayReg (s : State) (h : HartId) (r : Fin 8) : Nat := rayW s h r 0 / 2 % 32
def rayPos (s : State) (h : HartId) (r : Fin 8) : Nat := rayW s h r 2 % 2 ^ 32
def rayHeldN (s : State) (h : HartId) (r : Fin 8) : Nat := rayW s h r 2 / 2 ^ 32
def rayEng (s : State) (h : HartId) (r : Fin 8) : Nat := rayW s h r 3 % 2 ^ 32
def rayD (s : State) (h : HartId) (r i : Fin 8) : Nat := ((s.hart h).live.rdesc[r][i]).toNat
def rayCount (s : State) (h : HartId) (r : Fin 8) : Nat := rayD s h r 1 % 2 ^ 32
def rayBytes (s : State) (h : HartId) (r : Fin 8) : Nat := fmtWidth (rayEw s h r) / 8
def rayRing (s : State) (h : HartId) (r : Fin 8) : Nat := rayD s h r 4 / 65536 % 256 * 256
/-- Address of stream element x (R185). -/
def rayElem (s : State) (h : HartId) (r : Fin 8) (x : Nat) : Nat :=
  let inner := rayD s h r 1 / 2 ^ 32
  let base := rayD s h r 0
  (if rayD s h r 4 / 4 % 2 = 1 then base + x / inner * rayD s h r 3 + x % inner * rayD s h r 2 else base + x * rayD s h r 2) % 2 ^ 64
def ringElem (s : State) (h : HartId) (r : Fin 8) (x : Nat) : Nat :=
  rayD s h r 5 + x * rayBytes s h r % max 1 (rayRing s h r)
def rayWho (s : State) (h : HartId) : Who := (issuer s h).eng (tileOf h)

/-- Elements the ring can hold (R185). -/
def rayRoom (s : State) (h : HartId) (r : Fin 8) : Nat := rayRing s h r / max 1 (rayBytes s h r)

/-- A next element may move: a fetched one has room in the ring, a drained one stands there. -/
def rayDue (s : State) (h : HartId) (r : Fin 8) (store : Bool) : Bool :=
  let x := s.hart h
  let held := if rayHeld s h r then rayHeldN s h r else 0
  x.onCore && rayW s h r 0 % 2 == 1 && rayLive s h r && rayErr s h r == 0 && rayDir s h r == store
  && (if store then rayEng s h r < rayPos s h r - held
      else rayEng s h r < rayCount s h r && rayEng s h r < rayPos s h r - held + rayRoom s h r)

/-- The function for whose rays an engine of tile t has work. -/
def rayWork (s : State) (t : TileId) : Option Nat :=
  ((List.finRange 8).find? fun i => (List.finRange 8).any fun r => rayDue s (hartOf t i) r false || rayDue s (hartOf t i) r true).map
    fun i => (s.hart (hartOf t i)).func.toNat

end Sys2Proof.Machine
end

