-- ==== Sys2Proof/Machine/Packets.lean ====
section
/-! DEFINITION. The packet at HEAD of a HOSTCMD queue, and when its function core takes it (15 R254). -/
namespace Sys2Proof.Machine

def w64 (n : Nat) : Word := BitVec.ofNat 64 n

/-! The packet at HEAD (R254). -/

/-- Not whole yet; not readable; refused with code 0x20; or a command with its TAG, words and entries. -/
inductive Head
  | absent
  | unread
  | refused (tag : Nat)
  | packet (op tag n : Nat) (words : List Word)

/-- Entries that the table of R254 allows. -/
def entriesOk (op n : Nat) : Bool :=
  if op = 6 then n == 2 else if op = 7 then 1 ≤ n && n ≤ 4 else op ≤ 8 && n == 1

/-- An operand value outside its stated range: a length or a tile index, a width, a condition, a scope code, or pairs that the entries do not hold. -/
def operandBad (op n : Nat) (w : List Word) : Bool :=
  let at_ (i : Nat) : Nat := (w.getD i 0).toNat
  if op = 2 then 2 ^ 32 ≤ at_ 3 || 512 ≤ at_ 5
  else if op = 3 || op = 6 then at_ 3 != 4 && at_ 3 != 8
  else if op = 4 then 4 ≤ at_ 4
  else if op = 7 then at_ 1 % 16 == 0 || 3 + 4 * (n - 1) < at_ 1 % 16
  else if op = 8 then 5 ≤ at_ 1
  else false

/-- The ring's entries can be read: not in a quarantined store, not poisoned, and no host read fails. -/
def entryReadable (s : State) (pa bytes : Nat) : Bool :=
  match regionOf pa with
  | some .host => s.outsideErr == 0 && !s.hostStall
  | _ => !quarantined s pa && !poisoned s pa bytes

def headPacket (s : State) (n : Nat) : Head :=
  let q := s.queue n
  let words (i : Nat) : List Word := (List.range 8).map fun j => w64 (seenRead s whoHome (ringAddr q i + 8 * j) q.key 8)
  if qCount q = 0 then .absent
  else if !entryReadable s (ringAddr q (qHead q)) 64 then .unread
  else
    let h := ((words (qHead q)).getD 0 0).toNat
    let op := h % 256
    let len := h / 256 % 4 + 1
    let tag := h / 65536 % 65536
    if qCount q < len then .absent
    else if h / 1024 % 64 ≠ 0 ∨ h / 2 ^ 32 ≠ 0 ∨ !entriesOk op len then .refused tag
    else if !((List.range len).all fun i => entryReadable s (ringAddr q (qHead q + i)) 64) then .unread
    else
      let w := (List.range len).flatMap fun i => words (qHead q + i)
      if operandBad op len w then .refused tag else .packet op tag len w

/-- The home's reads of the packet's entries at the host (R244, R319). -/
def askHead (s : State) (n len : Nat) : State :=
  let q := s.queue n
  (List.range (min len (qCount q))).foldl (fun s i => outRequest s (ringAgent q) (ringAddr q (qHead q + i)) 64 none) s

/-- The recall of the ring's lines that the home makes when it reads (R49, R244). -/
def recallHead (s : State) (n : Nat) : State :=
  (List.range 4).foldl (fun s i => recallLines s (ringAddr (s.queue n) (qHead (s.queue n) + i)) 64 none) s

/-- A queue from which its function core takes packets now. -/
def coreTakes (s : State) (n : Nat) : Bool :=
  let q := s.queue n
  let x := s.func (qOwner q)
  qKind q == 3 && qEn q && !qHalt q && x.inSlice && !x.inReset

/-- The step by which the function core goes on with queue n. -/
def coreDue (s : State) (n : Nat) : Option Instr :=
  let q : QueueId := Fin.ofNat 65536 n
  if !coreTakes s n then none
  else match headPacket s n with
    | .absent => none
    | .unread => some (.undefinedOpPacket q)
    | .refused _ => some (.undefinedOpPacket q)
    | .packet op _ _ _ => (match op with
      | 0 => some (.nop q) | 1 => some (.launch q) | 2 => some (.copyHost q) | 3 => some (.writeValue q)
      | 4 => some (.waitValue q)
      | 5 => some (.signal q) | 6 => some (.writeThenSignal q) | 7 => some (.map q) | _ => some (.fence q))
/-- The function core looks at queue n. -/
def State.coreGo (s : State) (n : Nat) : State :=
  if coreTakes s n then (match coreDue (recallHead s n) n with | some i => (recallHead s n).later i | none => recallHead s n) else s
/-- The function core of f looks at every one of its queues. -/
def State.coreWork (s : State) (f : Nat) : State :=
  s.queues.foldl (fun (s : State) (p : Nat × Queue) => if qOwner p.2 = f then s.coreGo p.1 else s) s

def setWaiting (s : State) (n : Nat) (on : Bool) : State :=
  s.onFunc (qOwner (s.queue n)) fun x => { x with waits := if on then n :: x.waits.filter (· != n) else x.waits.filter (· != n) }

/-- The packet is whole: HEAD advances, and the next one is due. -/
def packetDone (s : State) (n len : Nat) : State :=
  let s := setWaiting s n false
  (s.setQueue n ((s.queue n).setHead (qHead (s.queue n) + len))).coreGo n

end Sys2Proof.Machine
end

