-- ==== Sys2Proof/Machine/Pages.lean ====
section
/-! DEFINITION. Control and device pages: what a load reads and what a store does (01 R21, 09 R166, 11 R192 R200,
12 R201 R202, 13 R220 R221, 14 R237, 15 R245 R246, 16 R257 R258 R263, 17 R271 R273, 18 R294, 19 R304 R305,
20 R318 R324 R327, 21 R328 R332 R334 R341). -/
namespace Sys2Proof.Machine

/-! Context pages. -/

def HState.code : HState → Nat
  | .empty => 0 | .stopped => 1 | .running => 2 | .stopping => 3 | .faulted => 4 | .exited => 5

/-- A word of the image part of a context page, by offset (R166, R192, R201, R237, R277). -/
def imgRead (c : Ctx) (o : Nat) : Word :=
  if o = 0x10 then c.pc
  else if 0x100 ≤ o ∧ o < 0x200 then (if o = 0x100 then 0 else c.g[(o - 0x100) / 8]!)
  else if 0x200 ≤ o ∧ o < 0x300 then c.st.toList.getD ((o - 0x200) / 8) 0
  else if 0x300 ≤ o ∧ o < 0x340 then c.sh[(o - 0x300) / 8]!
  else if o = 0x400 then c.vpc else if o = 0x408 then c.fbase else if o = 0x410 then c.convoy
  else if o = 0x418 then c.cnt else if o = 0x420 then c.region else if o = 0x428 then c.regend
  else if o = 0x430 then c.cresume else if o = 0x438 then c.rqstate
  else if 0x440 ≤ o ∧ o < 0x480 then c.rq[(o - 0x440) / 8]!
  else if o = 0x480 then c.vqcount else if o = 0x488 then c.accst else if o = 0x490 then c.arraddr
  else if o = 0x498 then c.arrgen else if o = 0x4A0 then c.treg else if o = 0x4A8 then c.tepoch
  else if 0x500 ≤ o ∧ o < 0x800 then (c.vq[(o - 0x500) / 64]!)[(o - 0x500) / 8 % 8]!
  else if 0x800 ≤ o ∧ o < 0xA00 then (c.rays[(o - 0x800) / 64]!)[(o - 0x800) / 8 % 8]!
  else if 0x1000 ≤ o ∧ o < 0x2000 then w64 (bitsOf (c.m[(o - 0x1000) / 512]!).toNat (o % 512 * 8 + 63) (o % 512 * 8))
  else if 0x2000 ≤ o ∧ o < 0x3000 then w64 (bitsOf (c.k[(o - 0x2000) / 512]!).toNat (o % 512 * 8 + 63) (o % 512 * 8))
  else if 0x3000 ≤ o ∧ o < 0x3040 then
    let i := (o - 0x3000) / 2
    w64 ((c.hw[i]!).toNat + 65536 * (c.hw[i + 1]!).toNat + 2 ^ 32 * (c.hw[i + 2]!).toNat + 2 ^ 48 * (c.hw[i + 3]!).toNat)
  else 0

def setWord4096 (x : BitVec 4096) (bit : Nat) (v : Word) : BitVec 4096 :=
  BitVec.ofNat 4096 (putBits x.toNat (bit + 63) bit v.toNat)

/-- Bits of word j of a vector-queue entry, of a ray entry, and of a reply entry that are not reserved (R156, R166, R192). -/
def vqMask (j : Nat) : Word := if j = 3 then 0x1F1FFF else if j = 7 then 3 else 0xFFFFFFFFFFFFFFFF
def rayMask (j : Nat) : Word :=
  if j = 0 then 0xFF01F3FF else if j = 3 then 0xFFFFFFFF else if j = 6 then 0xFFFFFFFFFF else if j = 7 then 0 else 0xFFFFFFFFFFFFFFFF
def replyMask : Word := 0x8003FFFFFFFFFFFF

/-- A store to the image part; reserved and read-only places keep their value (R201).  DESIGN CHOICE: a value above 12
stored to VQCOUNT, which R166 gives the range 0 to 12, becomes 12 (log 68). -/
def imgWrite (c : Ctx) (o : Nat) (v : Word) : Ctx :=
  if o = 0x10 then { c with pc := v }
  else if o = 0x30 then { c with inh := v.toNat % 2 == 1 }
  else if 0x108 ≤ o ∧ o < 0x200 then { c with g := c.g.set! ((o - 0x100) / 8) v }
  else if 0x200 ≤ o ∧ o < 0x300 then
    let i := (o - 0x200) / 8
    if i < 12 ∨ i = 17 then { c with st := c.st.set! i v } else c
  else if 0x300 ≤ o ∧ o < 0x340 then { c with sh := c.sh.set! ((o - 0x300) / 8) v }
  else if o = 0x400 then { c with vpc := v } else if o = 0x408 then { c with fbase := v } else if o = 0x410 then { c with convoy := v }
  else if o = 0x418 then { c with cnt := v } else if o = 0x420 then { c with region := v &&& 0xF#64 } else if o = 0x428 then { c with regend := v }
  else if o = 0x430 then { c with cresume := v } else if o = 0x438 then { c with rqstate := v &&& 0x7F#64 }
  else if 0x440 ≤ o ∧ o < 0x480 then { c with rq := c.rq.set! ((o - 0x440) / 8) (v &&& replyMask) }
  else if o = 0x480 then { c with vqcount := w64 (min 12 v.toNat) } else if o = 0x488 then { c with accst := v &&& 0x1FFF#64 }
  else if o = 0x490 then { c with arraddr := v } else if o = 0x498 then { c with arrgen := v &&& 0x1FFFF#64 }
  else if o = 0x4A0 then { c with treg := v &&& 0x3FF03FF073F#64 } else if o = 0x4A8 then { c with tepoch := v }
  else if 0x500 ≤ o ∧ o < 0x800 then
    let i := (o - 0x500) / 64
    { c with vq := c.vq.set! i ((c.vq[i]!).set! ((o - 0x500) / 8 % 8) (v &&& vqMask ((o - 0x500) / 8 % 8))) }
  else if 0x800 ≤ o ∧ o < 0xA00 then
    let i := (o - 0x800) / 64; let j := (o - 0x800) / 8 % 8
    { c with rays := c.rays.set! i ((c.rays[i]!).set! j (v &&& rayMask j)) }
  else if 0x1000 ≤ o ∧ o < 0x2000 then
    let i := (o - 0x1000) / 512
    { c with m := c.m.set! i (setWord4096 (c.m[i]!) (o % 512 * 8) v)
             mPois := c.mPois.set! i (setWord4096 (c.mPois[i]!) (o % 512 * 8) 0) }
  else if 0x2000 ≤ o ∧ o < 0x3000 then
    let i := (o - 0x2000) / 512
    { c with k := c.k.set! i (setWord4096 (c.k[i]!) (o % 512 * 8) v)
             kPois := c.kPois.set! i (setWord4096 (c.kPois[i]!) (o % 512 * 8) 0) }
  else if 0x3000 ≤ o ∧ o < 0x3040 then
    let i := (o - 0x3000) / 2
    { c with hw := (((c.hw.set! i (BitVec.ofNat 16 v.toNat)).set! (i + 1) (BitVec.ofNat 16 (v.toNat / 65536))).set! (i + 2)
        (BitVec.ofNat 16 (v.toNat / 2 ^ 32))).set! (i + 3) (BitVec.ofNat 16 (v.toNat / 2 ^ 48)) }
  else c

def ctxRead (s : State) (h : HartId) (o : Nat) : Word :=
  let x := s.hart h
  if o = 0 then w64 (x.state.code + 256 * x.lcause.toNat + 2 ^ 32 * x.nstop.toNat)
  else if o = 8 then 0
  else if o = 0x18 then x.space
  else if o = 0x20 then x.vsave
  else if o = 0x28 then w64 (x.func.toNat + (if x.world then 256 else 0) + 4096 * x.prio.toNat)
  else if o = 0x30 then w64 ((if x.img.inh then 1 else 0) + (if x.held.isSome then 2 else 0))
  else imgRead x.img o

/-- A store to a context page (R201, R202, R206). -/
def ctxWrite (h : HartId) (o : Nat) (v : Word) (va : Nat) : M Unit := do
  let s ← get
  let x := s.hart h
  if o = 0 then return
  else if o = 8 then
    match v.toNat % 8 with
    | 1 => set (cmdStart s h false)
    | 2 => set (cmdStop s h)
    | 3 => set (cmdClear s h)
    | 4 => set (cmdStart s h true)
    | _ => return
  else if x.onCore then trap 0x07 va
  else if o = 0x18 then set (s.setHart h { x with space := v })
  else if o = 0x20 then set (s.setHart h { x with vsave := v })
  else if o = 0x28 then return
  else set (s.setHart h { x with img := imgWrite x.img o v })

/-! Tile pages. -/

def reqMask (s : State) (t : TileId) (near : Bool) : Nat :=
  (List.finRange 8).foldl (fun a i => let x := s.hart (hartOf t i); if x.requesting ∧ x.near = near then a + 2 ^ i.val else a) 0

/-- What a load of a tile page reads.  DESIGN CHOICE: the error log's clear word, to which R21 gives no access code, reads 0
(log 72). -/
def tileRead (s : State) (t : TileId) (o : Nat) : Word :=
  let x := s.tile t
  if o < 0x40 then x.slots[o / 8 % 8]!
  else if o = 0x40 then w64 x.holder.toNat
  else if o = 0x80 then
    w64 (x.gcur.toNat + 2 * x.gchg.toNat + 4 * (wantNear s t).toNat + 256 * reqMask s t false + 65536 * reqMask s t true + 2 ^ 32 * x.nchg.toNat)
  else if 0x100 ≤ o ∧ o < 0x140 then x.bind[(o - 0x100) / 8]!
  else if o = 0x200 then w64 (x.nheld + 256 * x.next.val + 65536 * x.lost.toNat + 2 ^ 48 * x.quar.toNat)
  else if 0x1000 ≤ o ∧ o < 0x2000 then
    if o % 32 / 8 < 3 then ((mget x.elog ((o - 0x1000) / 32) (Vector.replicate 3 0))[o % 32 / 8]!) else 0
  else 0

/-- A record of the error log (R21). -/
def Tile.logError (x : Tile) (e : Vector Word 3) : Tile :=
  if x.nheld = 128 then { x with lost := if x.lost = 0xFFFFFFFF then x.lost else x.lost + 1 }
  else { x with elog := mset x.elog x.next.val e, next := x.next + 1, nheld := x.nheld + 1 }
def Tile.clearLog (x : Tile) : Tile := { x with elog := [], next := 0, nheld := 0, lost := 0 }

def runAligned (n f : Nat) : Bool := (n == 1 || n == 2 || n == 4 || n == 8) && f % n == 0 && f + n ≤ 8

/-- A store to a slot word (R221).  DESIGN CHOICE: one with HNGRP = 0, which gives the slot no home run, is taken whatever its
HFIRST, and NGRP is 0, FIRST HFIRST (log 79). -/
def slotStore (h : HartId) (v : Word) (va : Nat) : M Unit := do
  let s ← get
  let t := tileOf h
  let i := slotOf h
  if !idleSlot s t i then trap 0x07 va
  let hn := slotHN v; let hf := slotHF v; let pn := slotPN v; let pf := slotPF v
  let others := (List.finRange 8).all fun j =>
    let w := (s.tile t).slots[j]
    j == i || hn == 0 || slotHN w == 0 || hf + hn ≤ slotHF w || slotHF w + slotHN w ≤ hf
  if !((hn == 0 || (runAligned hn hf && pf ≤ hf && hf + hn ≤ pf + pn)) && runAligned pn pf && others) then trap 0x05 va
  let old := s.slotWord h
  let nw := putBits (putBits (putBits (putBits old.toNat 3 0 hn) 6 4 hf) 19 16 pn) 22 20 pf
  -- groups held are given back, then the new home run is taken where no other slot holds it
  let s1 := s.onTile t fun x =>
    let free := (List.range 8).foldl (fun a g => if a / 16 ^ g % 16 = i.val then setHolder a g 15 else a) x.holder.toNat
    { x with slots := x.slots.set i (w64 nw), holder := BitVec.ofNat 32 free }
  let s2 := s1.onTile t fun x =>
    { x with holder := BitVec.ofNat 32 ((List.range 8).foldl (fun a g =>
        if a / 16 ^ g % 16 = 15 then (match homeOf x g with | some j => setHolder a g j.val | none => a) else a) x.holder.toNat) }
  let s3 := releaseToHome s2 h
  let nw' := s3.slotWord h
  if slotN nw' ≠ slotN old ∨ slotF nw' ≠ slotF old then
    set (s3.onHart h Hart.renegotiated)
  else set s3

/-- A store to a tile page (R21, R220, R263, R294). -/
def tileWrite (root : Bool) (t : TileId) (o : Nat) (v : Word) (va : Nat) : M Unit := do
  if o < 0x40 then slotStore (hartOf t (Fin.ofNat 8 (o / 8))) v va
  else if o = 0x208 then
    if root then modify fun s => s.onTile t Tile.clearLog else trap 0x05 va
  else return

/-! Tangent slot pages (R271, R273). -/

def pair (x : Vector (BitVec 32) n) (i : Nat) : Word :=
  w64 ((x.toList.getD i 0).toNat + 2 ^ 32 * (x.toList.getD (i + 1) 0).toNat)
def setPair (x : Vector (BitVec 32) n) (i : Nat) (v : Word) : Vector (BitVec 32) n :=
  (x.set! i (BitVec.ofNat 32 v.toNat)).set! (i + 1) (BitVec.ofNat 32 (v.toNat / 2 ^ 32))

def tslotRead (k : TSlot) (o : Nat) : Word :=
  if o = 0 then w64 (k.st + 256 * k.cerr.toNat) else if o = 0x10 then k.owner else if o = 0x18 then k.shape
  else if o = 0x20 then k.thr else if o = 0x28 then k.samp else if o = 0x30 then k.calls else if o = 0x38 then k.sampled
  else if o = 0x40 then k.fallbacks else if o = 0x48 then w64 k.runerr.toNat else if o = 0x50 then k.depbase
  else if o = 0x58 then k.deplimit else if o = 0x60 then k.sbuf
  else if o = 0x68 then w64 (k.sbcount + 65536 * k.sbhead + 2 ^ 32 * k.good + 2 ^ 48 * k.errn + 2 ^ 56 * k.errhead)
  else if o = 0x70 then k.invals else if o = 0x78 then k.sbphys else if o = 0x80 then k.epoch
  else if 0x100 ≤ o ∧ o < 0x790 then pair k.w ((o - 0x100) / 4)
  else if 0x800 ≤ o ∧ o < 0xE90 then pair k.init ((o - 0x800) / 4)
  else if 0xF00 ≤ o ∧ o < 0x1000 then pair k.hist ((o - 0xF00) / 4)
  else 0

def tslotStore (k : TSlot) (o : Nat) (v : Word) : TSlot :=
  if o = 0x10 then { k with owner := (v &&& 0x107#64) ||| (k.owner &&& 0x1F0000#64) }
  else if o = 0x18 then { k with shape := v &&& 0x1FFFFF#64 }
  else if o = 0x20 then { k with thr := v } else if o = 0x28 then { k with samp := v &&& 0xFFFFFFFFFF#64 }
  else if o = 0x50 then { k with depbase := v &&& 0xFFFFFFFFFFFF#64 } else if o = 0x58 then { k with deplimit := v &&& 0xFFFFFFFFFFFF#64 }
  else if o = 0x60 then { k with sbuf := v }
  else if 0x100 ≤ o ∧ o < 0x790 then { k with w := setPair k.w ((o - 0x100) / 4) v }
  else if 0x800 ≤ o ∧ o < 0xE90 then { k with init := setPair k.init ((o - 0x800) / 4) v }
  else k

def tslotRw (o : Nat) : Bool :=
  o == 0x10 || o == 0x18 || o == 0x20 || o == 0x28 || o == 0x50 || o == 0x58 || o == 0x60 || (0x100 ≤ o && o < 0x790) || (0x800 ≤ o && o < 0xE90)

def tslotWrite (n o : Nat) (v : Word) (va : Nat) : M Unit := do
  let s ← get
  let k := s.tslot n
  if o = 8 then
    match v.toNat % 8 with
    | 1 => set (slotEnable s n false)
    | 2 => set (slotDisable s n)
    | 3 => set (slotInvalidate s n)
    | 4 => set (slotEnable s n true)
    | _ => return
  else if tslotRw o then
    if k.st ≠ 0 then trap 0x07 va else set (s.setTslot n (tslotStore k o v))
  else return

/-! Queue-head pages (R245, R246). -/

def queueRead (q : Queue) (o : Nat) : Word := if o ≤ 0x40 then q.w[o / 8]! else 0

/-- Writable bits of each word (R245). -/
def queueMask (o : Nat) : Nat :=
  if o = 0 then 0x1FFF0307 else if o = 8 then 0xFFFFFFFFFFFF else if o = 0x10 then 0x1F else if o = 0x18 ∨ o = 0x20 then 0xFFFFFFFF
  else if o = 0x30 then 0x7F007F else if o = 0x40 then 0x7FFFFFFFF else 0

def maskedWord (old v : Word) (mask : Nat) : Word := (old &&& ~~~(w64 mask)) ||| (v &&& w64 mask)

/-- One window of the space's reach record (R305). -/
def reachWord (s : State) (f w i : Nat) : Nat := (mget s.hub.reach (32 * f + 4 * w + i) 0).toNat
def windowHolds (s : State) (f w lo hi : Nat) : Bool :=
  reachWord s f w 0 % 2 == 1 && reachWord s f w 0 / 0x4000 % 2 ^ 34 * 0x4000 ≤ lo && hi ≤ reachWord s f w 1 / 0x4000 % 2 ^ 34 * 0x4000
def windowRwx (s : State) (f w : Nat) : Nat := reachWord s f w 2 % 8
def windowKind (s : State) (f w k : Nat) : Bool := reachWord s f w 2 / 2 ^ (3 + k) % 2 == 1
def windowKey (s : State) (f w : Nat) : Nat := reachWord s f w 3 % 4096

/-- The window under which a ring may be enabled, and its key (R246). -/
def ringWindow (s : State) (space : Nat) (q : Queue) : Option Nat :=
  let lo := qBase q; let hi := lo + qCap q * entrySize (qKind q)
  let host := regionOf lo == some .host
  ((List.range 8).find? fun w => windowHolds s (frameNo space) w lo hi && windowRwx s (frameNo space) w % 4 == 3
    && (windowKind s (frameNo space) w 4 || windowKind s (frameNo space) w (if host then 1 else 0))).map (windowKey s (frameNo space))

def ringPlace (q : Queue) : Bool :=
  let lo := qBase q; let hi := lo + qCap q * entrySize (qKind q) - 1
  match regionOf lo, regionOf hi with
  | some .hbm, some .hbm => true
  | some .store, some .store => true
  | some .host, some .host => qKind q == 3
  | _, _ => false

/-- A store to a queue-head page at its home (R246); the function core of a HOSTCMD queue then looks at it (R254). -/
def queueWrite (root : Bool) (space n o : Nat) (v : Word) (va : Nat) : M Unit := do
  let s ← get
  let q := s.queue n
  let go (q : Queue) : M Unit := set ((s.setQueue n q).coreGo n)
  if o = 0x28 then go { q with w := (q.w.set 5 0).set 0 (q.w[0] &&& ~~~0x400#64) }
  else if o ≤ 0x40 ∧ o ≠ 0x38 then
    let nw := maskedWord (q.w[o / 8]!) v (queueMask o)
    let keep := w64 (2 ^ 64 - 1 - 0x300)
    if qEn q ∧ (o = 0 ∧ (nw &&& keep) ≠ (q.w[0] &&& keep) ∨ (o = 8 ∨ o = 0x10 ∨ o = 0x40) ∧ nw ≠ q.w[o / 8]!) then trap 0x07 va
    if o = 0x10 ∧ 20 < nw.toNat then trap 0x05 va
    let q' := { q with w := q.w.set! (o / 8) nw }
    if (o = 0x18 ∨ o = 0x20) ∧ qCap q < qCount q' then trap 0x05 va
    if o = 0 ∧ qEn q' ∧ !qEn q then
      let kind := qKind q'
      if !(1 ≤ kind && kind ≤ 5) ∨ qBase q' % 64 ≠ 0 ∨ 20 < q'.w[2].toNat ∨ !ringPlace q' then trap 0x05 va
      if root then
        go { q' with key := if qWorld q' then 0 else funcKey s (qOwner q') }
      else
        match ringWindow s space q' with
        | some k => go { q' with key := k }
        | none => trap 0x06 va
    else
      go q'
      if o = 0x20 ∧ 0 < (qTail q' + 2 ^ 32 - qTail q) % 2 ^ 32 ∧ (qTail q' + 2 ^ 32 - qTail q) % 2 ^ 32 < 2 ^ 31 then modify fun s => tailGrown s n
  else return

/-! Kernel pages (R257, R258). -/

def kernelRead (k : Kernel) (o : Nat) : Word :=
  if o = 0 then w64 (k.kstate + 8 * k.late.toNat + 256 * k.kerr.toNat + 2 ^ 32 * (k.phase % 2 ^ 32))
  else if o = 0x10 then k.kdesc else if o = 0x18 then k.kspace else if o = 0x20 then k.tset
  else if o = 0x28 then k.sent else if o = 0x30 then k.recv else if o = 0x38 then w64 k.notidle.toNat
  else if o = 0x40 then k.lastsamp else if o = 0x48 then k.placed else if o = 0x50 then k.kdetail else if o = 0x58 then k.own
  else 0

def tsetOk (v : Nat) : Bool :=
  let c := v / 2048 % 256
  1 ≤ c && c ≤ 128 && v / 16 % 128 + c ≤ 128

def kernelWrite (n o : Nat) (v : Word) (va : Nat) : M Unit := do
  let s ← get
  let k := s.kernel n
  let busy := k.kstate == 1 || k.kstate == 2 || k.kstate == 3
  if o = 8 then
    match v.toNat % 4 with
    | 1 => set (kernelArm s n)
    | 2 => set (kernelAbort s n)
    | 3 => set (kernelReset s n)
    | _ => return
  else if o = 0x10 then
    if busy then trap 0x07 va
    if v.toNat % 64 ≠ 0 then trap 0x05 va
    set (s.setKernel n { k with kdesc := v })
  else if o = 0x18 then
    if busy then trap 0x07 va
    set (s.setKernel n { k with kspace := v })
  else if o = 0x20 then
    if busy then trap 0x07 va
    if !tsetOk v.toNat then trap 0x05 va
    set (s.setKernel n { k with tset := v &&& 0x7FFFF#64 })
  else return

/-! Device pages: only secure agents reach them (R45). -/

/-- Nanoseconds of tile time until step b, by the steps from which on so many tiles have charged, newest first. -/
def tileTime (b : Nat) : List (Nat × Nat) → Nat
  | [] => 0
  | (a, n) :: r => (if n = 0 then 0 else n * deltaSum Config.tickDelta a (b - a)) + tileTime a r
/-- USED: the budget units of the slice, µs of tile time added over the tiles (R328, R329; log 23). -/
def funcUsed (s : State) (f : Nat) : Nat :=
  let x := s.func f
  min (2 ^ 32 - 1) (x.w[7].toNat + tileTime s.now x.charged / 1000)

def deviceRead (s : State) (pa : Nat) : Word :=
  let o := pa - 0x7F0000000000
  if o = 0 then s.hub.aback else if o = 8 then s.hub.aframes
  else if 0x1000000 ≤ o ∧ o < 0x1800000 then mget s.hub.tags ((o - 0x1000000) / 8) 0
  else if 0x2000000 ≤ o ∧ o < 0x12000000 then mget s.hub.reach ((o - 0x2000000) / 8) 0
  else if 0x20000000 ≤ o ∧ o < 0x20880000 then mget s.hub.bar2 ((o - 0x20000000) / 8) 0
  else if 0x21000000 ≤ o ∧ o < 0x21000400 then (if o % 16 = 0 then s.hub.outw[(o - 0x21000000) / 16]! else 0)
  else if 0x21001000 ≤ o ∧ o < 0x21001400 then s.hub.inw[(o - 0x21001000) / 8]!
  else if o = 0x21002000 then w64 (s.hub.master.toNat + 2 * s.hub.tlock.toNat + 256 * s.hub.offs.toNat + 65536 * s.hub.portUp.toNat)
  else if 0x30000000 ≤ o ∧ o < 0x30044000 then
    (if o % 0x4000 = 0x38 then w64 (funcUsed s ((o - 0x30000000) / 0x4000)) else if o % 0x4000 ≤ 0x48 then (s.func ((o - 0x30000000) / 0x4000)).w[o % 0x4000 / 8]! else 0)
  else if 0x40000000 ≤ o ∧ o < 0x40000200 then w64 (s.hub.cluster.toNat / 2 ^ ((o - 0x40000000) / 8) % 2)
  else if o = 0x60000000 then w64 s.hub.lease.state.val
  else 0

/-- Writable bits of a function's configuration words (R328). -/
def funcMask (i : Nat) : Nat :=
  match i with
  | 0 => 0x101 | 1 => 0x1FFFF0001FFFF | 2 => 0xFFFFF | 3 => 0x7F7FFFF | 4 => 0xFFFFFFFF0001FFFF | 5 => 0xF | 6 => 0xFFF0FFF | _ => 0

/-- BV reads 0 where BFRAME is no control page (R318). -/
def bar2Value (v : Word) : Word :=
  let x := v &&& 0xFFFFFFFFC003#64
  if regionOf (x.toNat / 0x4000 * 0x4000) == some .control then x else x &&& ~~~1#64

/-- An entry written at its home, arena address pa: the word is poisoned no longer, and a `wait` on its line returns
(R99, R217). -/
def backWrite (s : State) (pa : Nat) (v : Word) : State :=
  wakeWaits (unpoison { s with mem := memWrite s.mem (backing s pa) 8 v.toNat } (backing s pa) 8) pa 8

/-- Cluster n takes on the mode or leaves it (R332).  Tenant harts on it stand still in the mode; RESUME and STEP commands that it
held act when it leaves it (log 81). -/
def setCluster (s : State) (n : Nat) (on : Bool) : State :=
  let s := { s with hub := { s.hub with cluster := BitVec.ofNat 64 (putBits s.hub.cluster.toNat n n on.toNat) } }
  if on then s else (s.harts.filter fun p => p.1 / 64 == n && p.2.held.isSome).foldl (fun s p => startHeld s (Fin.ofNat 4096 p.1)) s

/-- A store of a secure agent to a device page; only the root core writes function pages (R304 to R334), and it reaches the
table arena directly (R306).  DESIGN CHOICE: a value above 2^20 stored to AFRAMES, which R304 gives the range 0 to 2^20,
becomes 2^20 (log 68).  A device whose configuration block failed enables no virtual function (R339). -/
def deviceWrite (root : Bool) (pa : Nat) (v : Word) : M Unit := do
  let s ← get
  let o := pa - 0x7F0000000000
  let hub (x : Hub) : M Unit := set { s with hub := x }
  if inArena s pa then
    if root then set (backWrite s pa v) else return
  else if o = 0 then hub { s.hub with aback := v &&& 0xFFFFFFFFC000#64 }
  else if o = 8 then hub { s.hub with aframes := w64 (min (2 ^ 20) (v.toNat % 2 ^ 21)) }
  else if 0x1000000 ≤ o ∧ o < 0x1800000 then hub { s.hub with tags := mset s.hub.tags ((o - 0x1000000) / 8) (v &&& 0xFFFFF001F010F#64) }
  else if 0x2000000 ≤ o ∧ o < 0x12000000 then
    let m : Nat := match (o - 0x2000000) / 8 % 4 with | 0 => 0xFFFFFFFFC001 | 1 => 0xFFFFFFFFC000 | 2 => 0x1FF | _ => 0xFFF
    hub { s.hub with reach := mset s.hub.reach ((o - 0x2000000) / 8) (v &&& w64 m) }
  else if 0x20000000 ≤ o ∧ o < 0x20880000 then hub { s.hub with bar2 := mset s.hub.bar2 ((o - 0x20000000) / 8) (bar2Value v) }
  else if 0x21000000 ≤ o ∧ o < 0x21000400 then
    let i := (o - 0x21000000) / 16
    if o % 16 = 0 then
      hub { s.hub with outw := s.hub.outw.set! i ((v &&& 0x3FFFF1#64) ||| (s.hub.outw[i]! &&& 0xFFFFFFFF00000000#64)) }
    else return
  else if 0x21001000 ≤ o ∧ o < 0x21001400 then
    hub { s.hub with inw := s.hub.inw.set! ((o - 0x21001000) / 8) (v &&& (if o % 16 = 0 then 0xFFFFF001F0101#64 else 0xFFFFFFFFFFFFF#64)) }
  else if o = 0x21002000 then hub { s.hub with master := v.toNat % 2 == 1 }
  else if 0x30000000 ≤ o ∧ o < 0x30044000 then
    let i := o % 0x4000 / 8
    if root ∧ i < 7 then
      let f := (o - 0x30000000) / 0x4000
      let x := s.func f
      let v := if i = 0 ∧ f ≠ 0 ∧ s.hub.pfOnly then v &&& ~~~1#64 else v
      set (s.setFunc f { x with w := x.w.set! i (v &&& w64 (funcMask i)) })
    else return
  else if 0x40000000 ≤ o ∧ o < 0x40000200 then
    set (setCluster s ((o - 0x40000000) / 8) (v.toNat % 2 == 1))
  else if 0x50000000 ≤ o ∧ o < 0x50040000 then
    let i := (o - 0x50000000) / 64
    let b := o % 64 * 8
    hub { s.hub with keys := mset s.hub.keys i (BitVec.ofNat 512 (putBits (mget s.hub.keys i 0).toNat (b + 63) b v.toNat)) }
  else return

/-- An engine's page (R200).  Ray work is carried by engine 0 of the hart's tile where it carries no strip of a copy (log 43). -/
def engineRead (s : State) (e o : Nat) : Word :=
  let x := s.engine e
  match (if o = 0 && e % 4 = 0 && x.strip.isNone then rayWork s (Fin.ofNat 512 (e / 4)) else none) with
  | some f => w64 (5 + 256 * f)
  | none => if o < 0x40 then x.w[o / 8]! else 0

/-! One aligned 8-byte access to a control or device page. -/

/-- What a load reads (R54: no load has a side effect). -/
def ctlRead (s : State) (pa : Nat) : Word :=
  let o := pa % 0x4000
  if pa < 0x200100000000 then ctxRead s (Fin.ofNat 4096 ((pa - 0x200000000000) / 0x4000)) o
  else if pa < 0x200200000000 then tileRead s (Fin.ofNat 512 ((pa - 0x200100000000) / 0x4000)) o
  else if pa < 0x200300000000 then engineRead s ((pa - 0x200200000000) / 0x4000) o
  else if pa < 0x200400000000 then tslotRead (s.tslot ((pa - 0x200300000000) / 0x4000)) o
  else if pa < 0x200500000000 then queueRead (s.queue ((pa - 0x200400000000) / 0x4000)) o
  else if pa < 0x300000000000 then kernelRead (s.kernel ((pa - 0x200500000000) / 0x4000)) o
  else if inArena s pa then w64 (memRead s.mem (backing s pa) 8)
  else deviceRead s pa

/-- What a store does, or the fault it takes with TVAL = va. -/
def ctlWrite (root : Bool) (w : Who) (pa : Nat) (v : Word) (va : Nat) : M Unit :=
  let o := pa % 0x4000
  if pa < 0x200100000000 then ctxWrite (Fin.ofNat 4096 ((pa - 0x200000000000) / 0x4000)) o v va
  else if pa < 0x200200000000 then tileWrite root (Fin.ofNat 512 ((pa - 0x200100000000) / 0x4000)) o v va
  else if pa < 0x200300000000 then trap 0x05 va
  else if pa < 0x200400000000 then tslotWrite ((pa - 0x200300000000) / 0x4000) o v va
  else if pa < 0x200500000000 then queueWrite root w.iss.space ((pa - 0x200400000000) / 0x4000) o v va
  else if pa < 0x300000000000 then kernelWrite ((pa - 0x200500000000) / 0x4000) o v va
  else deviceWrite root pa v

end Sys2Proof.Machine
end

