-- ==== Sys2Proof/Machine/Operands.lean ====
section
/-! DEFINITION. Scalar memory operands: loads, stores, table stores and atomics by virtual address
(06 R98 to R103, 19 R302 to R309), and what the control thread does when it waits. -/
namespace Sys2Proof.Machine

/-- The cause by which a computation says that its instruction has not completed and waits at its address.  It
never enters a hart: `finish` leaves the PC and takes no trap. -/
def waits : Nat := 0x1000

/-- The instruction waits in w (R207, R291). -/
def waitIn {α : Type} (h : HartId) (w : Wait) : M α := do
  modify fun s => gearCheck (s.setWait h w) (tileOf h)
  throw { cause := waits, tval := 0 }

/-- Bytes of an arena frame (R306). -/
def arenaRead (s : State) (pa n : Nat) : Nat := memRead s.mem (backing s pa) n

/-- A read or an atomic on memory of the host or of a peer: it completes, or completes with an error; one that does not complete
makes the control thread wait, and of another agent completes as not mapped (R319, R324, R326).  `bar` says that it is a
`barw`'s (R291). -/
def request (w : Who) (x : Xl) (va : Nat) (bar : Bool := false) : M Unit := do
  if !(← outside x va) then
    match (if w.port == .s then w.iss.hart else none) with
    | some h => waitIn h (.outside (BitVec.ofNat 64 va) (x.region == .peer) bar)
    | none => trap 0x04 va

/-- Only a normal page is cached: an S access to another bypasses the data cache (R100). -/
def Who.thru (w : Who) (leaf : Nat) : Who := if eKind leaf = 0 then w else { w with port := if w.port == .s then .eng else w.port }

/-- A release: what the S agent of the tile has stored is performed at device scope (R54, R57, R60, R101), or what the V agent
of the hart has. -/
def release (w : Who) : M Unit := modify fun s =>
  match w.port, w.iss.hart with
  | .s, _ => sendHome s w.tile
  | .v, some h => performHart s h
  | _, _ => s

/-- A load of n bytes at va (R98, R99).  One of a control page is performed after the agent's earlier accesses (R54). -/
def loadV (w : Who) (va n : Nat) : M Nat := do
  if va % n ≠ 0 then trap 0x03 va
  let s ← get
  match xlate s w .load va with
  | .error t => throw t
  | .ok x =>
    modify fun s => touch s x false
    if eKind x.leaf == 2 && n ≠ 8 then trap 0x0E va
    if eKind x.leaf != 2 && poisoned s (if inArena s x.pa then backing s x.pa else x.pa) n then trap 0x0B va
    request w x va
    if inArena s x.pa then return arenaRead (← get) x.pa n
    if eKind x.leaf == 2 then
      release w
      return (ctlRead (← get) x.pa).toNat
    physRead (w.thru x.leaf) x.pa n (eKey x.leaf)

/-- Whether a table store of v by the space passes (R307). -/
def reachOk (s : State) (space pa v : Nat) : Bool :=
  let lvl := tagLevel (frameTag s pa)
  let me := frameNo space
  let tg := frameTag s (eFrame v)
  if !eV v then true
  else if malformedSelf v lvl then false
  else if eN v then tagUse tg && tagLevel tg == lvl + 1 && tagSpace tg == me
  else if eKind v == 3 then lvl == 3 && tagUse tg && tagSpace tg == me
  else
    let lo := eFrame v
    let isHbm := hbm lo
    (List.range 8).any fun n =>
      windowHolds s me n lo (lo + leafSize lvl) && (v / 4 % 8) &&& windowRwx s me n == v / 4 % 8
      && windowKind s me n (eKind v) && (!eBit v 8 || reachWord s me n 2 / 256 % 2 == 1)
      && (if isHbm then eKey v == windowKey s me n else eKey v == 0)

/-- A leaf into HBM grants a KEY of the storing function's range, KEYLO to KEYHI (R334). -/
def keyGranted (s : State) (f v : Nat) : Bool :=
  let w := (s.func f).w[6].toNat
  !(eV v && !eN v && eKind v != 3 && hbm (eFrame v)) || f == 31 || (w % 4096 ≤ eKey v && eKey v ≤ w / 65536 % 4096)

/-- A table store that passes: a release, then one 8-byte write at the entry's home, which clears the word's poison, and is
remembered until `tfence` (R54, R99, R307 to R310). -/
def tableStore (w : Who) (x : Xl) (v : Nat) : M Unit := do
  release w
  modify fun s =>
    let old : Word := BitVec.ofNat 64 (arenaRead s x.pa 8)
    let s := backWrite s x.pa (BitVec.ofNat 64 v)
    match w.iss.hart with
    | some h => s.onHart h fun a => { a with tstores := a.tstores ++ [(x.pa, old)] }
    | none => s

/-- A store of the low n bytes of v at va (R98, R99, R307).  `table` says that it is an `std`, which alone can be a table
store. -/
def storeV (w : Who) (va n v : Nat) (table : Bool := false) : M Unit := do
  if va % n ≠ 0 then trap 0x03 va
  let s ← get
  match xlate s w .store va with
  | .error t => throw t
  | .ok x =>
    if eKind x.leaf == 3 then
      if n ≠ 8 || !table then trap 0x05 va
      if !reachOk s w.iss.space x.pa (v % 2 ^ 64) || !keyGranted s w.iss.func (v % 2 ^ 64) then trap 0x06 va
      -- accesses in the vector queue are translated before it (R308)
      match w.iss.hart with
      | some h => if !vDrained (s.hart h) then waitIn h .join
      | none => pure ()
      set (touch s x true)
      tableStore w x (v % 2 ^ 64)
    else if eKind x.leaf == 2 then
      set (touch s x true)
      if n ≠ 8 then trap 0x0E va
      release w
      ctlWrite false w x.pa (BitVec.ofNat 64 v) va
      modify fun s => wakeWaits s x.pa n
    else
      set (touch s x true)
      if n < 8 && poisoned s x.pa n then trap 0x0B va
      physWrite w (eKind x.leaf == 0) x.pa n (v % 256 ^ n) (eKey x.leaf)

/-- One indivisible read-modify-write at the target's home (R61, R102, R103).  `host` says whether the operation is
one that the PCIe endpoint performs; `rel` that it is a release (R60, R104); f answers the new value, or none for no
write. -/
def atomicV (w : Who) (va n : Nat) (host : Bool) (f : Nat → Option Nat) (rel : Bool := false) : M Nat := do
  if va % n ≠ 0 then trap 0x03 va
  let s ← get
  match xlate s w .atomic va with
  | .error t => throw t
  | .ok x =>
    if eKind x.leaf = 3 then trap 0x05 va
    modify fun s => touch s x true
    if x.region == .control || x.region == .device then trap 0x0E va
    if x.region == .host && !host then trap 0x05 va
    if poisoned s x.pa n then trap 0x0B va
    request w x va
    if rel then release w
    -- the agent's earlier accesses to these bytes are performed first (R53); the host performs what is one request to it (R61)
    modify fun s => vOrder s w true x.pa n
    modify fun s => recallLines (outRequest s w x.pa n none true) x.pa n none
    let old := seenRead (← get) { w with port := .eng } x.pa (eKey x.leaf) n
    match f old with
    | some v => modify fun s => storeHome s x.pa n (v % 256 ^ n) (eKey x.leaf)
    | none => pure ()
    return old

/-! What the control thread does at the end of an instruction. -/

/-- The hart on whose behalf an encoded instruction is executed. -/
def State.me (s : State) : HartId := s.cur.hart
/-- g[x] of that hart, and its PC. -/
def State.r (s : State) (x : GReg) : Word := s.g s.me x
def State.pc (s : State) : Word := (s.hart s.me).c.pc

/-- A trap taken by what executes the instruction: the control thread (R210), or a vector-side fault that waits
for the control thread's boundary (R164).  DESIGN CHOICE: a stream instruction's trap that no element causes (R87) has TELEM 0,
whatever VPs are in the stream (log 30). -/
def takeTrap (t : Trap) (s : State) : State :=
  let h := s.me
  match s.cur.thread with
  | .control => trapEntry h t (s.hart h).c.pc s
  | .stream => s.onLive h fun l => { l with frozen := true, vfault := some { t with tpc := some (t.tpc.getD (s.hart h).c.vpc) } }
  | .vp i =>
    let pc := match (s.hart h).live.tvps.find? fun v => v.vp == i with | some v => v.pc | none => 0
    (s.onHart h fun x => rollVp x i).onLive h fun l => { l with
      frozen := true
      tvps := l.tvps.map fun v => if v.vp = i then { v with faulted := some { t with telem := i.val, tpc := some (t.tpc.getD pc) } } else v }

/-- The end of a control-thread instruction: it went on, waits, or trapped. -/
def finish (m : M Unit) (s : State) : Out :=
  match m.run.run s with
  | (.ok _, s') => .next s'
  | (.error t, s') => .next (if t.cause = waits then s' else takeTrap t s')

/-- An instruction that may stand only in control-thread code: elsewhere it is illegal (R84, R87). -/
def inControl (enc : Nat) (m : M Unit) (s : State) : Out :=
  match s.cur.thread with
  | .control => finish m s
  | _ => .next (takeTrap { cause := 0x01, tval := BitVec.ofNat 64 enc } s)

/-- The instruction has completed: the wait ends and PC is the next instruction. -/
def retire (s : State) (len : Nat) : State :=
  let h := s.me
  s.onHart h fun x => { x with c := { x.c with pc := x.c.pc + BitVec.ofNat 64 len }, live := { x.live with wait := .none } }

/-- g[d] := v and on. -/
def put (d : Fin 32) (v : Word) (len : Nat) : M Unit := modify fun s => retire (s.setG s.me d v) len

end Sys2Proof.Machine
end

