-- ==== Sys2Proof/Machine/Fetch.lean ====
section
/-! DEFINITION. Fetching an instruction, through the instruction cache or the facet cache (05 R76, R77, 03 R50). -/
namespace Sys2Proof.Machine
noncomputable section

def cacheKey (t : TileId) (pa : Nat) : Nat := 2 ^ 48 * t.val + pa

/-- One byte of an instruction: it needs a translation with X = 1 (R77).  Cached bytes are not kept coherent (R50).
Those of a page of another KIND than normal are never cached (R54).  DESIGN CHOICE: an uncached byte is read at its home, and
one that is still dirty in the tile's own data cache is missed, as by a V access (log 5). -/
def fetchByte (w : Who) (facet : Bool) (va : Nat) : M Nat := do
  let s ← get
  match xlate s w .fetch va with
  | .error t => throw t
  | .ok x =>
    set (touch s x false)
    let key := cacheKey w.tile x.pa
    let cache := if facet then s.fcache else s.icache
    if eKind x.leaf == 0 && mhas cache key then return (mget cache key 0).toNat
    let v ← physRead { w with port := .v, iss := { w.iss with hart := none } } x.pa 1 (eKey x.leaf)
    modify fun s =>
      if (s.tile w.tile).icFill && eKind x.leaf == 0 then
        (if facet then { s with fcache := mset s.fcache key (BitVec.ofNat 8 v) } else { s with icache := mset s.icache key (BitVec.ofNat 8 v) })
      else s
    return v

def fetchBytes (w : Who) (facet : Bool) (va : Nat) : Nat → M Nat
  | 0 => pure 0
  | n + 1 => do
    let b ← fetchByte w facet (va % 2 ^ 64)
    let r ← fetchBytes w facet (va + 1) n
    return b + 256 * r

/-- The whole instruction at va: its bits, bit 0 the lowest of the first parcel (R76, R77). -/
def fetchAt (w : Who) (facet : Bool) (va : Nat) : M Nat := do
  let p ← fetchBytes w facet va 2
  let r ← fetchBytes w facet (va + 2) (parcelLen p - 2)
  return p + 65536 * r

/-- What the first parcel at va is, with no effect; none where it cannot be fetched. -/
def peekAt (s : State) (w : Who) (va : Nat) : Option Nat :=
  match (fetchAt w true va).run.run s with
  | (.ok v, _) => some v
  | _ => none

/-- The encoding as TVAL shows it (R88). -/
def encBits (v : Nat) : Nat := v % 2 ^ (8 * parcelLen v)

end
end Sys2Proof.Machine
end

