-- ==== Sys2Proof/Machine/Flags.lean ====
section
/-! DEFINITION. Element formats, rounding and the flags they raise (02 R23 to R43). -/
namespace Sys2Proof.Machine

/-! XFLAGS bits (R36). -/
def fSAT : Nat := 1
def fNX : Nat := 2
def fUF : Nat := 4
def fOF : Nat := 8
def fDZ : Nat := 16
def fNV : Nat := 32
def fCROSS : Nat := 64

/-! Fixed point (R38, R39). -/

/-- RoundFix(x, s, mode) over unbounded integers; x / 2^s is the floor (R38). -/
def roundFix (x : Int) (s mode : Nat) : Int :=
  if s = 0 then x
  else
    let q := x / 2 ^ s
    let r := (x % 2 ^ s).toNat
    let top := 2 ^ (s - 1) ≤ r
    let inc : Bool := match mode with
      | 0 => decide top
      | 1 => decide top && (decide (r % 2 ^ (s - 1) ≠ 0) || decide (q % 2 = 1))
      | 2 => false
      | _ => decide (q % 2 = 0) && decide (r ≠ 0)
    if inc then q + 1 else q

/-- x clamped to [lo, hi], and SAT where it was outside (R39). -/
def clamp (lo hi x : Int) : Int × Nat := if x < lo then (lo, fSAT) else if hi < x then (hi, fSAT) else (x, 0)
def satS (n : Nat) (x : Int) : Nat × Nat := let (y, f) := clamp (-(2 ^ (n - 1))) (2 ^ (n - 1) - 1) x; (wrapTo n y, f)
def satU (n : Nat) (x : Int) : Nat × Nat := let (y, f) := clamp 0 (2 ^ n - 1) x; (wrapTo n y, f)

/-! Binary floating point (R26). -/

/-- A value: NaN (signalling or not), infinity, or ±m × 2^e; `sticky` says that the exact magnitude lies strictly
between m and m + 1 units. -/
inductive FV
  | nan (signalling : Bool)
  | inf (neg : Bool)
  | fin (neg : Bool) (m : Nat) (e : Int) (sticky : Bool)
  deriving DecidableEq, Repr

def isInt (f : Nat) : Bool := f ≤ 5
def isFloat (f : Nat) : Bool := 6 ≤ f && f ≤ 12
/-- BF16, FP16, FP32, FP64. -/
def isWide (f : Nat) : Bool := 6 ≤ f && f ≤ 9
def fracBits (f : Nat) : Nat := match f with | 6 => 7 | 7 => 10 | 8 => 23 | 9 => 52 | 10 => 3 | 11 => 2 | _ => 1
def expBits (f : Nat) : Nat := match f with | 6 => 8 | 7 => 5 | 8 => 8 | 9 => 11 | 10 => 4 | 11 => 5 | _ => 2
def expBias (f : Nat) : Int := match f with | 6 => 127 | 7 => 15 | 8 => 127 | 9 => 1023 | 10 => 7 | 11 => 15 | _ => 1
def hasInf (f : Nat) : Bool := f != 10 && f != 12
def fpWidth (f : Nat) : Nat := 1 + expBits f + fracBits f
/-- The canonical quiet NaN (R27); E2M1 has none and writes 0 (R28). -/
def canonNaN (f : Nat) : Nat := match f with
  | 6 => 0x7FC0 | 7 => 0x7E00 | 8 => 0x7FC00000 | 9 => 0x7FF8000000000000 | 10 => 0x7F | 11 => 0x7E | _ => 0

/-- The value of a D8 code (R33). -/
def d8Value (x : Nat) : Int :=
  (if x / 128 % 2 = 1 then -1 else 1) * 2 ^ (7 - x / 16 % 8) + (if x / 8 % 2 = 1 then -1 else 1) * 2 ^ (7 - x % 8)

def ofInt (x : Int) (e : Int) : FV := .fin (x < 0) x.natAbs e false

/-- The value of a pattern of a floating format or of D8. -/
def decodeFP (f x : Nat) : FV :=
  if f = 13 then ofInt (d8Value x) (-7)
  else
    let fb := fracBits f
    let neg := x / 2 ^ (fpWidth f - 1) % 2 == 1
    let e := x / 2 ^ fb % 2 ^ expBits f
    let fr := x % 2 ^ fb
    if e = 2 ^ expBits f - 1 ∧ hasInf f then
      if fr = 0 then .inf neg else .nan (fr / 2 ^ (fb - 1) == 0)
    else if f = 10 ∧ e = 15 ∧ fr = 7 then .nan false
    else if e = 0 then .fin neg fr (1 - expBias f - fb) false
    else .fin neg (2 ^ fb + fr) ((e : Int) - expBias f - fb) false

/-- The largest finite magnitude, as units of the top binade. -/
def maxUnits (f : Nat) : Nat := if f = 10 then 14 else 2 ^ (fracBits f + 1) - 1
def maxExp (f : Nat) : Int := (2 ^ expBits f - 1 : Int) - expBias f - (if hasInf f then 1 else 0)

/-- m × 2^e rounded to units of 2^q: the units, and whether inexact.  DESIGN CHOICE: a rounding mode of 5, 6 or 7, which only the
RMODE field of a vector-queue entry written through a page can hold, rounds as mode 4 (log 82). -/
def roundUnits (neg : Bool) (m : Nat) (e q : Int) (sticky : Bool) (mode : Nat) : Nat × Bool :=
  if q ≤ e then (m * 2 ^ (e - q).toNat, sticky)
  else
    let s := (q - e).toNat
    let n := m / 2 ^ s
    let r := m % 2 ^ s
    let inexact := sticky || r != 0
    let half := 2 ^ (s - 1)
    let up : Bool := match mode with
      | 0 => decide (half < r) || (decide (r = half) && (sticky || n % 2 == 1))
      | 1 => false
      | 2 => neg && inexact
      | 3 => !neg && inexact
      | _ => decide (half ≤ r)
    (if up then n + 1 else n, inexact)

def signBit (f : Nat) (neg : Bool) : Nat := if neg then 2 ^ (fpWidth f - 1) else 0
def infCode (f : Nat) (neg : Bool) : Nat := signBit f neg + (2 ^ expBits f - 1) * 2 ^ fracBits f
def maxCode (f : Nat) (neg : Bool) : Nat :=
  signBit f neg + ((maxExp f + expBias f).toNat) * 2 ^ fracBits f + (maxUnits f - 2 ^ fracBits f)

/-- RoundFP(x, f, mode): the pattern and the flags (R28). -/
def roundFP (f mode : Nat) (x : FV) : Nat × Nat :=
  match x with
  | .nan sn => (canonNaN f, (if sn then fNV else 0) ||| (if f = 12 then fNV else 0))
  | .inf neg => if hasInf f then (infCode f neg, 0) else (maxCode f neg, fOF)
  | .fin neg m e sticky =>
    if m = 0 then (signBit f neg, 0)
    else
      let fb : Int := fracBits f
      let top : Int := (m.log2 : Int) + e
      let emin : Int := 1 - expBias f
      let q : Int := max top emin - fb
      let (n, nx) := roundUnits neg m e q sticky mode
      let (n, q) := if n = 2 ^ (fracBits f + 1) then (2 ^ fracBits f, q + 1) else (n, q)
      let tiny := top < emin && !((roundUnits neg m e (top - fb) sticky mode).1 == 2 ^ (fracBits f + 1) && top + 1 == emin)
      if maxExp f - fb < q ∨ (q = maxExp f - fb ∧ maxUnits f < n) then
        let big := !hasInf f || mode == 1 || (mode == 2 && !neg) || (mode == 3 && neg)
        (if big then maxCode f neg else infCode f neg, fOF ||| fNX)
      else
        let code := if n < 2 ^ fracBits f then n else (q + fb + expBias f).toNat * 2 ^ fracBits f + (n - 2 ^ fracBits f)
        (signBit f neg + code, (if nx then fNX else 0) ||| (if nx && tiny then fUF else 0))

/-! Exact operations (R40): a value to be rounded once, and the flags of the invalid cases. -/

def FV.neg? : FV → Bool
  | .nan _ => false | .inf n => n | .fin n _ _ _ => n
def FV.negate : FV → FV
  | .nan s => .nan s | .inf n => .inf (!n) | .fin n m e t => .fin (!n) m e t
def FV.isNaN : FV → Bool | .nan _ => true | _ => false
def FV.isSnan : FV → Bool | .nan s => s | _ => false
def nvOf (l : List FV) : Nat := if l.any FV.isSnan then fNV else 0

/-- Signed integer of a finite value in units of 2^q, q at most its exponent. -/
def unitsOf (neg : Bool) (m : Nat) (e q : Int) : Int :=
  let v : Int := (m * 2 ^ (e - q).toNat : Nat)
  if neg then -v else v

def addFV (mode : Nat) (a b : FV) : FV × Nat :=
  match a, b with
  | .nan _, _ => (.nan false, nvOf [a, b])
  | _, .nan _ => (.nan false, nvOf [a, b])
  | .inf x, .inf y => if x = y then (a, 0) else (.nan false, fNV)
  | .inf _, _ => (a, 0)
  | _, .inf _ => (b, 0)
  | .fin x m e _, .fin y n g _ =>
    let q := min e g
    let v := unitsOf x m e q + unitsOf y n g q
    if v = 0 then (.fin (if m = 0 ∧ n = 0 ∧ x = y then x else mode == 2) 0 0 false, 0)
    else (ofInt v q, 0)

def mulFV (a b : FV) : FV × Nat :=
  match a, b with
  | .nan _, _ => (.nan false, nvOf [a, b])
  | _, .nan _ => (.nan false, nvOf [a, b])
  | .inf x, .inf y => (.inf (x != y), 0)
  | .inf x, .fin y m _ _ => if m = 0 then (.nan false, fNV) else (.inf (x != y), 0)
  | .fin x m _ _, .inf y => if m = 0 then (.nan false, fNV) else (.inf (x != y), 0)
  | .fin x m e _, .fin y n g _ => (.fin (x != y) (m * n) (e + g) false, 0)

def divFV (a b : FV) : FV × Nat :=
  match a, b with
  | .nan _, _ => (.nan false, nvOf [a, b])
  | _, .nan _ => (.nan false, nvOf [a, b])
  | .inf _, .inf _ => (.nan false, fNV)
  | .inf x, .fin y _ _ _ => (.inf (x != y), 0)
  | .fin x _ _ _, .inf y => (.fin (x != y) 0 0 false, 0)
  | .fin x m e _, .fin y n g _ =>
    if n = 0 then (if m = 0 then (.nan false, fNV) else (.inf (x != y), fDZ))
    else
      let k := 130 + n.log2
      (.fin (x != y) (m * 2 ^ k / n) (e - g - k) (m * 2 ^ k % n != 0), 0)

/-- The integer square root, by bits from the top. -/
def isqrtFrom (x : Nat) : Nat → Nat → Nat
  | 0, r => r
  | b + 1, r => let t := r + 2 ^ b; isqrtFrom x b (if t * t ≤ x then t else r)
def isqrt (x : Nat) : Nat := isqrtFrom x (x.log2 / 2 + 1) 0

def sqrtFV (a : FV) : FV × Nat :=
  match a with
  | .nan s => (.nan false, if s then fNV else 0)
  | .inf neg => if neg then (.nan false, fNV) else (a, 0)
  | .fin neg m e _ =>
    if m = 0 then (a, 0)
    else if neg then (.nan false, fNV)
    else
      let (m, e) := if e % 2 = 0 then (m, e) else (2 * m, e - 1)
      let x := m * 2 ^ 260
      let r := isqrt x
      (.fin false r (e / 2 - 130) (r * r != x), 0)

/-- a × b + d, one rounding later (R40). -/
def fmaFV (mode : Nat) (a b d : FV) : FV × Nat :=
  let (p, f) := mulFV a b
  let (r, g) := addFV mode p d
  (r, f ||| g ||| nvOf [a, b, d])

/-- Arithmetic on patterns of one format: exact, rounded once, the flags together. -/
def fpDo (f mode : Nat) (r : FV × Nat) : Nat × Nat :=
  let (c, g) := roundFP f mode r.1; (c, g ||| r.2)
def fpAdd (f mode x y : Nat) : Nat × Nat := fpDo f mode (addFV mode (decodeFP f x) (decodeFP f y))
def fpSub (f mode x y : Nat) : Nat × Nat := fpDo f mode (addFV mode (decodeFP f x) (decodeFP f y).negate)
def fpMul (f mode x y : Nat) : Nat × Nat := fpDo f mode (mulFV (decodeFP f x) (decodeFP f y))
def fpDiv (f mode x y : Nat) : Nat × Nat := fpDo f mode (divFV (decodeFP f x) (decodeFP f y))
def fpSqrt (f mode x : Nat) : Nat × Nat := fpDo f mode (sqrtFV (decodeFP f x))
/-- (±a) × b + (±d). -/
def fpFma (f mode : Nat) (np nd : Bool) (x y d : Nat) : Nat × Nat :=
  let a := decodeFP f x; let c := decodeFP f d
  fpDo f mode (fmaFV mode (if np then a.negate else a) (decodeFP f y) (if nd then c.negate else c))

/-- Order of two numbers; none with a NaN. −0 equals +0. -/
def cmpFV (a b : FV) : Option Ordering :=
  match a, b with
  | .nan _, _ => none
  | _, .nan _ => none
  | .inf x, .inf y => some (if x = y then .eq else if x then .lt else .gt)
  | .inf x, _ => some (if x then .lt else .gt)
  | _, .inf y => some (if y then .gt else .lt)
  | .fin x m e _, .fin y n g _ =>
    let q := min e g
    some (compare (unitsOf x m e q) (unitsOf y n g q))

def fpEq (f x y : Nat) : Bool × Nat :=
  let a := decodeFP f x; let b := decodeFP f y
  (cmpFV a b == some .eq, nvOf [a, b])
def fpLt (f x y : Nat) : Bool × Nat :=
  match cmpFV (decodeFP f x) (decodeFP f y) with | none => (false, fNV) | some o => (o == .lt, 0)
def fpLe (f x y : Nat) : Bool × Nat :=
  match cmpFV (decodeFP f x) (decodeFP f y) with | none => (false, fNV) | some o => (o != .gt, 0)

/-- `vfmin` (false) and `vfmax` (true): −0 below +0, a NaN loses to a number (R137). -/
def fpMinMax (f : Nat) (mx : Bool) (x y : Nat) : Nat × Nat :=
  let a := decodeFP f x; let b := decodeFP f y
  let nv := nvOf [a, b]
  if a.isNaN ∧ b.isNaN then (canonNaN f, nv)
  else if a.isNaN then (y, nv)
  else if b.isNaN then (x, nv)
  else
    let less := match cmpFV a b with | some .lt => true | some .gt => false | _ => a.neg? && !b.neg?
    (if less != mx then x else y, nv)

/-! Conversions (R29). -/

def fpConvert (src dst mode x : Nat) : Nat × Nat := roundFP dst mode (decodeFP src x)

/-- A value rounded to an integer under mode, and whether inexact. -/
def toIntFV (neg : Bool) (m : Nat) (e : Int) (mode : Nat) : Int × Bool :=
  let (n, nx) := roundUnits neg m e 0 false mode
  (if neg then -(n : Int) else n, nx)

/-- Floating point to a signed n-bit integer (R29). -/
def fpToInt (f n mode x : Nat) : Nat × Nat :=
  let hi : Int := 2 ^ (n - 1) - 1
  match decodeFP f x with
  | .nan _ => (wrapTo n hi, fNV)
  | .inf neg => (wrapTo n (if neg then -(2 ^ (n - 1)) else hi), fNV)
  | .fin neg m e _ =>
    let (v, nx) := toIntFV neg m e mode
    if v < -(2 ^ (n - 1)) then (wrapTo n (-(2 ^ (n - 1))), fNV)
    else if hi < v then (wrapTo n hi, fNV)
    else (wrapTo n v, if nx then fNX else 0)

def intToFp (n f mode x : Nat) : Nat × Nat := roundFP f mode (ofInt (sgn n x) 0)

/-! D8 (R33, R34). -/

/-- The better of two codes at distances a and b from the value (R34, rules 2 and 3). -/
def d8Better (dist : Nat → Nat) (c b : Nat) : Bool :=
  decide (dist c < dist b) || (dist c == dist b && (decide (c / 16 % 8 > b / 16 % 8) ||
    (c / 16 % 8 == b / 16 % 8 && (decide (c % 8 < b % 8) || (c % 8 == b % 8 && decide (c < b))))))
def d8Pick (dist : Nat → Nat) : Nat := (List.range 256).foldl (fun b c => if d8Better dist c b then c else b) 0
def encodeD8 (x : FV) : Nat × Nat :=
  match x with
  | .nan _ => (0x08, fNV)
  | .inf neg => (d8Pick fun c => (d8Value c - (if neg then -256 else 256)).natAbs, fNX ||| fOF)
  | .fin neg m e _ =>
    let q := min e (-7)
    let v := unitsOf neg m e q
    let k : Nat := (-7 - q).toNat
    let dist (c : Nat) : Nat := (d8Value c * 2 ^ k - v).natAbs
    let c := d8Pick dist
    let z := if d8Value c = 0 then 0x08 else c
    (z, (if dist c ≠ 0 then fNX else 0) ||| (if (2 ^ (k + 8) : Int) < v.natAbs then fOF else 0))

/-! Scales (R30, R31). -/

/-- An element value times 2^(scale − 127); none for a scale of 0xFF, whose effective value is a quiet NaN. -/
def scaled (x : FV) (scale : Nat) : FV :=
  if scale = 0xFF then .nan false
  else match x with
    | .fin n m e t => .fin n m (e + scale - 127) t
    | y => y

/-- An element value divided exactly by its scale (R140, R141). -/
def unscaled (x : FV) (scale : Nat) : FV :=
  if scale = 0xFF then .nan false
  else match x with
    | .fin n m e t => .fin n m (e - scale + 127) t
    | y => y

/-! Special functions (R41), correctly rounded under RNE from fixed point of 256 fraction bits (log 16). -/

def fixP : Nat := 256
/-- t + t^3/3 + t^5/5 + …, from the term t^(2i+1). -/
def atanhSum (t2 : Nat) : Nat → Nat → Nat → Nat
  | 0, _, _ => 0
  | n + 1, i, p => p / (2 * i + 1) + atanhSum t2 n (i + 1) (p * t2 / 2 ^ fixP)
def atanhFix (t : Nat) : Nat := atanhSum (t * t / 2 ^ fixP) 90 0 t
def ln2Fix : Nat := 2 * atanhFix (2 ^ fixP / 3)
def expSum (r : Nat) : Nat → Nat → Nat → Nat
  | 0, _, _ => 0
  | n + 1, i, p => p + expSum r n (i + 1) (p * r / 2 ^ fixP / (i + 1))
/-- e^r for r in [0, ln 2]. -/
def expFix (r : Nat) : Nat := expSum r 75 0 (2 ^ fixP)
/-- e^(−z): mantissa and the power of two to divide by. -/
def expNegFix (z : Nat) : Nat × Nat := (expFix (ln2Fix - z % ln2Fix), z / ln2Fix + 1)
/-- The magnitude m × 2^e in fixed point, rounded down. -/
def toFix (m : Nat) (e : Int) : Nat :=
  let s := e + fixP
  if 0 ≤ s then m * 2 ^ s.toNat else m / 2 ^ (-s).toNat
/-- A result whose exact value lies strictly above the fixed-point one. -/
def fixFV (neg : Bool) (x : Nat) (k : Nat) : FV := .fin neg x (-(fixP : Int) - k) true
def hugeFV (neg : Bool) : FV := .fin neg 1 100000 false
def tinyFV (neg : Bool) : FV := .fin neg (2 ^ 200) (-100000) true
/-- A value just below 1. -/
def below1 (neg : Bool) : FV := .fin neg (2 ^ 200 - 1) (-200) true

def exp2FV (x : FV) : FV :=
  match x with
  | .inf neg => if neg then .fin false 0 0 false else .inf false
  | .fin neg m e _ =>
    if m = 0 then .fin false 1 0 false
    else if 12 < (m.log2 : Int) + e then (if neg then tinyFV false else hugeFV false)
    else
      let v := unitsOf neg m e (min e 0)
      let d : Int := 2 ^ (min e 0).natAbs
      let i := v / d
      let r := (v % d).toNat
      if r = 0 then .fin false 1 i false
      else match fixFV false (expFix (max 1 (r * 2 ^ fixP / d.toNat) * ln2Fix / 2 ^ fixP)) 0 with
        | .fin _ n g _ => .fin false n (g + i) true
        | y => y
  | y => y

def log2FV (x : FV) : FV × Nat :=
  match x with
  | .inf neg => if neg then (.nan false, fNV) else (x, 0)
  | .fin neg m e _ =>
    if m = 0 then (.inf true, fDZ)
    else if neg then (.nan false, fNV)
    else
      let k : Int := (m.log2 : Int) + e
      if m = 2 ^ m.log2 then (ofInt k 0, 0)
      else
        let y := m * 2 ^ fixP / 2 ^ m.log2
        let t := (y - 2 ^ fixP) * 2 ^ fixP / (y + 2 ^ fixP)
        let l := 2 * atanhFix t * 2 ^ fixP / ln2Fix
        let v : Int := k * 2 ^ fixP + l
        -- the exact value is no multiple of the unit; a negative one lies strictly below in magnitude
        (if v < 0 then .fin true (v.natAbs - 1) (-(fixP : Int)) true else .fin false v.toNat (-(fixP : Int)) true, 0)
  | y => (y, 0)

def rsqrtFV (x : FV) : FV × Nat :=
  match x with
  | .inf neg => if neg then (.nan false, fNV) else (.fin false 0 0 false, 0)
  | .fin neg m e _ =>
    if m = 0 then (.inf neg, fDZ)
    else if neg then (.nan false, fNV)
    else
      let (m, e) := if e % 2 = 0 then (m, e) else (2 * m, e - 1)
      let n := 2 ^ 600 / m
      let r := isqrt n
      (.fin false r (-(e / 2) - 300) (r * r * m != 2 ^ 600), 0)
  | y => (y, 0)

def tanhFV (x : FV) : FV :=
  match x with
  | .inf neg => .fin neg 1 0 false
  | .fin neg m e _ =>
    if m = 0 then x
    else if (m.log2 : Int) + e < -45 then .fin neg (m * 2 ^ 200 - 1) (e - 200) true
    else if 8 < (m.log2 : Int) + e then below1 neg
    else
      let (u, k) := expNegFix (toFix m (e + 1))
      let u := u / 2 ^ k
      fixFV neg ((2 ^ fixP - u) * 2 ^ fixP / (2 ^ fixP + u)) 0
  | y => y

def sigmFV (x : FV) : FV :=
  match x with
  | .inf neg => if neg then .fin false 0 0 false else .fin false 1 0 false
  | .fin neg m e _ =>
    if m = 0 then .fin false 1 (-1) false
    else if 10 < (m.log2 : Int) + e then (if neg then tinyFV false else below1 false)
    else
      let (u, k) := expNegFix (max 1 (toFix m e))
      let d := 2 ^ fixP + u / 2 ^ k
      if neg then fixFV false (u * 2 ^ fixP / d) k else fixFV false (2 ^ (2 * fixP) / d) 0
  | y => y

/-- The six functions by FN (R138): pattern and flags, under RNE whatever RMODE holds. -/
def special (fn f x : Nat) : Nat × Nat :=
  let a := decodeFP f x
  match a with
  | .nan s => (canonNaN f, if s then fNV else 0)
  | _ =>
    match fn with
    | 0 => fpDo f 0 (exp2FV a, 0)
    | 1 => fpDo f 0 (log2FV a)
    | 2 => fpDo f 0 (divFV (.fin false 1 0 false) a)
    | 3 => fpDo f 0 (rsqrtFV a)
    | 4 => fpDo f 0 (tanhFV a, 0)
    | _ => fpDo f 0 (sigmFV a, 0)

end Sys2Proof.Machine
end

