-- ==== Sys2Proof/Machine/VCore.lean ====
section
/-! DEFINITION. The vector unit: operands, element groups, tails, rays as operands, memory elements
(07 R111 to R116, 08 R123 to R125, 09 R149 to R161, 11 R189 to R191, 22 R344). -/
namespace Sys2Proof.Machine

/-- What an instruction captured at issue (R109, R150), and where it runs. -/
structure Env where
  h : HartId
  pc : Word
  enc : Nat
  lanes : Nat
  vt : Nat
  vl : Nat
  rm : Nat
  g : List Word
  thread : Thread
  /-- Elements of the index group, read before any destination element is written (R117). -/
  idx : List Nat := []
  /-- The open region of the stream holds for this instruction: it stands before the label (R154). -/
  region : Bool := true
  /-- The strips it has taken: ray, first element, elements (R189, R190). -/
  strips : List (Fin 8 × Nat × Nat) := []
  deriving Repr

def Env.ew (e : Env) : Nat := vtEw e.vt
def Env.ew2 (e : Env) : Nat := vtEw2 e.vt
def Env.w (e : Env) : Nat := fmtWidth e.ew
def Env.w2 (e : Env) : Nat := fmtWidth e.ew2
def Env.G (e : Env) : Nat := vtG e.vt
def Env.fix (e : Env) : Nat := e.rm % 4
def Env.fp (e : Env) : Nat := e.rm / 4 % 8
def Env.gv (e : Env) (i : Nat) : Word := e.g.getD i 0
def Env.vlmax (e : Env) : Nat := vlMax e.lanes e.vt
/-- Registers that a group of VLMAX elements of width w occupies (R106). -/
def Env.regs (e : Env) (w : Nat) : Nat := max 1 (e.G * w / e.w)
def Env.who (s : State) (e : Env) : Who := whoV s e.h
def Env.ill {α : Type} (e : Env) : M α := trap 0x01 e.enc

/-- One write of an element or of a mask bit; `elem` is the element's index. -/
structure Wr where
  cls : RegClass
  reg : Nat
  bit : Nat
  width : Nat
  val : Nat
  elem : Nat := 0
  deriving Repr
/-- Index i of the index group. -/
def Env.ix (e : Env) (i : Nat) : Nat := e.idx.getD i 0

/-- A destination: a group of n registers at width w, or a mask register. -/
inductive Dst
  | v (reg w n : Nat)
  | m (reg : Nat)
  deriving Repr

/-- A vector source: first register, format, registers. -/
structure Src where
  reg : Nat
  fmt : Nat
  n : Nat
  deriving Repr

/-- What a vector instruction does.  `elem` is an element-wise effect, one element at a time, answering the writes
that are made when its group completes and the flags; `mem` names the
width of an element, its fields by address and register group, and for a store the value and flags of a field;
elements are performed in ascending order; `range` acts on the elements from its second number to before its third, of an
instruction that began at its first, and answers the VL that then holds; `whole` acts across elements
and is never split. -/
inductive VKind
  | elem (act : Env → Nat → M (List Wr × Nat))
  | mem (store : Bool) (bits : Env → Nat) (fields : Env → Nat → List (Nat × Nat)) (data : Env → Nat → Nat → M (Nat × Nat))
  | range (act : Env → Nat → Nat → Nat → M Nat)
  | whole (act : Env → M Unit)

/-- A vector instruction with its operands. -/
structure VOp where
  /-- Functional unit of R84: 0 load, 1 store, 2 integer ALU, 3 multiplier, 4 FP, 5 special, 6 permute, 7 matrix. -/
  unit : Nat
  ctlOnly : Bool := false
  gops : List GReg := []
  mask : Option MReg := none
  /-- Every element is active whatever the mask (R128, R134, R135). -/
  every : Bool := false
  /-- Widest width read or written (R106). -/
  wide : Env → Nat := Env.w
  check : Env → Bool := fun _ => true
  srcs : Env → List Src := fun _ => []
  /-- Registers that may not be rays: index vectors and B operands (R191). -/
  noRay : Env → List Src := fun _ => []
  dsts : Env → List Dst := fun _ => []
  /-- The index group, whose elements count bytes or elements (R113, R142). -/
  index : Env → Option Src := fun _ => none
  /-- Any overlap of a destination and a source is allowed (R124, R117). -/
  overlap : Bool := false
  /-- The format of the destination as a store ray takes it (R191). -/
  rayFmt : State → Env → Nat := fun _ e => e.ew
  /-- What the control thread changes at issue beside the queue (R172). -/
  onIssue : Env → State → State := fun _ s => s
  /-- VSI is neither read nor changed (R174). -/
  keepVsi : Bool := false
  /-- Further checks at issue, with their own TVAL (R174, R179, R180). -/
  atIssue : Env → Option Trap := fun _ => none
  /-- VSI is ignored (R120, R135, R142). -/
  noVsi : Bool := false
  /-- Elements are performed in ascending order everywhere (R55: `vstxo`). -/
  ordered : Bool := false
  /-- VL may be cut when it completes (R109: `vldff`). -/
  trims : Bool := false
  /-- The control thread waits for the result: a g register or VL is written (R109, R126). -/
  wait : Bool := false
  /-- No tail is written and marks only grow (R204: `vmvgs`). -/
  noTail : Bool := false
  kind : VKind

/-! Elements of registers (R344). -/

def perReg (lanes w : Nat) : Nat := lanes * 256 / w
def elemReg (lanes w i : Nat) : Nat := i / max 1 (perReg lanes w)
def elemBit (lanes w i : Nat) : Nat := i % max 1 lanes * 256 + i % max 1 (perReg lanes w) / max 1 lanes * w
def vreg (s : State) (h : HartId) (r : Nat) : Nat := ((s.hart h).live.v[r % 32]!).toNat
def readElem (s : State) (h : HartId) (lanes reg w i : Nat) : Nat :=
  bitsOf (vreg s h (reg + elemReg lanes w i)) (elemBit lanes w i + w - 1) (elemBit lanes w i)
def elemPoisoned (s : State) (h : HartId) (lanes reg w i : Nat) : Bool :=
  bitsOf ((s.hart h).live.vPois[(reg + elemReg lanes w i) % 32]!).toNat (elemBit lanes w i + w - 1) (elemBit lanes w i) != 0
def maskBit (s : State) (h : HartId) (m i : Nat) : Bool := ((s.hart h).c.m[m % 8]!).toNat / 2 ^ i % 2 == 1

/-! Rays. -/

def rayTrap {α : Type} (reg reason : Nat) (telem : Nat := 0) : M α := trap 0x09 (reg + 256 * reason) telem

/-- The index at which the engine faulted. -/
def rayErrAt (s : State) (h : HartId) (r : Fin 8) : Nat := rayW s h r 6 / 256 % 2 ^ 32

/-- The engine records a fault of a ray, in the ray's entry (R191, R192) and in its own page (R200). -/
def rayFault (s : State) (h : HartId) (r : Fin 8) (cause addr idx : Nat) : State :=
  engineNote (setRayW (setRayW (setRayW s h r 0 (putBits (rayW s h r 0) 31 24 7)) h r 5 addr) h r 6 (cause + 256 * (idx % 2 ^ 32)))
    (4 * (tileOf h).val) cause addr

/-- One element moved between the stream and the ring, in the direction of the ray, after what the hart's V agent has stored
(R185, R194). -/
def rayMove (h : HartId) (r : Fin 8) (x : Nat) : M Unit := do
  modify fun s => performHart s h
  let s ← get
  let w := rayWho s h
  let n := rayBytes s h r
  if rayDir s h r then
    let v ← loadV w (ringElem s h r x) n
    storeV w (rayElem s h r x) n v
  else
    let v ← loadV w (rayElem s h r x) n
    storeV w (ringElem s h r x) n v

/-- The ray's completion future is resolved; event 0x102 follows a resolution, 0x101 a failed drain (R187, R191). -/
def rayDone (s : State) (h : HartId) (r : Fin 8) (ok : Bool) : State :=
  let d := BitVec.ofNat 64 (rayD s h r 6)
  let (s', c) := if d = 0 then (s, none) else resolveBy s (issuer s h) (tileOf h) d ok
  let s' := match c with | some k => engineNote s' (4 * (tileOf h).val) k d.toNat | none => s'
  if !ok then raiseEvent s' h 0 d
  else if d ≠ 0 && c.isNone then raiseEvent s' h 1 d
  else s'

/-- The engine works until it has moved elements below `upto` (R194); a fault is recorded in the entry. -/
def rayAdvance (h : HartId) (r : Fin 8) (upto : Nat) : Nat → State → State
  | 0, s => s
  | n + 1, s =>
    let x := rayEng s h r
    if upto ≤ x ∨ rayErr s h r ≠ 0 then s
    else match (rayMove h r x).run.run s with
      | (.ok _, s') => rayAdvance h r upto n (setRayW s' h r 3 (x + 1))
      | (.error t, s') =>
        let s' := rayFault s' h r t.cause t.tval.toNat x
        if rayDir s' h r then rayDone s' h r false else s'

/-- The strip of ray r is held by this very instruction, which goes on with it (R189, R190). -/
def rayResumed (s : State) (e : Env) (r : Fin 8) : Bool := rayHeld s e.h r && rayW s e.h r 4 == e.pc.toNat
/-- A strip that another instruction held counts as consumed (R189). -/
def rayAbandon (s : State) (e : Env) (r : Fin 8) : State :=
  if rayResumed s e r then s else setRayW s e.h r 0 (putBits (rayW s e.h r 0) 16 16 0)

/-- The strip of load ray r that an instruction with the VL in force will pop, or goes on with: its length (R189). -/
def rayPlan (e : Env) (r : Fin 8) (vl grp : Nat) : M Nat := do
  let s ← get
  let h := e.h
  let reg := rayReg s h r
  if rayResumed s e r then return rayHeldN s h r
  set (rayAbandon s e r)
  let pos := rayPos s h r
  let left := rayCount s h r - pos
  if left = 0 then rayTrap reg 1
  let n := min vl left
  if rayRing s h r < n * rayBytes s h r then rayTrap reg 8
  if rayTrim s h r then
    modify (rayAdvance h r (pos + min n grp) (rayRoom s h r + 1))
    let s ← get
    if rayErr s h r ≠ 0 && rayEng s h r < pos + min n grp then rayTrap reg 7 (rayErrAt s h r - pos)
    return min n (rayEng s h r - pos)
  return n

/-- Store ray r takes a strip of vl elements: within COUNT and the ring, and no restore error stands (R190, R192). -/
def rayFits (e : Env) (r : Fin 8) (vl : Nat) : M Unit := do
  let s ← get
  let h := e.h
  let reg := rayReg s h r
  if rayErr s h r ≠ 0 && (s.hart h).rayRest.toNat / 2 ^ r.val % 2 = 1 then rayTrap reg 7 (rayErrAt s h r - rayPos s h r)
  if !rayResumed s e r then
    set (rayAbandon s e r)
    if rayCount s h r < rayPos s h r + vl then rayTrap reg 6
    if rayRing s h r < vl * rayBytes s h r then rayTrap reg 8

/-- The strip of n elements is popped or reserved, and held by the instruction (R189, R190). -/
def rayTake (e : Env) (r : Fin 8) (n : Nat) (s : State) : State :=
  let h := e.h
  if rayResumed s e r then s
  else
    setRayW (setRayW (setRayW s h r 2 ((rayPos s h r + n) % 2 ^ 32 + 2 ^ 32 * n)) h r 0 (putBits (rayW s h r 0) 16 16 1)) h r 4 e.pc.toNat

/-- The strip of ray r that an instruction works on: its own, though another member of its convoy has taken a later one. -/
def Env.strip (e : Env) (s : State) (r : Fin 8) : Nat × Nat :=
  match e.strips.find? fun p => p.1 == r with
  | some p => p.2
  | none => (rayPos s e.h r - rayHeldN s e.h r, rayHeldN s e.h r)

/-- Elements of the strip below hi have landed before the group that starts at lo is performed; where the engine has
faulted at or before one of them, or cannot work since a restore, the instruction faults (R189, R191, R192). -/
def rayLand (e : Env) (r : Fin 8) (hi : Nat) : M Unit := do
  let s ← get
  let h := e.h
  let (first, n) := e.strip s r
  modify (rayAdvance h r (first + min n hi) (rayRoom s h r + 1))
  let s ← get
  let rest := (s.hart h).rayRest.toNat / 2 ^ r.val % 2 = 1
  if rayErr s h r ≠ 0 && (rest || rayErrAt s h r < first + min n hi) then rayTrap (rayReg s h r) 7 (rayErrAt s h r - first)

/-- The part of the ring for elements below hi of a strip that is appended is free once what stood there is drained; behind a
drain that has faulted the group waits (R190). -/
def rayFree (e : Env) (r : Fin 8) (hi : Nat) : M Unit := do
  let s ← get
  let (first, n) := e.strip s r
  modify (rayAdvance e.h r first (rayRoom s e.h r + 1))
  let s ← get
  if rayEng s e.h r + rayRoom s e.h r < first + min n hi then throw { cause := waits, tval := 0 }

/-- For the rays among the operands, what elements below hi need. -/
def landAll (e : Env) (op : VOp) (hi : Nat) : M Unit := do
  for x in op.srcs e do
    match rayOf ((← get).hart e.h).c x.reg with
    | some r => rayLand e r hi
    | none => pure ()
  for d in op.dsts e do
    match d with
    | .v reg _ _ => (match rayOf ((← get).hart e.h).c reg with
      | some r => rayFree e r hi
      | none => pure ())
    | .m _ => pure ()

/-- The strip of each ray the instruction held is released or becomes drainable. -/
def rayRelease (s : State) (e : Env) : State :=
  (List.finRange 8).foldl (fun s r =>
    if rayW s e.h r 0 % 2 = 1 ∧ rayHeld s e.h r ∧ rayW s e.h r 4 = e.pc.toNat then setRayW s e.h r 0 (putBits (rayW s e.h r 0) 16 16 0) else s) s

/-- The rays that a group of n registers from reg covers, with the place of each in the group. -/
def raysIn (s : State) (h : HartId) (reg n : Nat) : List (Nat × Fin 8) :=
  (List.range n).filterMap fun i => (rayOf (s.hart h).c (reg + i)).map fun r => (i, r)

/-- The ray whose register starts the group, after R191's checks of how a group may meet bound registers. -/
def rayAt (e : Env) (x : Src) (write : Bool) : M (Option (Fin 8)) := do
  let s ← get
  let rs := raysIn s e.h x.reg x.n
  match rs.find? fun p => p.1 != 0 with
  | some (_, r) => rayTrap (rayReg s e.h r) 4
  | none => pure ()
  match rs with
  | [] => return none
  | (_, r) :: _ =>
    let reg := rayReg s e.h r
    if (match e.thread with | .vp _ => true | _ => false) then rayTrap reg 5
    if rayTrim s e.h r && e.thread != .control then rayTrap reg 5
    if rayDir s e.h r != write then rayTrap reg 2
    if rayEw s e.h r ≠ x.fmt then rayTrap reg 3
    return some r

/-- A computation whose faults are those of element i. -/
def atElem {α : Type} (i : Nat) (m : M α) : M α := do
  match m.run.run (← get) with
  | (.ok a, s) => set s; return a
  | (.error t, s) => set s; throw { t with telem := i }

/-- Source element i: from the strip of a ray, by the V agent (R51), or the register; a poisoned element is a fault
(R125).  An element that the strip does not hold reads 0 (R189); DESIGN CHOICE: for the A operand of `mma` too (log 75). -/
def srcElem (e : Env) (reg fmt i : Nat) : M Nat := do
  let s ← get
  let w := fmtWidth fmt
  match rayOf (s.hart e.h).c reg with
  | some r =>
    let (first, n) := e.strip s r
    if n ≤ i then return 0
    atElem i (loadV (e.who s) (ringElem s e.h r (first + i)) (w / 8))
  | none =>
    let j := (reg + elemReg e.lanes w i) % 32
    if elemPoisoned s e.h e.lanes reg w i then poisonTrap .vector j (elemBit e.lanes w i) w j i
    return readElem s e.h e.lanes reg w i

/-- The write of element i of a group. -/
def wrElem (e : Env) (reg w i v : Nat) : Wr := ⟨.vector, reg + elemReg e.lanes w i, elemBit e.lanes w i, w, v % 2 ^ w, i⟩
def wrMask (reg i : Nat) (b : Bool) : Wr := ⟨.mask, reg, i, 1, b.toNat, i⟩

/-- One write done, its poison cleared, and remembered for a threaded VP (R161, R219). -/
def applyWr (e : Env) (s : State) (x : Wr) : State :=
  let hi := x.bit + x.width - 1
  s.onHart e.h fun a =>
    let (old, pois, a) : Nat × Nat × Hart := match x.cls with
      | .vector =>
        let r : Fin 32 := Fin.ofNat 32 x.reg
        (bitsOf a.live.v[r].toNat hi x.bit, bitsOf a.live.vPois[r].toNat hi x.bit,
         { a with live := { a.live with
            v := a.live.v.set r (BitVec.ofNat 8192 (putBits a.live.v[r].toNat hi x.bit x.val))
            vPois := a.live.vPois.set r (BitVec.ofNat 8192 (putBits a.live.vPois[r].toNat hi x.bit 0)) } })
      | .mask =>
        let r : Fin 8 := Fin.ofNat 8 x.reg
        (bitsOf a.c.m[r].toNat hi x.bit, bitsOf a.c.mPois[r].toNat hi x.bit,
         { a with c := { a.c with
            m := a.c.m.set r (BitVec.ofNat 4096 (putBits a.c.m[r].toNat hi x.bit x.val))
            mPois := a.c.mPois.set r (BitVec.ofNat 4096 (putBits a.c.mPois[r].toNat hi x.bit 0)) } })
      | .scale =>
        let r : Fin 8 := Fin.ofNat 8 x.reg
        (0, 0, { a with c := { a.c with
            k := a.c.k.set r (BitVec.ofNat 4096 (putBits a.c.k[r].toNat hi x.bit x.val))
            kPois := a.c.kPois.set r (BitVec.ofNat 4096 (putBits a.c.kPois[r].toNat hi x.bit 0)) } })
      | .accumulator => (0, 0, a)
    match e.thread with
    | .vp i =>
      let u : Undo := ⟨x.cls, Fin.ofNat 32 x.reg, x.bit, x.width, old, pois⟩
      { a with live := { a.live with tvps := a.live.tvps.map fun t => if t.vp = i then { t with undo := u :: t.undo } else t } }
    | _ => a

/-- Element i is one that the instruction may act on, its mask apart (R149, R154). -/
def liveAt (s : State) (e : Env) (i : Nat) : Bool :=
  let x := s.hart e.h
  decide (i < e.vl) && (match e.thread with
    | .control => true
    | .stream => x.live.inStream.toNat / 2 ^ i % 2 == 1 &&
        (!e.region || x.c.region.toNat / 8 % 2 == 0 || maskBit s e.h (x.c.region.toNat % 8) i)
    | .vp k => k.val == i)

/-- Element i is active (R79, R111). -/
def activeAt (s : State) (e : Env) (op : VOp) (i : Nat) : Bool :=
  liveAt s e i && (op.every || (match op.mask with | some m => maskBit s e.h m.val i | none => true))

/-- The mask of the open region that holds for the instruction (R154). -/
def regionMask (s : State) (e : Env) : Option Nat :=
  let x := (s.hart e.h).c.region.toNat
  if e.thread == .stream && e.region && x / 8 % 2 == 1 then some (x % 8) else none
/-- The mask whose poisoned bit decides element i: of the open region, or the instruction's own (R125, R154, R219). -/
def maskPoison (s : State) (e : Env) (op : VOp) (i : Nat) : Option Nat :=
  let at_ (m : Nat) : Bool := ((s.hart e.h).c.mPois[m % 8]!).toNat / 2 ^ i % 2 == 1
  let here := decide (i < e.vl) && (match e.thread with
    | .stream => (s.hart e.h).live.inStream.toNat / 2 ^ i % 2 == 1
    | .control => true
    | .vp k => k.val == i)
  match (if here then regionMask s e else none) with
  | some m => if at_ m then some m else (op.mask.map (·.val)).filter fun m => liveAt s e i && at_ m
  | none => (op.mask.map (·.val)).filter fun m => liveAt s e i && at_ m

/-! High-water marks and tails (R111, R204). -/

/-- b of R204 for register q of a group. -/
def markOf (lanes w vl q : Nat) : Nat :=
  let p := perReg lanes w
  let n := min p (vl - q * p)
  ((n + lanes - 1) / max 1 lanes * w + 7) / 8

def marks (e : Env) (grow : Bool) (s : State) : Dst → State
  | .m _ => s
  | .v reg w n =>
    -- a group that starts at a ray writes none of its registers, and a ray holds no value (R183)
    if (rayOf (s.hart e.h).c reg).isSome then s
    else (List.range n).foldl (fun s q =>
      let j := (reg + q) % 32
      let b := markOf e.lanes w e.vl q
      if (rayOf (s.hart e.h).c j).isSome then s
      else s.onCtx e.h fun c => { c with
        hw := c.hw.set! j (BitVec.ofNat 16 (if grow then max (c.hw[j]!).toNat b else b))
        st := c.st.set 16 (c.st[16] ||| BitVec.ofNat 64 (2 ^ j)) }) s

/-- Elements VL and above become zero to the end of the group's registers; mask bits likewise (R111, R123).  DESIGN CHOICE: so too
where the group is longer than a VLMAX that is capped at 4,096 (log 74). -/
def tail (e : Env) (s : State) : Dst → State
  | .m reg => s.onCtx e.h fun c =>
      { c with m := c.m.set! (reg % 8) (BitVec.ofNat 4096 ((c.m[reg % 8]!).toNat % 2 ^ e.vl))
               mPois := c.mPois.set! (reg % 8) (BitVec.ofNat 4096 ((c.mPois[reg % 8]!).toNat % 2 ^ e.vl)) }
  | .v reg w n =>
    if (rayOf (s.hart e.h).c reg).isSome then s
    else (List.range (n * perReg e.lanes w - e.vl)).foldl (fun s i => applyWr e s (wrElem e reg w (e.vl + i) 0)) s

/-! Memory elements (R113 to R115). -/

/-- The checks of one element access, in the order of R99, but for poison and for what a control page itself refuses. -/
def vAddr (s : State) (w : Who) (acc : Acc) (va bits : Nat) : Except Trap Xl :=
  let n := max 1 (bits / 8)
  let no (c : Nat) : Except Trap Xl := .error { cause := c, tval := BitVec.ofNat 64 va }
  if va % n ≠ 0 then no 0x03
  else match xlate s w acc va with
    | .error t => .error t
    | .ok x =>
      if acc != .load && eKind x.leaf == 3 then no 0x05
      else if acc == .atomic then
        if x.region == .control || x.region == .device then no 0x0E
        else if x.region == .host then no 0x05 else .ok x
      else if eKind x.leaf == 1 && acc == .store && bits < 8 then no 0x05
      else if eKind x.leaf == 2 && bits ≠ 64 then no 0x0E
      else .ok x

/-- The A and D bits that an access sets which goes past the checks of R302 and R307, whether or not it then faults
(R303, R348). -/
def touchAt (w : Who) (acc : Acc) (n : Nat) (s : State) (va : Nat) : State :=
  if va % n ≠ 0 then s
  else match xlate s w acc va with
    | .ok x => if acc != .load && eKind x.leaf == 3 then s else touch s x (acc != .load)
    | .error _ => s

/-- One element loaded: for sub-byte formats the bits inside the byte (R113). -/
def vLoad (w : Who) (va bits sub : Nat) : M Nat := do
  let n := max 1 (bits / 8)
  let v ← loadV w va n
  return if bits < 8 then v / 2 ^ sub % 2 ^ bits else v

/-- One element stored; a sub-byte element is one merge at the byte's home (R113). -/
def vStore (w : Who) (va bits sub v : Nat) : M Unit := do
  if bits < 8 then
    let s ← get
    match xlate s w .store va with
    | .error t => throw t
    | .ok x =>
      set (touch s x true)
      if poisoned s x.pa 1 then trap 0x0B va
      modify fun s => vOrder s w true x.pa 1
      let old ← physRead { w with port := .eng } x.pa 1 (eKey x.leaf)
      physWrite w false x.pa 1 (putBits old (sub + bits - 1) sub v) (eKey x.leaf)
  else storeV w va (bits / 8) v

/-- The first failing address of an element's fields (R114, R118). -/
def fieldFault (s : State) (w : Who) (store : Bool) (bits i : Nat) : List (Nat × Nat) → Option Trap
  | [] => none
  | (va, _) :: r =>
    match vAddr s w (if store then .store else .load) va bits with
    | .error t => some { t with telem := i }
    | .ok _ => fieldFault s w store bits i r

/-- KIND of the entry at which the walk for va ends, valid or not (R115; log 30). -/
def endKind (s : State) (w : Who) (va : Nat) : List Nat → Nat → Nat
  | [], _ => 0
  | lvl :: rest, t =>
    let e := readEntry s w va (t + 8 * vaIndex va lvl)
    if eV e && eN e && !malformed s e lvl then endKind s w va rest (eFrame e) else eKind e

/-- Elements at va are performed in ascending order, and restart is per element there: a control page or a host-shared
page (R55, R115). -/
def orderedAt (s : State) (e : Env) (va : Nat) : Bool :=
  let k := endKind s (e.who s) va [0, 1, 2, 3] (e.who s).iss.space
  va < 2 ^ 52 && (k == 1 || k == 2)

/-- Bit position of a sub-byte element in its byte (R24). -/
def subBit (w i : Nat) : Nat := if w < 8 then i * w % 8 else 0

/-- The value of a field that is stored.  Where it is poisoned, a fault of the address that does not depend on the value goes
before that (R114). -/
def fieldData (w : Who) (va bits sub : Nat) (m : M (Nat × Nat)) : M (Nat × Nat) := do
  let s ← get
  match m.run.run s with
  | (.ok r, s') => set s'; return r
  | (.error t, s') =>
    set s'
    match (vStore w va bits sub 0).run.run s, (vStore w va bits sub (2 ^ bits - 1)).run.run s with
    | (.error u, _), (.error _, _) => throw (if t.cause = 0x0B then u else t)
    | _, _ => throw t

/-- One memory element performed, after the checks of all its fields' addresses: the writes of a load, and flags.  What a
control page refuses and what the host or a peer answers with an error is found in performing it.  In facet code it is an
access of its VP (R159). -/
def memElem (e : Env) (op : VOp) (store : Bool) (bits : Nat) (fields : Env → Nat → List (Nat × Nat))
    (data : Env → Nat → Nat → M (Nat × Nat)) (i : Nat) : M (List Wr × Nat) := atElem i do
  let w := { e.who (← get) with vp := if e.thread == .control then none else some i }
  match fieldFault (← get) w store bits i (fields e i) with
  | some t => throw t
  | none => pure ()
  let mut out : List Wr := []
  let mut fl := 0
  for (va, f) in fields e i do
    if store then
      let (v, g) ← fieldData w va bits (subBit bits i) (data e i f)
      vStore w va bits (subBit bits i) v
      fl := fl ||| g
    else
      let v ← vLoad w va bits (subBit bits i)
      match (op.dsts e)[f]? with
      | some (Dst.v r _ _) => out := out ++ [wrElem e r bits i v]
      | _ => pure ()
  return (out, fl)

/-- Element i goes to the ring of each destination that is a store ray, zero where it has no result; the writes of the
other destinations remain (R183, R190). -/
def rayResult (e : Env) (i : Nat) : List Dst → List Wr → M (List Wr)
  | [], ws => pure ws
  | .m _ :: r, ws => rayResult e i r ws
  | .v reg w n :: r, ws => do
    let s ← get
    match rayOf (s.hart e.h).c reg with
    | none => rayResult e i r ws
    | some k =>
      let mine (x : Wr) : Bool := x.cls == .vector && reg ≤ x.reg && x.reg < reg + n
      let v := ((ws.find? mine).map (·.val)).getD 0
      atElem i (storeV (e.who s) (ringElem s e.h k ((e.strip s k).1 + i)) (w / 8) v)
      rayResult e i r (ws.filter fun x => !mine x)

/-- What element i of an instruction does (R111, R125): nothing where it is masked off. -/
def elemAct (e : Env) (op : VOp) (act : Nat → M (List Wr × Nat)) (i : Nat) : M (List Wr × Nat) := do
  let s ← get
  match maskPoison s e op i with
  | some m => poisonTrap .mask m i 1 m i
  | none => pure ()
  if activeAt s e op i then
    match op.index e with
    | some x =>
      let w := fmtWidth x.fmt
      let j := (x.reg + elemReg e.lanes w i) % 32
      if elemPoisoned s e.h e.lanes x.reg w i then poisonTrap .vector j (elemBit e.lanes w i) w j i
    | none => pure ()
    act i
  else return ([], 0)

/-- The elements of one group, collected: writes and flags (R125).  The lowest address fault goes before the lowest
poisoned element (R114). -/
def groupActs (e : Env) (op : VOp) (act : Nat → M (List Wr × Nat)) (pois : Option Trap) : List Nat → M (List (List Wr) × Nat)
  | [] => match pois with
    | some t => throw t
    | none => pure ([], 0)
  | i :: r => do
    let s ← get
    match (elemAct e op act i).run.run s with
    | (.ok (ws, f), s) =>
      set s
      let (ws', f') ← groupActs e op act pois r
      return (ws :: ws', f ||| f')
    | (.error t, s') =>
      if t.cause = 0x0B then groupActs e op act (pois.or (some t)) r
      else set s'; throw t

/-- Group size E (R106). -/
def groupSize (e : Env) (op : VOp) : Nat := max 1 (e.lanes * 64 / max 1 (op.wide e))

/-- The writes of elements, which raise the marks of their groups to the instruction's VL; no write raises none (R204). -/
def written (e : Env) (op : VOp) (ws : List Wr) (s : State) : State :=
  let s := ws.foldl (applyWr e) s
  if ws.isEmpty then s else (op.dsts e).foldl (marks e true) s

/-- The results of elements go to rings and registers, and their flags to XFLAGS. -/
def commit (e : Env) (op : VOp) (is : List Nat) (r : List (List Wr) × Nat) : M Unit := do
  let ws ← (is.zip r.1).mapM fun p => rayResult e p.1 (op.dsts e) p.2
  modify fun s => (written e op ws.flatten s).orFlags e.h r.2

/-- The elements of a faulting group that were performed (R55, R115): of the elements below it a free choice, of those that
are performed in ascending order a free beginning; of `per` elements that share a byte, which is merged as one, all or none
(R113).  DESIGN CHOICE: no element above it, and none of a later group, has been performed (log 21). -/
def performSome (e : Env) (op : VOp) (act : Nat → M (List Wr × Nat)) (order : Nat → Bool) (per f : Nat) (going : Bool) : List Nat → State → State
  | [], s => s
  | i :: r, s =>
    let go := Config.groupStored s.now (i / per * per) && i / per != f / per && (going || !order i)
    if go then
      match (elemAct e op act i).run.run s with
      | (.ok _, s') => performSome e op act order per f going r s'
      | (.error _, _) => s
    else performSome e op act order per f (going && !order i) r s

/-- The elements below a faulting one that restarts by itself are performed, once: answers VSI (R115).  DESIGN CHOICE: where one
of them is poisoned, it and those above it are not performed, and VSI is that one (log 21). -/
def performBelow (e : Env) (op : VOp) (act : Nat → M (List Wr × Nat)) (f : Nat) : List Nat → M Nat
  | [] => return f
  | i :: r => do
    match (do commit e op [i] (← groupActs e op act none [i]) : M Unit).run.run (← get) with
    | (.ok _, s) => set s; performBelow e op act f r
    | (.error _, _) => return i

/-- One group from element lo up to hi (R115, R125). -/
def runGroup (e : Env) (op : VOp) (lo hi : Nat) : M Unit := do
  let is := (List.range (hi - lo)).map (lo + ·)
  let j := lo / groupSize e op * groupSize e op
  let back {α : Type} (t : Trap) (v : Nat) : M α := do
    if t.cause ≠ waits then modify fun s => if (match e.thread with | .vp _ => true | _ => false) then s else s.setSt e.h 2 (BitVec.ofNat 64 v)
    throw t
  let run (m : M Unit) (fault : Trap → State → M Unit) : M Unit := do
    match m.run.run (← get) with
    | (.ok _, s) => set s
    | (.error t, s) => fault t s
  run (landAll e op hi) fun t s => do set s; back t j
  match op.kind with
  | .elem act => run (do commit e op is (← groupActs e op (act e) none is)) fun t s => do set s; back t j
  | .mem store bits fields data =>
    let act := memElem e op store (bits e) fields data
    let s0 ← get
    run (do commit e op is (← groupActs e op act none is)) fun t s => do
      -- the group's accesses are taken back, but for the A and D bits that their walks have set
      let acc := if store then .store else .load
      let s := (is.filter (· ≤ t.telem)).foldl (fun s i =>
        if activeAt s e op i then ((fields e i).map (·.1)).foldl (touchAt (e.who s) acc (max 1 (bits e / 8))) s else s)
        { s0 with outsideErr := s.outsideErr }
      let below := is.filter (· < t.telem)
      let order (i : Nat) : Bool := (fields e i).any fun f => orderedAt s e f.1
      if order t.telem then
        set s
        back t (← performBelow e op act t.telem below)
      else
        set (if store then performSome e op act (fun i => op.ordered || order i) (max 1 (8 / max 1 (bits e))) t.telem true below s else s)
        back t j
  | _ => pure ()

/-- What a vector instruction's start checks and takes (R189 to R191): the VL that it runs with.  Every check of R191 is made
before a strip is popped or reserved. -/
def beginOp (e : Env) (op : VOp) : M Env := do
  for x in op.noRay e ++ (op.index e).toList do
    let s ← get
    match raysIn s e.h x.reg x.n with
    | (_, r) :: _ => rayTrap (rayReg s e.h r) 4
    | [] => pure ()
  let mut loads : List (Fin 8) := []
  for x in op.srcs e do
    match ← rayAt e x false with
    | some r => if !loads.contains r then loads := loads ++ [r]
    | none => pure ()
  let mut stores : List (Fin 8) := []
  for d in op.dsts e do
    match d with
    | .v reg _ n =>
      match ← rayAt e ⟨reg, op.rayFmt (← get) e, n⟩ true with
      | some r => stores := stores ++ [r]
      | none => pure ()
    | .m _ => pure ()
  let mut vl := e.vl
  let mut plan : List (Fin 8 × Nat) := []
  for r in loads do
    let n ← rayPlan e r vl (groupSize e op)
    plan := plan ++ [(r, n)]
    if e.thread == .control then vl := min vl n
  for r in stores do rayFits e r vl
  for p in plan ++ stores.map (fun r => (r, vl)) do modify (rayTake e p.1 p.2)
  if vl < e.vl then modify fun s => s.setSt e.h 0 (BitVec.ofNat 64 vl)
  let s ← get
  return { e with vl := vl, strips := (loads ++ stores).map fun r => (r, rayPos s e.h r - rayHeldN s e.h r, rayHeldN s e.h r) }

/-- The index group as it stands (R117). -/
def withIndex (s : State) (e : Env) (op : VOp) : Env :=
  match op.index e with
  | some x => { e with idx := (List.range e.vl).map fun i => readElem s e.h e.lanes x.reg (fmtWidth x.fmt) i }
  | none => e

/-- Tail and marks at the end of an instruction. -/
def endTail (e : Env) (op : VOp) (s : State) : State :=
  match e.thread with
  | .vp _ => s
  | _ =>
    let s := if op.noTail then s else (op.dsts e).foldl (tail e) s
    if op.noTail then s else (op.dsts e).foldl (marks e false) s

/-- The end of an instruction: tail, marks, VSI, rays. -/
def endOp (e : Env) (op : VOp) : M Unit := modify fun s =>
  match e.thread with
  | .vp _ => s
  | _ =>
    let s := (rayRelease (endTail e op s) e).onLive e.h fun l => { l with vstore := 0 }
    if op.keepVsi then s else s.setSt e.h 2 0

/-- The groups of elements lo to hi − 1, one after another. -/
def runRange (e : Env) (op : VOp) (lo hi : Nat) : Nat → M Unit
  | 0 => pure ()
  | n + 1 =>
    if hi ≤ lo then pure ()
    else do
      let g := groupSize e op
      let up := min hi ((lo / g + 1) * g)
      runGroup e op lo up
      runRange e op up hi n

/-- An instruction that acts across elements: all of it at once (R142). -/
def crosses (op : VOp) : Bool :=
  match op.kind with
  | .whole _ => true
  | .range _ => !op.trims
  | _ => false

/-- A load whose destination overlaps its index group reads every index first, so it is not split (R117). -/
def overlaps (a : Nat) (n : Nat) (b : Nat) (m : Nat) : Bool := decide (a < b + m) && decide (b < a + n)
def noSplit (e : Env) (op : VOp) : Bool :=
  match op.index e with
  | some x => (op.dsts e).any fun d => match d with | .v r _ n => overlaps r n x.reg x.n | .m _ => false
  | none => false

/-- An instruction that acts across elements: every strip that it reads has landed first.  A fault of one that ignores VSI
leaves VSI at 0 (R120, R122, R142). -/
def runWhole (e : Env) (op : VOp) (act : Env → M Unit) : M Unit := do
  match (do landAll e op e.vl; act e : M Unit).run.run (← get) with
  | (.ok _, s) => set s
  | (.error t, s) =>
    set (if op.keepVsi || t.cause = waits then s else s.setSt e.h 2 0)
    throw t

/-- The number of the store that member m of a convoy (0: an instruction alone) is, from its first group to its last
(R285; log 61). -/
def partStore (e : Env) (lo m : Nat) (s : State) : State :=
  match e.thread with
  | .vp _ => { s with storeNo := 4096 * s.now + 1 + m }
  | _ =>
    let s := if m = 0 ∧ (lo = 0 ∨ (s.hart e.h).live.vstore = 0) then s.onLive e.h fun l => { l with vstore := 4096 * s.now + 1 } else s
    { s with storeNo := (s.hart e.h).live.vstore + m }

/-- The elements from lo to before hi of member m, an instruction that began at `start`, for a threaded VP its own element:
the VL that then holds for it. -/
def runPart (e : Env) (op : VOp) (start lo hi m : Nat) : M Nat := do
  modify (partStore e lo m)
  let s ← get
  let e := if noSplit e op && !e.idx.isEmpty then e else withIndex s e op
  -- an instruction that acts across elements is a join point (R158)
  if crosses op then modify fun s => joinV s e.h
  match op.kind, e.thread with
  | .whole act, _ => runWhole e op act; return e.vl
  | .range act, _ => landAll e op (min hi e.vl); act e start lo (min hi e.vl)
  | _, .vp i => runGroup e op i.val (i.val + 1); return e.vl
  | _, _ => runRange e op lo (min hi e.vl) 4096; return e.vl

/-- Part of an instruction: for a threaded VP its element, else the group at VSI, or with `all` the rest.  True
when it has completed. -/
def stepOp (e : Env) (op : VOp) (all : Bool) : M Bool := do
  let e ← beginOp e op
  let s ← get
  let vsi := if op.noVsi then 0 else (s.hart e.h).c.vsi
  let n := groupSize e op
  let split := match op.kind with
    | .elem _ | .mem _ _ _ _ => !(all || op.noVsi || noSplit e op)
    | _ => false
  let hi := if split then min e.vl ((vsi / n + 1) * n) else e.vl
  let vl ← runPart e op vsi vsi hi 0
  if split && hi < e.vl then
    modify fun s => match e.thread with
      | .vp _ => s
      | _ => s.setSt e.h 2 (BitVec.ofNat 64 hi)
    return match e.thread with | .vp _ => true | _ => false
  endOp { e with vl := vl } op
  return true

end Sys2Proof.Machine
end

