-- ==== Sys2Proof/Machine/VArith.lean ====
section
/-! DEFINITION. What the element-wise vector instructions compute, and the mask operations (08 R123 to R141).  One
definition per instruction; how a vector instruction runs stands in VCore and VUnit. -/
namespace Sys2Proof.Machine

/-! Operands (R123). -/

def Env.src (e : Env) (r : VReg) : Src := ⟨r.val, e.ew, e.regs e.w⟩
/-- A group read at EW2 and G2. -/
def Env.src2 (e : Env) (r : VReg) : Src := ⟨r.val, e.ew2, e.regs e.w2⟩
def Env.dst (e : Env) (r : VReg) : Dst := .v r.val e.w (e.regs e.w)
def Env.el (e : Env) (r : VReg) (i : Nat) : M Nat := srcElem e r.val e.ew i
def Env.el2 (e : Env) (r : VReg) (i : Nat) : M Nat := srcElem e r.val e.ew2 i

def intE (e : Env) : Bool := e.ew ≤ 5
/-- I8 to I64. -/
def fullE (e : Env) : Bool := e.ew ≤ 3
def wideE (e : Env) : Bool := isWide e.ew
def widest (e : Env) : Nat := max e.w e.w2

/-- The second operand of an integer instruction: a group, the low bits of a scalar, or an immediate (R123). -/
inductive Opnd
  | v (r : VReg)
  | g (r : GReg)
  | i (x : Int)

def Opnd.srcs (e : Env) : Opnd → List Src
  | .v r => [e.src r]
  | _ => []
def Opnd.gops : Opnd → List GReg
  | .g r => [r]
  | _ => []
def Opnd.el (e : Env) (i : Nat) : Opnd → M Nat
  | .v r => e.el r i
  | .g _ => pure ((e.gv 0).toNat % 2 ^ e.w)
  | .i x => pure (wrapTo e.w x)
/-- imm5 sign-extended, and zero-extended (R86). -/
def simm (i : Imm5) : Opnd := .i i.toInt
def zimm (i : Imm5) : Opnd := .i i.toNat

/-- Element-wise with a destination group at EW: f of the first operand and the second, no flag (R127). -/
def intOp (unit : Nat) (f : Nat → Nat → Nat → Nat) (d a : VReg) (b : Opnd) (m : Option MReg) : VOp where
  unit := unit
  mask := m
  check := intE
  gops := b.gops
  srcs := fun e => e.src a :: b.srcs e
  dsts := fun e => [e.dst d]
  kind := .elem fun e i => do
    let x ← e.el a i
    let y ← b.el e i
    return ([wrElem e d.val e.w i (f e.w x y)], 0)

/-- Two groups to one, with flags: f takes the environment and the patterns. -/
def vvOp (unit : Nat) (check : Env → Bool) (f : Env → Nat → Nat → Nat × Nat) (d a b : VReg) (m : Option MReg) : VOp where
  unit := unit
  mask := m
  check := check
  srcs := fun e => [e.src a, e.src b]
  dsts := fun e => [e.dst d]
  kind := .elem fun e i => do
    let x ← e.el a i
    let y ← e.el b i
    let (v, fl) := f e x y
    return ([wrElem e d.val e.w i v], fl)

/-- One group to one. -/
def vOp (unit : Nat) (check : Env → Bool) (f : Env → Nat → Nat × Nat) (d a : VReg) (m : Option MReg) : VOp where
  unit := unit
  mask := m
  check := check
  srcs := fun e => [e.src a]
  dsts := fun e => [e.dst d]
  kind := .elem fun e i => do
    let (v, fl) := f e (← e.el a i)
    return ([wrElem e d.val e.w i v], fl)

/-- A group read at EW2 to a group at EW. -/
def fromWide (unit : Nat) (check : Env → Bool) (f : Env → Nat → Nat → Nat × Nat) (d a : VReg) (m : Option MReg) : VOp where
  unit := unit
  mask := m
  wide := widest
  check := check
  srcs := fun e => [e.src2 a]
  dsts := fun e => [e.dst d]
  kind := .elem fun e i => do
    let (v, fl) := f e i (← e.el2 a i)
    return ([wrElem e d.val e.w i v], fl)

/-- Two groups to a mask bit. -/
def cmpOp (unit : Nat) (check : Env → Bool) (f : Env → Nat → Nat → Bool × Nat) (d : MReg) (a b : VReg) (m : Option MReg) : VOp where
  unit := unit
  mask := m
  check := check
  srcs := fun e => [e.src a, e.src b]
  dsts := fun _ => [.m d.val]
  kind := .elem fun e i => do
    let x ← e.el a i
    let y ← e.el b i
    let (v, fl) := f e x y
    return ([wrMask d.val i v], fl)

/-! VIA (R127, R128). -/

def sra (w a n : Nat) : Nat := wrapTo w (sgn w a / 2 ^ n)

def vaddF : Nat → Nat → Nat → Nat := fun _ a b => a + b
def vsubF : Nat → Nat → Nat → Nat := fun w a b => a + 2 ^ w - b
def vrsubF : Nat → Nat → Nat → Nat := fun w a b => b + 2 ^ w - a
def vandF : Nat → Nat → Nat → Nat := fun _ a b => a &&& b
def vorF : Nat → Nat → Nat → Nat := fun _ a b => a ||| b
def vxorF : Nat → Nat → Nat → Nat := fun _ a b => a ^^^ b
def vsllF : Nat → Nat → Nat → Nat := fun w a b => a * 2 ^ (b % w)
def vsrlF : Nat → Nat → Nat → Nat := fun w a b => a / 2 ^ (b % w)
def vsraF : Nat → Nat → Nat → Nat := fun w a b => sra w a (b % w)
def vminF : Nat → Nat → Nat → Nat := fun w a b => if sgn w b < sgn w a then b else a
def vmaxF : Nat → Nat → Nat → Nat := fun w a b => if sgn w a < sgn w b then b else a
def vminuF : Nat → Nat → Nat → Nat := fun _ a b => min a b
def vmaxuF : Nat → Nat → Nat → Nat := fun _ a b => max a b
def vmulF : Nat → Nat → Nat → Nat := fun _ a b => a * b
def vmulhF : Nat → Nat → Nat → Nat := fun w a b => wrapTo w (sgn w a * sgn w b / 2 ^ w)

/-- `vmerge`: every element, b where the mask bit is set (R128). -/
def mergeOp (d a : VReg) (b : Opnd) (m : MReg) : VOp where
  unit := 2
  mask := some m
  every := true
  check := intE
  gops := b.gops
  srcs := fun e => e.src a :: b.srcs e
  dsts := fun e => [e.dst d]
  kind := .elem fun e i => do
    let x ← e.el a i
    let y ← b.el e i
    return ([wrElem e d.val e.w i (if maskBit (← get) e.h m.val i then y else x)], 0)

def opVaddVv (d a : VReg) (b : VReg) (m : Option MReg) : VOp := intOp 2 vaddF d a (.v b) m
def opVsubVv (d a : VReg) (b : VReg) (m : Option MReg) : VOp := intOp 2 vsubF d a (.v b) m
def opVrsubVv (d a : VReg) (b : VReg) (m : Option MReg) : VOp := intOp 2 vrsubF d a (.v b) m
def opVandVv (d a : VReg) (b : VReg) (m : Option MReg) : VOp := intOp 2 vandF d a (.v b) m
def opVorVv (d a : VReg) (b : VReg) (m : Option MReg) : VOp := intOp 2 vorF d a (.v b) m
def opVxorVv (d a : VReg) (b : VReg) (m : Option MReg) : VOp := intOp 2 vxorF d a (.v b) m
def opVsllVv (d a : VReg) (b : VReg) (m : Option MReg) : VOp := intOp 2 vsllF d a (.v b) m
def opVsrlVv (d a : VReg) (b : VReg) (m : Option MReg) : VOp := intOp 2 vsrlF d a (.v b) m
def opVsraVv (d a : VReg) (b : VReg) (m : Option MReg) : VOp := intOp 2 vsraF d a (.v b) m
def opVminVv (d a : VReg) (b : VReg) (m : Option MReg) : VOp := intOp 2 vminF d a (.v b) m
def opVmaxVv (d a : VReg) (b : VReg) (m : Option MReg) : VOp := intOp 2 vmaxF d a (.v b) m
def opVminuVv (d a : VReg) (b : VReg) (m : Option MReg) : VOp := intOp 2 vminuF d a (.v b) m
def opVmaxuVv (d a : VReg) (b : VReg) (m : Option MReg) : VOp := intOp 2 vmaxuF d a (.v b) m
def opVmulVv (d a : VReg) (b : VReg) (m : Option MReg) : VOp := intOp 3 vmulF d a (.v b) m
def opVmulhVv (d a : VReg) (b : VReg) (m : Option MReg) : VOp := intOp 3 vmulhF d a (.v b) m
def opVmergeVv (d a : VReg) (b : VReg) (m : MReg) : VOp := mergeOp d a (.v b) m
def opVaddVx (d a : VReg) (b : GReg) (m : Option MReg) : VOp := intOp 2 vaddF d a (.g b) m
def opVsubVx (d a : VReg) (b : GReg) (m : Option MReg) : VOp := intOp 2 vsubF d a (.g b) m
def opVrsubVx (d a : VReg) (b : GReg) (m : Option MReg) : VOp := intOp 2 vrsubF d a (.g b) m
def opVandVx (d a : VReg) (b : GReg) (m : Option MReg) : VOp := intOp 2 vandF d a (.g b) m
def opVorVx (d a : VReg) (b : GReg) (m : Option MReg) : VOp := intOp 2 vorF d a (.g b) m
def opVxorVx (d a : VReg) (b : GReg) (m : Option MReg) : VOp := intOp 2 vxorF d a (.g b) m
def opVsllVx (d a : VReg) (b : GReg) (m : Option MReg) : VOp := intOp 2 vsllF d a (.g b) m
def opVsrlVx (d a : VReg) (b : GReg) (m : Option MReg) : VOp := intOp 2 vsrlF d a (.g b) m
def opVsraVx (d a : VReg) (b : GReg) (m : Option MReg) : VOp := intOp 2 vsraF d a (.g b) m
def opVminVx (d a : VReg) (b : GReg) (m : Option MReg) : VOp := intOp 2 vminF d a (.g b) m
def opVmaxVx (d a : VReg) (b : GReg) (m : Option MReg) : VOp := intOp 2 vmaxF d a (.g b) m
def opVminuVx (d a : VReg) (b : GReg) (m : Option MReg) : VOp := intOp 2 vminuF d a (.g b) m
def opVmaxuVx (d a : VReg) (b : GReg) (m : Option MReg) : VOp := intOp 2 vmaxuF d a (.g b) m
def opVmulVx (d a : VReg) (b : GReg) (m : Option MReg) : VOp := intOp 3 vmulF d a (.g b) m
def opVmulhVx (d a : VReg) (b : GReg) (m : Option MReg) : VOp := intOp 3 vmulhF d a (.g b) m
def opVmergeVx (d a : VReg) (b : GReg) (m : MReg) : VOp := mergeOp d a (.g b) m
def opVaddVi (d a : VReg) (i : Imm5) (m : Option MReg) : VOp := intOp 2 vaddF d a (simm i) m
def opVsubVi (d a : VReg) (i : Imm5) (m : Option MReg) : VOp := intOp 2 vsubF d a (simm i) m
def opVrsubVi (d a : VReg) (i : Imm5) (m : Option MReg) : VOp := intOp 2 vrsubF d a (simm i) m
def opVandVi (d a : VReg) (i : Imm5) (m : Option MReg) : VOp := intOp 2 vandF d a (simm i) m
def opVorVi (d a : VReg) (i : Imm5) (m : Option MReg) : VOp := intOp 2 vorF d a (simm i) m
def opVxorVi (d a : VReg) (i : Imm5) (m : Option MReg) : VOp := intOp 2 vxorF d a (simm i) m
def opVsllVi (d a : VReg) (i : Imm5) (m : Option MReg) : VOp := intOp 2 vsllF d a (zimm i) m
def opVsrlVi (d a : VReg) (i : Imm5) (m : Option MReg) : VOp := intOp 2 vsrlF d a (zimm i) m
def opVsraVi (d a : VReg) (i : Imm5) (m : Option MReg) : VOp := intOp 2 vsraF d a (zimm i) m
def opVminVi (d a : VReg) (i : Imm5) (m : Option MReg) : VOp := intOp 2 vminF d a (simm i) m
def opVmaxVi (d a : VReg) (i : Imm5) (m : Option MReg) : VOp := intOp 2 vmaxF d a (simm i) m
def opVminuVi (d a : VReg) (i : Imm5) (m : Option MReg) : VOp := intOp 2 vminuF d a (zimm i) m
def opVmaxuVi (d a : VReg) (i : Imm5) (m : Option MReg) : VOp := intOp 2 vmaxuF d a (zimm i) m
def opVmulVi (d a : VReg) (i : Imm5) (m : Option MReg) : VOp := intOp 3 vmulF d a (simm i) m
def opVmulhVi (d a : VReg) (i : Imm5) (m : Option MReg) : VOp := intOp 3 vmulhF d a (simm i) m
def opVmergeVi (d a : VReg) (i : Imm5) (m : MReg) : VOp := mergeOp d a (simm i) m

/-! VFX (R129, R130). -/

def opVsadd (d a b : VReg) (m : Option MReg) : VOp := vvOp 2 fullE (fun e a b => satS e.w (sgn e.w a + sgn e.w b)) d a b m
def opVsaddu (d a b : VReg) (m : Option MReg) : VOp := vvOp 2 fullE (fun e a b => satU e.w ((a : Int) + b)) d a b m
def opVssub (d a b : VReg) (m : Option MReg) : VOp := vvOp 2 fullE (fun e a b => satS e.w (sgn e.w a - sgn e.w b)) d a b m
def opVssubu (d a b : VReg) (m : Option MReg) : VOp := vvOp 2 fullE (fun e a b => satU e.w ((a : Int) - b)) d a b m
def opVaadd (d a b : VReg) (m : Option MReg) : VOp := vvOp 2 fullE (fun e a b => (wrapTo e.w (roundFix (sgn e.w a + sgn e.w b) 1 e.fix), 0)) d a b m
def opVaaddu (d a b : VReg) (m : Option MReg) : VOp := vvOp 2 fullE (fun e a b => (wrapTo e.w (roundFix ((a : Int) + b) 1 e.fix), 0)) d a b m
def opVsmul (d a b : VReg) (m : Option MReg) : VOp := vvOp 3 fullE (fun e a b => satS e.w (roundFix (sgn e.w a * sgn e.w b) (e.w - 1) e.fix)) d a b m
def opVssrl (d a : VReg) (n : Imm5) (m : Option MReg) : VOp := vOp 2 fullE (fun e a => (wrapTo e.w (roundFix a n.toNat e.fix), 0)) d a m
def opVssra (d a : VReg) (n : Imm5) (m : Option MReg) : VOp := vOp 2 fullE (fun e a => (wrapTo e.w (roundFix (sgn e.w a) n.toNat e.fix), 0)) d a m
/-- EW I8, I16 or I32 with an EW2 of twice the width, whatever its format (log 33). -/
def narrowE (e : Env) : Bool := e.ew ≤ 2 && e.w2 == 2 * e.w
def opVnsrl (d a : VReg) (n : Imm5) (m : Option MReg) : VOp := fromWide 2 narrowE (fun _ _ a => (a / 2 ^ n.toNat, 0)) d a m
def opVnsra (d a : VReg) (n : Imm5) (m : Option MReg) : VOp := fromWide 2 narrowE (fun e _ a => (wrapTo e.w (sgn e.w2 a / 2 ^ n.toNat), 0)) d a m
def opVnclip (d a : VReg) (n : Imm5) (m : Option MReg) : VOp := fromWide 2 narrowE (fun e _ a => satS e.w (roundFix (sgn e.w2 a) n.toNat e.fix)) d a m
def opVnclipu (d a : VReg) (n : Imm5) (m : Option MReg) : VOp := fromWide 2 narrowE (fun e _ a => satU e.w (roundFix a n.toNat e.fix)) d a m

/-! VWID (R131, R132). -/

def pairE (e : Env) : Bool := (e.ew == 1 && e.ew2 == 0) || (e.ew == 2 && e.ew2 == 1) || (e.ew == 3 && e.ew2 == 2)
/-- A wide first operand and a narrow second. -/
def wideNarrow (f : Env → Nat → Nat → Int) (d a b : VReg) (m : Option MReg) : VOp where
  unit := 2
  mask := m
  wide := widest
  check := pairE
  srcs := fun e => [e.src a, e.src2 b]
  dsts := fun e => [e.dst d]
  kind := .elem fun e i => do
    let x ← e.el a i
    let y ← e.el2 b i
    return ([wrElem e d.val e.w i (wrapTo e.w (f e x y))], 0)
/-- Two narrow operands; `acc` adds the destination's old value. -/
def narrowMul (acc : Bool) (f : Env → Nat → Nat → Int) (d a b : VReg) (m : Option MReg) : VOp where
  unit := 3
  mask := m
  wide := widest
  check := pairE
  srcs := fun e => [e.src2 a, e.src2 b] ++ (if acc then [e.src d] else [])
  dsts := fun e => [e.dst d]
  kind := .elem fun e i => do
    let x ← e.el2 a i
    let y ← e.el2 b i
    let z ← if acc then e.el d i else pure 0
    return ([wrElem e d.val e.w i (wrapTo e.w (z + f e x y))], 0)

def opVwadd (d a b : VReg) (m : Option MReg) : VOp := wideNarrow (fun e a b => sgn e.w a + sgn e.w2 b) d a b m
def opVwaddu (d a b : VReg) (m : Option MReg) : VOp := wideNarrow (fun _ a b => (a : Int) + b) d a b m
def opVwsub (d a b : VReg) (m : Option MReg) : VOp := wideNarrow (fun e a b => sgn e.w a - sgn e.w2 b) d a b m
def opVwsubu (d a b : VReg) (m : Option MReg) : VOp := wideNarrow (fun _ a b => (a : Int) - b) d a b m
def opVwmul (d a b : VReg) (m : Option MReg) : VOp := narrowMul false (fun e a b => sgn e.w2 a * sgn e.w2 b) d a b m
def opVwmulu (d a b : VReg) (m : Option MReg) : VOp := narrowMul false (fun _ a b => (a : Int) * b) d a b m
def opVwmulsu (d a b : VReg) (m : Option MReg) : VOp := narrowMul false (fun e a b => sgn e.w2 a * b) d a b m
def opVwmacc (d a b : VReg) (m : Option MReg) : VOp := narrowMul true (fun e a b => sgn e.w2 a * sgn e.w2 b) d a b m
def opVwmaccu (d a b : VReg) (m : Option MReg) : VOp := narrowMul true (fun _ a b => (a : Int) * b) d a b m
def opVwmaccsu (d a b : VReg) (m : Option MReg) : VOp := narrowMul true (fun e a b => sgn e.w2 a * b) d a b m
/-- The four sub-products of `vqmacc` (R132). -/
def quadSum (w a b : Nat) : Int :=
  [0, 1, 2, 3].foldl (fun s q => s + sgn w (a / 2 ^ (q * w) % 2 ^ w) * sgn w (b / 2 ^ (q * w) % 2 ^ w)) 0
def opVqmacc (d a b : VReg) (m : Option MReg) : VOp where
  unit := 3
  mask := m
  check := fun e => (e.ew == 2 && e.ew2 == 0) || (e.ew == 3 && e.ew2 == 1) || (e.ew == 1 && e.ew2 == 4)
  srcs := fun e => [e.src a, e.src b, e.src d]
  dsts := fun e => [e.dst d]
  kind := .elem fun e i => do
    let x ← e.el a i
    let y ← e.el b i
    let z ← e.el d i
    return ([wrElem e d.val e.w i (wrapTo e.w (z + quadSum e.w2 x y))], 0)

/-! VCMP (R133, R134). -/

def opVseq (d : MReg) (a b : VReg) (m : Option MReg) : VOp := cmpOp 2 intE (fun _ a b => (a == b, 0)) d a b m
def opVsne (d : MReg) (a b : VReg) (m : Option MReg) : VOp := cmpOp 2 intE (fun _ a b => (a != b, 0)) d a b m
def opVslt (d : MReg) (a b : VReg) (m : Option MReg) : VOp := cmpOp 2 intE (fun e a b => (decide (sgn e.w a < sgn e.w b), 0)) d a b m
def opVsltu (d : MReg) (a b : VReg) (m : Option MReg) : VOp := cmpOp 2 intE (fun _ a b => (decide (a < b), 0)) d a b m
def opVsle (d : MReg) (a b : VReg) (m : Option MReg) : VOp := cmpOp 2 intE (fun e a b => (decide (sgn e.w a ≤ sgn e.w b), 0)) d a b m
def opVsleu (d : MReg) (a b : VReg) (m : Option MReg) : VOp := cmpOp 2 intE (fun _ a b => (decide (a ≤ b), 0)) d a b m
def opVsgt (d : MReg) (a b : VReg) (m : Option MReg) : VOp := cmpOp 2 intE (fun e a b => (decide (sgn e.w b < sgn e.w a), 0)) d a b m
def opVsgtu (d : MReg) (a b : VReg) (m : Option MReg) : VOp := cmpOp 2 intE (fun _ a b => (decide (b < a), 0)) d a b m

/-- The carry or borrow in: bit i of MS, or 0 (R134). -/
def carryIn (s : State) (e : Env) (m : Option MReg) (i : Nat) : Nat :=
  match m with
  | some k => (maskBit s e.h k.val i).toNat
  | none => 0
/-- FN 8 and A: a group; every element is active. -/
def carryOp (f : Nat → Nat → Nat → Nat → Nat) (d a b : VReg) (m : Option MReg) : VOp where
  unit := 2
  mask := m
  every := true
  check := intE
  srcs := fun e => [e.src a, e.src b]
  dsts := fun e => [e.dst d]
  kind := .elem fun e i => do
    let x ← e.el a i
    let y ← e.el b i
    return ([wrElem e d.val e.w i (f e.w x y (carryIn (← get) e m i))], 0)
/-- FN 9 and B: the carry or borrow out. -/
def carryOutOp (f : Nat → Nat → Nat → Nat → Bool) (d : MReg) (a b : VReg) (m : Option MReg) : VOp where
  unit := 2
  mask := m
  every := true
  check := intE
  srcs := fun e => [e.src a, e.src b]
  dsts := fun _ => [.m d.val]
  kind := .elem fun e i => do
    let x ← e.el a i
    let y ← e.el b i
    return ([wrMask d.val i (f e.w x y (carryIn (← get) e m i))], 0)
def opVadc (d a b : VReg) (m : Option MReg) : VOp := carryOp (fun _ a b c => a + b + c) d a b m
def opVmadc (d : MReg) (a b : VReg) (m : Option MReg) : VOp := carryOutOp (fun w a b c => decide (2 ^ w ≤ a + b + c)) d a b m
def opVsbc (d a b : VReg) (m : Option MReg) : VOp := carryOp (fun w a b c => a + 2 ^ (w + 1) - b - c) d a b m
def opVmsbc (d : MReg) (a b : VReg) (m : Option MReg) : VOp := carryOutOp (fun _ a b c => decide (a < b + c)) d a b m

/-! VMSK (R135). -/

/-- Bit i of a source mask; poisoned mask data is a fault (R125). -/
def mbit (e : Env) (r : MReg) (i : Nat) : M Bool := do
  let s ← get
  if ((s.hart e.h).c.mPois[r]).toNat / 2 ^ i % 2 = 1 then poisonTrap .mask r.val i 1 r.val i
  return maskBit s e.h r.val i
/-- A mask from bits of masks; every element, from the first group on whatever VSI holds.  DESIGN CHOICE: with no vector operand its
groups are those of width w(EW) (log 76). -/
def maskOp (f : Env → Nat → M Bool) (d : MReg) : VOp where
  unit := 2
  every := true
  noVsi := true
  dsts := fun _ => [.m d.val]
  kind := .elem fun e i => do return ([wrMask d.val i (← f e i)], 0)
def opMand (d a b : MReg) : VOp := maskOp (fun e i => do return (← mbit e a i) && (← mbit e b i)) d
def opMor (d a b : MReg) : VOp := maskOp (fun e i => do return (← mbit e a i) || (← mbit e b i)) d
def opMxor (d a b : MReg) : VOp := maskOp (fun e i => do return (← mbit e a i) != (← mbit e b i)) d
def opMandn (d a b : MReg) : VOp := maskOp (fun e i => do return (← mbit e a i) && !(← mbit e b i)) d
def opMnot (d a : MReg) : VOp := maskOp (fun e i => do return !(← mbit e a i)) d
def opMset (d : MReg) : VOp := maskOp (fun _ _ => pure true) d
def opMclr (d : MReg) : VOp := maskOp (fun _ _ => pure false) d
def opMmv (d a : MReg) : VOp := maskOp (fun e i => mbit e a i) d
def opMfromv (d : MReg) (a : VReg) : VOp :=
  { maskOp (fun e i => do return (← e.el a i) % 2 == 1) d with noRay := fun e => [e.src a] }
def opMtov (d : VReg) (a : MReg) : VOp where
  unit := 2
  every := true
  noVsi := true
  check := intE
  dsts := fun e => [e.dst d]
  kind := .elem fun e i => do return ([wrElem e d.val e.w i (← mbit e a i).toNat], 0)

/-- The first VL bits of a mask. -/
def maskBits (e : Env) (r : MReg) : Nat → M Nat
  | 0 => pure 0
  | n + 1 => do
    let x ← maskBits e r n
    return x + (← mbit e r n).toNat * 2 ^ n
/-- `mshl`: every bit of A is read first. -/
def opMshl (d a : MReg) (b : GReg) : VOp where
  unit := 2
  ctlOnly := true
  noVsi := true
  gops := [b]
  dsts := fun _ => [.m d.val]
  kind := .whole fun e => do
    let x ← maskBits e a (e.vl - 1)
    if 0 < e.vl then
      modify fun s => applyWr e s ⟨.mask, d.val, 0, e.vl, 2 * x + (e.gv 0).toNat % 2, 0⟩
/-- A number to g[D]; the control thread waits for it (R126). -/
def maskNumber (f : Env → M Int) (d : GReg) : VOp where
  unit := 2
  ctlOnly := true
  noVsi := true
  wait := true
  kind := .whole fun e => do
    let x ← f e
    modify fun s => s.setG e.h d (wordOf x)
/-- A number that the first VL bits of a mask make. -/
def maskCount (f : Nat → Nat → Int) (d : GReg) (a : MReg) : VOp := maskNumber (fun e => do return f e.vl (← maskBits e a e.vl)) d
def opMpop (d : GReg) (a : MReg) : VOp := maskCount (fun n x => ((List.range n).filter fun i => x / 2 ^ i % 2 == 1).length) d a
def opMfirst (d : GReg) (a : MReg) : VOp := maskCount (fun n x => match (List.range n).find? fun i => x / 2 ^ i % 2 == 1 with | some i => i | none => -1) d a
def opMlast (d : GReg) (a : MReg) : VOp := maskCount (fun _ x => if x = 0 then -1 else (x.log2 : Int)) d a
/-- `mtop` reads bit VL − 1 alone. -/
def opMtop (d : GReg) (a : MReg) : VOp :=
  maskNumber (fun e => do if e.vl = 0 then return 0 else return ((← mbit e a (e.vl - 1)).toNat : Int)) d

/-! VFP (R136, R137). -/

/-- d := ±(a × b) ± d. -/
def fmaOp (np nd : Bool) (d a b : VReg) (m : Option MReg) : VOp where
  unit := 4
  mask := m
  check := wideE
  srcs := fun e => [e.src a, e.src b, e.src d]
  dsts := fun e => [e.dst d]
  kind := .elem fun e i => do
    let x ← e.el a i
    let y ← e.el b i
    let z ← e.el d i
    let (v, fl) := fpFma e.ew e.fp np nd x y z
    return ([wrElem e d.val e.w i v], fl)
/-- A pattern with its sign bit replaced. -/
def withSign (w x : Nat) (neg : Bool) : Nat := x % 2 ^ (w - 1) + neg.toNat * 2 ^ (w - 1)
def signOf (w x : Nat) : Bool := x / 2 ^ (w - 1) % 2 == 1

def opVfadd (d a b : VReg) (m : Option MReg) : VOp := vvOp 4 wideE (fun e a b => fpAdd e.ew e.fp a b) d a b m
def opVfsub (d a b : VReg) (m : Option MReg) : VOp := vvOp 4 wideE (fun e a b => fpSub e.ew e.fp a b) d a b m
def opVfmul (d a b : VReg) (m : Option MReg) : VOp := vvOp 4 wideE (fun e a b => fpMul e.ew e.fp a b) d a b m
def opVfdiv (d a b : VReg) (m : Option MReg) : VOp := vvOp 4 wideE (fun e a b => fpDiv e.ew e.fp a b) d a b m
def opVfmin (d a b : VReg) (m : Option MReg) : VOp := vvOp 4 wideE (fun e a b => fpMinMax e.ew false a b) d a b m
def opVfmax (d a b : VReg) (m : Option MReg) : VOp := vvOp 4 wideE (fun e a b => fpMinMax e.ew true a b) d a b m
def opVfsgnj (d a b : VReg) (m : Option MReg) : VOp := vvOp 4 wideE (fun e a b => (withSign e.w a (signOf e.w b), 0)) d a b m
def opVfsgnjn (d a b : VReg) (m : Option MReg) : VOp := vvOp 4 wideE (fun e a b => (withSign e.w a (!signOf e.w b), 0)) d a b m
def opVfsqrt (d a : VReg) (m : Option MReg) : VOp := vOp 4 wideE (fun e a => fpSqrt e.ew e.fp a) d a m
def opVfabs (d a : VReg) (m : Option MReg) : VOp := vOp 4 wideE (fun e a => (withSign e.w a false, 0)) d a m
def opVfmacc (d a b : VReg) (m : Option MReg) : VOp := fmaOp false false d a b m
def opVfnmacc (d a b : VReg) (m : Option MReg) : VOp := fmaOp true true d a b m
def opVfmsac (d a b : VReg) (m : Option MReg) : VOp := fmaOp false true d a b m
def opVfeq (d : MReg) (a b : VReg) (m : Option MReg) : VOp := cmpOp 4 wideE (fun e a b => fpEq e.ew a b) d a b m
def opVflt (d : MReg) (a b : VReg) (m : Option MReg) : VOp := cmpOp 4 wideE (fun e a b => fpLt e.ew a b) d a b m
def opVfle (d : MReg) (a b : VReg) (m : Option MReg) : VOp := cmpOp 4 wideE (fun e a b => fpLe e.ew a b) d a b m

/-! VSF (R138). -/

def sfE (e : Env) : Bool := e.ew == 8 || e.ew == 6
def opVexp2 (d a : VReg) (m : Option MReg) : VOp := vOp 5 sfE (fun e a => special 0 e.ew a) d a m
def opVlog2 (d a : VReg) (m : Option MReg) : VOp := vOp 5 sfE (fun e a => special 1 e.ew a) d a m
def opVrcp (d a : VReg) (m : Option MReg) : VOp := vOp 5 sfE (fun e a => special 2 e.ew a) d a m
def opVrsqrt (d a : VReg) (m : Option MReg) : VOp := vOp 5 sfE (fun e a => special 3 e.ew a) d a m
def opVtanh (d a : VReg) (m : Option MReg) : VOp := vOp 5 sfE (fun e a => special 4 e.ew a) d a m
def opVsigm (d a : VReg) (m : Option MReg) : VOp := vOp 5 sfE (fun e a => special 5 e.ew a) d a m

/-! VCVT (R139 to R141). -/

def floatF (f : Nat) : Bool := 6 ≤ f && f ≤ 12
def blockLen (vt : Nat) : Nat := 8 * 2 ^ vtBlock vt
/-- Scale byte j of the scale register paired with the group at r (R31); poison is a fault. -/
def scaleByte (e : Env) (r : VReg) (i : Nat) : M Nat := do
  let k : Fin 8 := Fin.ofNat 8 (r.val / 4)
  let c := ((← get).hart e.h).c
  let b := 8 * (i / blockLen e.vt)
  if bitsOf (c.kPois[k]).toNat (b + 7) b ≠ 0 then poisonTrap .scale k.val b 8 k.val i
  return bitsOf (c.k[k]).toNat (b + 7) b
def opVcvtf (d a : VReg) (m : Option MReg) : VOp :=
  fromWide 4 (fun e => floatF e.ew && floatF e.ew2) (fun e _ x => fpConvert e.ew2 e.ew e.fp x) d a m
def opVcvtfi (d a : VReg) (m : Option MReg) : VOp :=
  fromWide 4 (fun e => fullE e && floatF e.ew2) (fun e _ x => fpToInt e.ew2 e.w e.fp x) d a m
def opVcvtif (d a : VReg) (m : Option MReg) : VOp :=
  fromWide 4 (fun e => floatF e.ew && e.ew2 ≤ 5) (fun e _ x => intToFp e.w2 e.ew e.fp x) d a m
def opVddec (d a : VReg) (m : Option MReg) : VOp :=
  fromWide 4 (fun e => wideE e && e.ew2 == 13) (fun e _ x => fpConvert e.ew2 e.ew e.fp x) d a m
/-- `vdenc`: x divided by its scale, then R34 (R140). -/
def opVdenc (d a : VReg) (m : Option MReg) : VOp where
  unit := 4
  mask := m
  wide := widest
  check := fun e => e.ew == 13 && isWide e.ew2
  srcs := fun e => [e.src2 a]
  dsts := fun e => [e.dst d]
  kind := .elem fun e i => do
    let x ← e.el2 a i
    let k ← if vtBlock e.vt ≠ 0 then scaleByte e d i else pure 127
    let (v, fl) := encodeD8 (unscaled (decodeFP e.ew2 x) k)
    return ([wrElem e d.val e.w i v], fl)
/-- `vscl`: the effective value (R31), rounded. -/
def opVscl (d a : VReg) (m : Option MReg) : VOp where
  unit := 4
  mask := m
  wide := widest
  check := fun e => wideE e && scalable e.ew2 && vtBlock e.vt != 0
  srcs := fun e => [e.src2 a]
  dsts := fun e => [e.dst d]
  kind := .elem fun e i => do
    let x ← e.el2 a i
    let k ← scaleByte e a i
    let (v, fl) := roundFP e.ew e.fp (scaled (decodeFP e.ew2 x) k)
    return ([wrElem e d.val e.w i v], fl)

/-- emax of R141. -/
def emaxOf (f : Nat) : Int := if f = 10 then 8 else if f = 11 then 15 else if f = 12 then 2 else 0
/-- ⌊log2⌋ of a nonzero finite magnitude, none for zero; `bad` for NaN and infinity. -/
def log2Of : FV → Option Int
  | .fin _ m e _ => if m = 0 then none else some ((m.log2 : Int) + e)
  | _ => none
def FV.bad : FV → Bool
  | .fin _ _ _ _ => false
  | _ => true
/-- The scale byte of a block (R141). -/
def blockScale (f : Nat) (xs : List FV) : Nat :=
  let top := (xs.filterMap log2Of).foldl (fun a x => match a with | none => some x | some y => some (max x y)) (none : Option Int)
  match top with
  | none => 127
  | some t => (min 254 (max 0 (t - emaxOf f + 127))).toNat
/-- One block of `vqnt` from its active elements: the scale byte, the patterns and the flags. -/
def qntBlock (e : Env) (xs : List (Nat × Nat)) : Option Nat × List (Nat × Nat) × Nat :=
  if xs.isEmpty then (none, [], 0)
  else
    let vals := xs.map fun p => decodeFP e.ew2 p.2
    let sn := nvOf vals
    if vals.any FV.bad then
      (some 0xFF, xs.map fun p => (p.1, if e.ew = 13 then 0x08 else 0), fNV)
    else
      let k := blockScale e.ew vals
      let rs := xs.map fun p =>
        let x := unscaled (decodeFP e.ew2 p.2) k
        (p.1, if e.ew = 13 then encodeD8 x else roundFP e.ew e.fp x)
      (some k, rs.map fun p => (p.1, p.2.1), rs.foldl (fun a p => a ||| p.2.2) sn)
/-! Instructions that read every source element first (R142): a poisoned one of the lowest index is the fault. -/

/-- A source element, and its fault where it is poisoned. -/
def probe (m : M Nat) : M (Nat × List Trap) := do
  match m.run.run (← get) with
  | (.ok v, s) => set s; return (v, [])
  | (.error t, s) => if t.cause = 0x0B then return (0, [t]) else set s; throw t
/-- Elements at the given indices, in their order, and the faults of poisoned ones. -/
def readElems (read : Nat → M Nat) (is : List Nat) : M (List Nat × List Trap) := do
  let xs ← is.mapM fun i => probe (read i)
  return (xs.map (·.1), xs.flatMap (·.2))
/-- The first fault of the lowest element. -/
def lowest (ts : List Trap) : Option Trap :=
  ts.foldl (fun a t => match a with
    | none => some t
    | some u => if t.telem < u.telem then some t else some u) none
def throwLowest (ts : List Trap) : M Unit :=
  match lowest ts with
  | some t => throw t
  | none => pure ()
/-- The active elements among is, in ascending order (R143), and the poisoned mask bits. -/
def actives (e : Env) (op : VOp) (is : List Nat) : M (List Nat × List Trap) := do
  let s ← get
  return (is.filter (activeAt s e op), is.filterMap fun i => (maskPoison s e op i).map fun m =>
    { cause := 0x0B, tval := BitVec.ofNat 64 m, telem := i, pois := some (.mask, m, i, 1) })

/-- Elements of the destination group written together; all VL of a store ray are appended, others as zero (R190). -/
def putAll (e : Env) (d : VReg) (xs : List (Nat × Nat)) : M Unit := do
  let s ← get
  match rayOf (s.hart e.h).c d.val with
  | some r =>
    let (first, n) := e.strip s r
    (List.range n).forM fun i =>
      storeV (e.who s) (ringElem s e.h r (first + i)) (e.w / 8) ((xs.foldl (fun a p => if p.1 = i then p.2 else a) 0) % 2 ^ e.w)
  | none =>
    let s' := xs.foldl (fun s p => applyWr e s (wrElem e d.val e.w p.1 p.2)) s
    set (if xs.isEmpty then s' else marks e true s' (e.dst d))
def qntShell (d a : VReg) (m : Option MReg) : VOp where
  unit := 4
  ctlOnly := true
  mask := m
  wide := widest
  noVsi := true
  check := fun e => (e.ew == 10 || e.ew == 11 || e.ew == 12 || e.ew == 13) && isWide e.ew2 && vtBlock e.vt != 0
  srcs := fun e => [e.src2 a]
  dsts := fun e => [e.dst d]
  kind := .whole fun _ => pure ()
/-- `vqnt` (R141). -/
def opVqnt (d a : VReg) (m : Option MReg) : VOp :=
  let shell := qntShell d a m
  { shell with kind := .whole fun e => do
      let (is, ms) ← actives e shell (List.range e.vl)
      let (vs, ts) ← readElems (e.el2 a) is
      throwLowest (ms ++ ts)
      let xs := is.zip vs
      let b := blockLen e.vt
      let rs := (List.range ((e.vl + b - 1) / b)).map fun j => (j, qntBlock e (xs.filter fun p => p.1 / b == j))
      putAll e d (rs.foldl (fun a r => a ++ r.2.2.1) [])
      modify fun s => (rs.foldl (fun s r => match r.2.1 with
        | some k => applyWr e s ⟨.scale, d.val / 4, 8 * r.1, 8, k, 0⟩
        | none => s) s).orFlags e.h (rs.foldl (fun a r => a ||| r.2.2.2) 0) }

end Sys2Proof.Machine
end

