-- ==== Sys2Proof/Machine/VPerm.lean ====
section
/-! DEFINITION. Permutes, reductions and compress (08 R142 to R147): each reads every source element before it writes
any destination element, ignores VSI and is never split. -/
namespace Sys2Proof.Machine

/-- Index vectors are I8 to I64 (R142). -/
def indexE (e : Env) : Bool := e.ew2 ≤ 3

/-- A permute with a destination group: `reads` names the elements of the source that the active elements need, and `act`
answers from their values the elements it writes, and flags. -/
def permOp (check : Env → Bool) (gops : List GReg) (a : Option VReg) (index : Option VReg) (m : Option MReg) (d : VReg)
    (reads : Env → List Nat → List Nat) (act : Env → List Nat → List Nat → List (Nat × Nat) × Nat) : VOp :=
  let shell : VOp := {
    unit := 6
    ctlOnly := true
    mask := m
    noVsi := true
    overlap := true
    gops := gops
    check := fun e => check e && (index.isNone || indexE e)
    wide := fun e => if index.isSome then widest e else e.w
    srcs := fun e => a.toList.map e.src
    index := fun e => index.map fun r => e.src2 r
    dsts := fun e => [e.dst d]
    kind := .whole fun _ => pure () }
  { shell with kind := .whole fun e => do
      let (is, ms) ← actives e shell (List.range e.vl)
      let (_, ts) ← readElems (srcElem e ((index.map (·.val)).getD 0) e.ew2) (if index.isSome then is else [])
      let (xs, us) ← readElems (srcElem e ((a.map (·.val)).getD 0) e.ew) (reads e is)
      throwLowest (ms ++ ts ++ us)
      let (ws, fl) := act e is xs
      putAll e d ws
      modify fun s => s.orFlags e.h fl }

def opVslup (d a : VReg) (b : GReg) (m : Option MReg) : VOp :=
  let on (e : Env) (is : List Nat) : List Nat := is.filter fun i => (e.gv 0).toNat ≤ i
  permOp (fun _ => true) [b] (some a) none m d (fun e is => (on e is).map fun i => i - (e.gv 0).toNat)
    fun e is xs => ((on e is).zip xs, 0)
def opVsldn (d a : VReg) (b : GReg) (m : Option MReg) : VOp :=
  let on (e : Env) (i : Nat) : Bool := i + (e.gv 0).toNat < e.vl
  permOp (fun _ => true) [b] (some a) none m d (fun e is => (is.filter (on e)).map fun i => i + (e.gv 0).toNat)
    fun e is xs => ((is.filter (on e)).zip xs ++ (is.filter fun i => !on e i).map fun i => (i, 0), 0)
def opVrgat (d a b : VReg) (m : Option MReg) : VOp :=
  let on (e : Env) (i : Nat) : Bool := e.ix i < e.vl
  permOp (fun _ => true) [] (some a) (some b) m d (fun e is => (is.filter (on e)).map e.ix)
    fun e is xs => ((is.filter (on e)).zip xs ++ (is.filter fun i => !on e i).map fun i => (i, 0), 0)
/-- `vscat` (R144): ascending, so the highest active element of an index remains; CROSS where two meet. -/
def opVscat (d a b : VReg) (m : Option MReg) : VOp :=
  permOp (fun _ => true) [] (some a) (some b) m d (fun _ is => is) fun e is xs =>
    let ws := (is.zip xs).filterMap fun p => if e.ix p.1 < e.vl then some (e.ix p.1, p.2) else none
    (ws, if (ws.map (·.1)).Nodup then 0 else fCROSS)
def opVcomp (d a : VReg) (m : MReg) : VOp :=
  permOp (fun _ => true) [] (some a) none (some m) d (fun _ is => is) fun _ _ xs => ((List.range xs.length).zip xs, 0)
def opVid (d : VReg) (m : Option MReg) : VOp :=
  permOp intE [] none none m d (fun _ _ => []) fun _ is _ => (is.map fun i => (i, i), 0)
/-- `viota`: the bits of A below the last active element are read. -/
def opViota (d : VReg) (a : MReg) (m : Option MReg) : VOp :=
  let shell : VOp := permOp intE [] none none m d (fun _ _ => []) fun _ _ _ => ([], 0)
  { shell with kind := .whole fun e => do
      let (is, ms) ← actives e shell (List.range e.vl)
      let (bs, ts) ← readElems (fun i => do return (← mbit e a i).toNat) (List.range (is.getLastD 0))
      throwLowest (ms ++ ts)
      putAll e d (is.map fun i => (i, (bs.take i).foldl (· + ·) 0)) }
def opVbcast (d : VReg) (a : GReg) (m : Option MReg) : VOp :=
  permOp (fun _ => true) [a] none none m d (fun _ _ => []) fun e is _ => (is.map fun i => (i, (e.gv 0).toNat), 0)
/-- `vmvgs`: element 0 alone, no tail (R143). -/
def opVmvgs (d : VReg) (a : GReg) (m : Option MReg) : VOp :=
  { permOp (fun _ => true) [a] none none m d (fun _ _ => []) fun e is _ =>
      ((is.filter fun i => i == 0).map fun i => (i, (e.gv 0).toNat), 0) with noTail := true }
/-- `vmvsg`: VL is ignored (R143). -/
def opVmvsg (d : GReg) (a : VReg) (m : Option MReg) : VOp where
  unit := 6
  ctlOnly := true
  mask := m
  noVsi := true
  wait := true
  srcs := fun e => [e.src a]
  kind := .whole fun e => do
    let on ← match m with
      | some k => mbit e k 0
      | none => pure true
    if on then
      let x ← e.el a 0
      modify fun s => s.setG e.h d (if e.ew ≤ 5 then wordOf (sgn e.w x) else BitVec.ofNat 64 x)

/-- A reduction: d[0], and zero above it to the end of the group (R146); `nan` says that a NaN result is the canonical
one (R27).  The mark covers d[0] even with VL = 0.  DEDUCED: a signalling NaN as initial value sets NV where no element is
active too (log 73). -/
def redOp (check : Env → Bool) (nan : Bool) (f : Env → Nat → Nat → Nat × Nat) (d a b : VReg) (m : Option MReg) : VOp :=
  let shell : VOp := {
    unit := 6
    ctlOnly := true
    mask := m
    noVsi := true
    overlap := true
    noTail := true
    check := check
    srcs := fun e => [e.src a, e.src b]
    dsts := fun e => [e.dst d]
    kind := .whole fun _ => pure () }
  { shell with kind := .whole fun e => do
      let (is, ms) ← actives e shell (List.range e.vl)
      let (xs, ts) ← readElems (e.el a) is
      let (z, us) ← readElems (e.el b) [0]
      throwLowest (ms ++ ts ++ us)
      let (r, fl) := xs.foldl (fun acc x => let (v, g) := f e acc.1 x; (v, acc.2 ||| g)) (z.headD 0, 0)
      let r := if nan && (decodeFP e.ew r).isNaN then canonNaN e.ew else r
      let fl := if nan && xs.isEmpty then fl ||| nvOf [decodeFP e.ew (z.headD 0)] else fl
      modify fun s => tail { e with vl := 1 } s (e.dst d)
      putAll e d [(0, r)]
      modify fun s => (marks { e with vl := max 1 e.vl } false s (e.dst d)).orFlags e.h fl }
def opVredsum (d a b : VReg) (m : Option MReg) : VOp := redOp fullE false (fun e x y => ((x + y) % 2 ^ e.w, 0)) d a b m
def opVredmax (d a b : VReg) (m : Option MReg) : VOp := redOp fullE false (fun e x y => (if sgn e.w x < sgn e.w y then y else x, 0)) d a b m
def opVredmin (d a b : VReg) (m : Option MReg) : VOp := redOp fullE false (fun e x y => (if sgn e.w y < sgn e.w x then y else x, 0)) d a b m
def opVfredsum (d a b : VReg) (m : Option MReg) : VOp := redOp wideE true (fun e x y => fpAdd e.ew e.fp x y) d a b m
def opVfredmax (d a b : VReg) (m : Option MReg) : VOp := redOp wideE true (fun e x y => fpMinMax e.ew true x y) d a b m

/-! `vcapp` (R147). -/

/-- The queue whose head page stands at va, for a read and a write (R248, R349); `bad` is the cause where it is none. -/
def queueAt (w : Who) (va bad : Nat) : M Nat := do
  if va % 0x4000 ≠ 0 then trap bad va
  let s ← get
  match xlate s w .load va, xlate s w .store va with
  | .error t, _ => throw t
  | _, .error t => throw t
  | .ok _, .ok x =>
    if eKind x.leaf ≠ 2 ∨ x.pa < 0x200400000000 ∨ 0x200440000000 ≤ x.pa then trap 0x05 va
    set (touch s x true)
    return (x.pa - 0x200400000000) / 0x4000

/-- Entries to the ring of an INDEX queue while there is room; the first that did not fit. -/
def appendIndices (q : Nat) (h : HartId) (base : Nat) : List Nat → State → State × Option Nat
  | [], s => (s, none)
  | i :: r, s =>
    let x := s.queue q
    if qFull x then (s, some i)
    else
      let s := runM (physWrite (ringAgent x) false (ringAddr x (qTail x)) 4 ((i + base) % 2 ^ 32) x.key) s
      let since := x.w[6].toNat / 2 ^ 32 + 1
      let x := (s.queue q).setTail (qTail x + 1)
      appendIndices q h base r (s.setQueue q { x with w := x.w.set 6 (BitVec.ofNat 64 (x.w[6].toNat % 2 ^ 32 + since * 2 ^ 32)) })

/-- The places that n entries of queue q would take are not in the store of a quarantined tile (R20): else a fault at the first that
is, of the element that goes there.  DESIGN CHOICE: TVAL is the entry's own address, and nothing is appended (log 83). -/
def ringThere (q n : Nat) (is : List Nat) : M Unit := do
  let s ← get
  let x := s.queue q
  match (List.range (min n (qCap x - qCount x))).find? fun k => quarantined s (ringAddr x (qTail x + k)) with
  | some k => trap 0x04 (ringAddr x (qTail x + k)) (is.getD k 0)
  | none => pure ()

/-- `vcapp`.  DESIGN CHOICE: a queue that is not enabled is no such page, 0x05; HALT does not matter (log 51). -/
def opVcapp (a b : GReg) (m : MReg) : VOp where
  unit := 6
  ctlOnly := true
  mask := some m
  gops := [a, b]
  kind := .range fun e _ lo hi => do
    let va := (e.gv 0).toNat
    let q ← queueAt (e.who (← get)) va 0x05
    if qKind ((← get).queue q) ≠ 2 ∨ !qEn ((← get).queue q) then trap 0x05 va
    let shell : VOp := { unit := 6, mask := some m, kind := .whole fun _ => pure () }
    let (is, ms) ← actives e shell ((List.range (hi - lo)).map (lo + ·))
    throwLowest ms
    ringThere q is.length is
    let (s, full) := appendIndices q e.h (e.gv 1).toNat is (← get)
    let x := s.queue q
    let some_ := match full with | some i => is.head? != some i | none => !is.isEmpty
    let s := if some_ && e.vlmax ≤ x.w[6].toNat / 2 ^ 32 then
        raiseEvent (s.setQueue q { x with w := x.w.set 6 (BitVec.ofNat 64 (x.w[6].toNat % 2 ^ 32)) }) e.h 2 (BitVec.ofNat 64 va)
      else s
    set s
    match full with
    | some i =>
      set (s.setSt e.h 2 (BitVec.ofNat 64 i))
      trap 0x10 va i
    | none => return e.vl

end Sys2Proof.Machine
end

