-- ==== Sys2Proof/Machine/VMem.lean ====
section
/-! DEFINITION. Vector loads and stores, segments, fault-only-first loads, mask and scale moves, scatter atomics
(07 R113 to R122). -/
namespace Sys2Proof.Machine

def byteE (e : Env) : Bool := 8 ≤ e.w
/-- Address of element i of a unit-stride access (R24, R117). -/
def unitAddr (e : Env) (i : Nat) : Nat := ((e.gv 0).toNat + i * e.w / 8) % 2 ^ 64
def strideAddr (e : Env) (i : Nat) : Nat := (e.gv 0 + BitVec.ofNat 64 i * e.gv 1).toNat
def indexAddr (e : Env) (i : Nat) : Nat := ((e.gv 0).toNat + e.ix i) % 2 ^ 64

/-- A load or a store of one group. -/
def memOp (store : Bool) (check : Env → Bool) (gops : List GReg) (index : Option VReg) (ctlOnly : Bool) (addr : Env → Nat → Nat)
    (d : VReg) (m : Option MReg) : VOp where
  unit := if store then 1 else 0
  ctlOnly := ctlOnly
  mask := m
  gops := gops
  check := fun e => check e && (index.isNone || indexE e)
  wide := fun e => if index.isSome then widest e else e.w
  index := fun e => index.map fun r => e.src2 r
  overlap := !store
  srcs := fun e => if store then [e.src d] else []
  dsts := fun e => if store then [] else [e.dst d]
  kind := .mem store Env.w (fun e i => [(addr e i, 0)]) fun e i _ => do return (← srcElem e d.val e.ew i, 0)

def opVld (d : VReg) (a : GReg) (m : Option MReg) : VOp := memOp false (fun _ => true) [a] none false unitAddr d m
def opVlds (d : VReg) (a b : GReg) (m : Option MReg) : VOp := memOp false byteE [a, b] none false strideAddr d m
def opVldx (d : VReg) (a : GReg) (b : VReg) (m : Option MReg) : VOp := memOp false byteE [a] (some b) false indexAddr d m
def opVst (d : VReg) (a : GReg) (m : Option MReg) : VOp := memOp true (fun _ => true) [a] none false unitAddr d m
def opVsts (d : VReg) (a b : GReg) (m : Option MReg) : VOp := memOp true byteE [a, b] none false strideAddr d m
def opVstx (d : VReg) (a : GReg) (b : VReg) (m : Option MReg) : VOp := memOp true byteE [a] (some b) false indexAddr d m
def opVstxo (d : VReg) (a : GReg) (b : VReg) (m : Option MReg) : VOp :=
  { memOp true byteE [a] (some b) true indexAddr d m with ordered := true }

/-- nf fields per element, field f in the group at d + f × G (R118). -/
def segOp (store : Bool) (nf : Nat) (d : VReg) (a : GReg) (m : Option MReg) : VOp where
  unit := if store then 1 else 0
  ctlOnly := true
  mask := m
  gops := [a]
  check := fun e => byteE e && d.val + nf * e.G ≤ 32
  srcs := fun e => if store then (List.range nf).map fun f => ⟨d.val + f * e.G, e.ew, e.G⟩ else []
  dsts := fun e => if store then [] else (List.range nf).map fun f => .v (d.val + f * e.G) e.w e.G
  kind := .mem store Env.w (fun e i => (List.range nf).map fun f => (((e.gv 0).toNat + (i * nf + f) * e.w / 8) % 2 ^ 64, f))
    fun e i f => do return (← srcElem e (d.val + f * e.G) e.ew i, 0)
def opVlseg2 (d : VReg) (a : GReg) (m : Option MReg) : VOp := segOp false 2 d a m
def opVlseg3 (d : VReg) (a : GReg) (m : Option MReg) : VOp := segOp false 3 d a m
def opVlseg4 (d : VReg) (a : GReg) (m : Option MReg) : VOp := segOp false 4 d a m
def opVlseg8 (d : VReg) (a : GReg) (m : Option MReg) : VOp := segOp false 8 d a m
def opVsseg2 (d : VReg) (a : GReg) (m : Option MReg) : VOp := segOp true 2 d a m
def opVsseg3 (d : VReg) (a : GReg) (m : Option MReg) : VOp := segOp true 3 d a m
def opVsseg4 (d : VReg) (a : GReg) (m : Option MReg) : VOp := segOp true 4 d a m
def opVsseg8 (d : VReg) (a : GReg) (m : Option MReg) : VOp := segOp true 8 d a m

/-! Fault-only-first (R119). -/

/-- Elements performed in ascending order up to the first that faults, and its fault. -/
def runElems (act : Nat → M (List Wr × Nat)) : List Nat → M (List (List Wr) × Option Trap)
  | [] => pure ([], none)
  | i :: r => do
    match (act i).run.run (← get) with
    | (.ok (ws, _), s) =>
      set s
      let (a, t) ← runElems act r
      return (ws :: a, t)
    | (.error t, s) => set s; return ([], some t)

/-- `vldff`: a fault of memory above the element at which it began cuts VL. -/
def opVldff (d : VReg) (a : GReg) (m : Option MReg) : VOp :=
  let shell := memOp false byteE [a] none true unitAddr d m
  { shell with
    trims := true
    kind := .range fun e start lo hi => do
      let is := (List.range (hi - lo)).map (lo + ·)
      let (ws, t) ← runElems (elemAct e shell (memElem e shell false e.w (fun e i => [(unitAddr e i, 0)]) fun _ _ _ => pure (0, 0))) is
      match t with
      | none => commit e shell is (ws, 0); return e.vl
      | some t =>
        if start < t.telem && t.pois.isNone && (t.cause == 0x04 || t.cause == 0x05 || t.cause == 0x0B) then
          commit e shell is (ws ++ (is.drop ws.length).map fun _ => [], 0)
          modify fun s => s.setSt e.h 0 (BitVec.ofNat 64 t.telem)
          return t.telem
        else
          let upto := if orderedAt (← get) e (unitAddr e t.telem) then t.telem else t.telem / groupSize e shell * groupSize e shell
          let is := is.filter (· < upto)
          commit e shell is (ws.take is.length, 0)
          modify fun s => s.setSt e.h 2 (BitVec.ofNat 64 upto)
          throw t }

/-! Masks and scales (R120). -/

/-- Naturally aligned pieces of n bytes: offset and size. -/
def pieces (n : Nat) : List (Nat × Nat) :=
  (List.range (n / 8)).map (fun i => (8 * i, 8)) ++
  (let o := n / 8 * 8; let r := n % 8
   (if 4 ≤ r then [(o, 4)] else []) ++ (if 2 ≤ r % 4 then [(o + r / 4 * 4, 2)] else []) ++ (if r % 2 = 1 then [(o + r / 2 * 2, 1)] else []))
/-- The pieces moved in ascending order: the value that loaded ones make up.  A fault's TELEM is the offset of its piece; an
address fault goes before a poisoned piece (R114).  DESIGN CHOICE: pieces below a faulting one have been moved (log 21). -/
def runPieces (act : Nat → Nat → M Nat) (pois : Option Trap) : List (Nat × Nat) → M Nat
  | [] => match pois with
    | some t => throw t
    | none => pure 0
  | (o, n) :: r => do
    match (act o n).run.run (← get) with
    | (.ok v, s) =>
      set s
      let x ← runPieces act pois r
      return v * 2 ^ (8 * o) + x
    | (.error t, s) =>
      let t := if t.pois.isSome then t else { t with telem := o }
      if t.cause = 0x0B then runPieces act (pois.or (some t)) r else set s; throw t

/-- One piece of n bytes at va: loaded, or stored from what `data` answers. -/
def movePiece (w : Who) (va n : Nat) (data : Option (M Nat)) : M Nat := do
  match fieldFault (← get) w data.isSome (8 * n) 0 [(va, 0)] with
  | some t =>
    modify fun s => touchAt w (if data.isSome then .store else .load) n s va
    throw t
  | none => pure ()
  match data with
  | some d =>
    let v ← d
    storeV w va n (v % 2 ^ (8 * n))
    return 0
  | none => loadV w va n

/-- Byte o and the following k − 1 of a register with value v and poison marks p. -/
def pieceData (cls : RegClass) (reg v p o k : Nat) : M Nat :=
  match (List.range k).find? fun b => p / 2 ^ (8 * (o + b)) % 256 != 0 with
  | some b => poisonTrap cls reg (8 * (o + b)) 8 reg (o + b)
  | none => pure (v / 2 ^ (8 * o))

/-- n bytes at base, which must be a multiple of `align` where any is moved: loaded, or stored from what `data` gives for an
offset and a size. -/
def moveBytes (e : Env) (base align n : Nat) (data : Option (Nat → Nat → M Nat)) : M Nat := do
  if n ≠ 0 ∧ base % align ≠ 0 then trap 0x03 base
  let w := e.who (← get)
  runPieces (fun o k => movePiece w ((base + o) % 2 ^ 64) k (data.map fun f => f o k)) none (pieces n)

/-- A mask or scale move: neither split nor started at VSI; in control-thread code only. -/
def moveOp (unit : Nat) (a : GReg) (dsts : List Dst) (act : Env → M Unit) : VOp where
  unit := unit
  ctlOnly := true
  noVsi := true
  gops := [a]
  check := byteE
  dsts := fun _ => dsts
  kind := .whole act
def opMld (d : MReg) (a : GReg) : VOp := moveOp 0 a [.m d.val] fun e => do
  let v ← moveBytes e (e.gv 0).toNat 8 ((e.vl + 7) / 8) none
  if 0 < e.vl then modify fun s => applyWr e s ⟨.mask, d.val, 0, e.vl, v % 2 ^ e.vl, 0⟩
def opMst (d : MReg) (a : GReg) : VOp := moveOp 1 a [] fun e => do
  let c := ((← get).hart e.h).c
  let _ ← moveBytes e (e.gv 0).toNat 8 ((e.vl + 7) / 8) (some (pieceData .mask d.val (c.m[d].toNat % 2 ^ e.vl) (c.mPois[d].toNat % 2 ^ e.vl)))
def opKld (d : KReg) (a : GReg) : VOp := moveOp 0 a [] fun e => do
  let v ← moveBytes e (e.gv 0).toNat 64 512 none
  modify fun s => applyWr e s ⟨.scale, d.val, 0, 4096, v, 0⟩
def opKst (d : KReg) (a : GReg) : VOp := moveOp 1 a [] fun e => do
  let c := ((← get).hart e.h).c
  let _ ← moveBytes e (e.gv 0).toNat 64 512 (some (pieceData .scale d.val c.k[d].toNat c.kPois[d].toNat))

/-! Scatter atomics (R121, R122). -/

/-- The combined update of one address, and its flags. -/
def combineAll (f : Nat → Nat → Nat × Nat) : List Nat → Nat × Nat
  | [] => (0, 0)
  | x :: r => r.foldl (fun acc y => let (v, g) := f acc.1 y; (v, acc.2 ||| g)) (x, 0)
/-- The updates, one distinct address after another: flags, and what failed at a home, a poisoned word or an error that a
peer answers, each with the lowest element that names the word. -/
def scatter (e : Env) (f : Nat → Nat → Nat × Nat) : List Nat → List (Nat × Nat × Nat) → M (Nat × List Trap)
  | [], _ => pure (0, [])
  | va :: r, xs => do
    let mine := xs.filter fun p => p.2.1 == va
    let (c, fl) := combineAll f (mine.map fun p => p.2.2)
    let s ← get
    let at_ := (mine.head?.map (·.1)).getD 0
    let (fl, bad) : Nat × List Trap ← match (atElem at_ (atomicV (e.who s) va (e.w / 8) false fun old => some (f old c).1)).run.run s with
      | (.ok old, s) => do
        set s
        pure (fl ||| (f old c).2, [])
      | (.error t, s) => do
        set s
        pure (fl, [t])
    let (fl', bad') ← scatter e f r xs
    return (fl ||| fl', bad ++ bad')

def atomShell (check : Env → Bool) (d : VReg) (a : GReg) (b : VReg) (m : Option MReg) : VOp where
  unit := 1
  ctlOnly := true
  mask := m
  noVsi := true
  gops := [a]
  check := fun e => check e && indexE e
  wide := widest
  index := fun e => some (e.src2 b)
  srcs := fun e => [e.src d]
  kind := .whole fun _ => pure ()
def atomOp (check : Env → Bool) (f : Env → Nat → Nat → Nat × Nat) (d : VReg) (a : GReg) (b : VReg) (m : Option MReg) : VOp :=
  let shell := atomShell check d a b m
  { shell with kind := .whole fun e => do
      let (is, ms) ← actives e shell (List.range e.vl)
      let (_, ts) ← readElems (e.el2 b) is
      let s ← get
      let unknown := (ms ++ ts).map (·.telem)
      match (is.filter fun i => !unknown.contains i).findSome? fun i => match vAddr s (e.who s) .atomic (indexAddr e i) e.w with
          | .error t => some { t with telem := i }
          | .ok _ => none with
      | some t =>
        modify fun s => (is.filter (· ≤ t.telem)).foldl (fun s i => touchAt (e.who s) .atomic (e.w / 8) s (indexAddr e i)) s
        throw t
      | none => pure ()
      let (vs, us) ← readElems (e.el d) is
      throwLowest (ms ++ ts ++ us)
      let xs := (is.zip vs).map fun p => (p.1, indexAddr e p.1, p.2)
      let (fl, bad) ← scatter e (f e) ((xs.map fun p => p.2.1).eraseDups) xs
      modify fun s => s.orFlags e.h fl
      throwLowest bad }
def wordE (e : Env) : Bool := e.ew == 2 || e.ew == 3
def opVxadd (d : VReg) (a : GReg) (b : VReg) (m : Option MReg) : VOp := atomOp wordE (fun e c x => ((c + x) % 2 ^ e.w, 0)) d a b m
def opVxfadd (d : VReg) (a : GReg) (b : VReg) (m : Option MReg) : VOp :=
  atomOp (fun e => e.ew == 8 || e.ew == 9) (fun e c x => fpAdd e.ew e.fp c x) d a b m
def opVxmax (d : VReg) (a : GReg) (b : VReg) (m : Option MReg) : VOp := atomOp wordE (fun e c x => (if sgn e.w c < sgn e.w x then x else c, 0)) d a b m
def opVxmin (d : VReg) (a : GReg) (b : VReg) (m : Option MReg) : VOp := atomOp wordE (fun e c x => (if sgn e.w x < sgn e.w c then x else c, 0)) d a b m
def opVxand (d : VReg) (a : GReg) (b : VReg) (m : Option MReg) : VOp := atomOp wordE (fun _ c x => (c &&& x, 0)) d a b m
def opVxorAtomic (d : VReg) (a : GReg) (b : VReg) (m : Option MReg) : VOp := atomOp wordE (fun _ c x => (c ||| x, 0)) d a b m
def opVxmaxu (d : VReg) (a : GReg) (b : VReg) (m : Option MReg) : VOp := atomOp wordE (fun _ c x => (max c x, 0)) d a b m
def opVxminu (d : VReg) (a : GReg) (b : VReg) (m : Option MReg) : VOp := atomOp wordE (fun _ c x => (min c x, 0)) d a b m

end Sys2Proof.Machine
end

