-- ==== Sys2Proof/Machine/Matrix.lean ====
section
/-! DEFINITION. The matrix unit: `mma`, `mzero` and the drains (10 R168 to R182, 02 R42). -/
namespace Sys2Proof.Machine

/-! Accumulators (R168): element (m, n) of a tile stands at bit (m × lanes × 8 + n) × 32, as its VSAVE image does (R169). -/

def accIndex (lanes m n : Nat) : Nat := m * lanes * 8 + n
def accElem (s : State) (h : HartId) (lanes : Nat) (t : AReg) (m n : Nat) : Nat :=
  let b := 32 * accIndex lanes m n
  bitsOf ((s.hart h).live.acc[t]).toNat (b + 31) b
def accPoisoned (s : State) (h : HartId) (lanes : Nat) (t : AReg) (m n : Nat) : Bool :=
  let b := 32 * accIndex lanes m n
  bitsOf ((s.hart h).live.aPois[t]).toNat (b + 31) b != 0
def setAcc (h : HartId) (lanes : Nat) (t : AReg) (s : State) (x : Nat × Nat × Nat) : State :=
  let b := 32 * accIndex lanes x.1 x.2.1
  s.onLive h fun l => { l with
    acc := l.acc.set t (BitVec.ofNat 262144 (putBits l.acc[t].toNat (b + 31) b x.2.2))
    aPois := l.aPois.set t (BitVec.ofNat 262144 (putBits l.aPois[t].toNat (b + 31) b 0)) }
/-- The tag of aT: true I32 (R169). -/
def accTag (s : State) (h : HartId) (t : AReg) : Bool := (s.hart h).c.accst.toNat / 2 ^ (4 + t.val) % 2 == 1
/-- tag[T] := i32 and ADIRTY[T] := 1. -/
def markAcc (h : HartId) (t : AReg) (i32 : Bool) (s : State) : State :=
  s.onCtx h fun c => { c with accst := BitVec.ofNat 64 (putBits (putBits c.accst.toNat t.val t.val 1) (4 + t.val) (4 + t.val) i32.toNat) }

/-! `mma` (R170 to R176). -/

/-- The combinations of R173. -/
def mmaPair (ew ew2 : Nat) (i32 : Bool) : Bool :=
  if i32 then (ew == 0 && ew2 == 0) || (ew == 4 && ew2 == 4)
  else (ew == 6 && ew2 == 6) || (ew == 7 && ew2 == 7) || ((ew == 10 || ew == 11) && (ew2 == 10 || ew2 == 11))
    || (ew == 12 && ew2 == 12) || (ew == 6 && ew2 == 13) || ((ew == 10 || ew == 11) && ew2 == 13)

/-- An exact sum of terms, and NV where it holds both infinities (R42). -/
def sumFV (ts : List FV) : FV × Nat :=
  let pos := ts.any fun x => match x with | .inf false => true | _ => false
  let neg := ts.any fun x => match x with | .inf true => true | _ => false
  if pos && neg then (.nan false, fNV)
  else if ts.any FV.isNaN then (.nan false, 0)
  else if pos then (.inf false, 0)
  else if neg then (.inf true, 0)
  else
    let q := ts.foldl (fun a x => match x with | .fin _ m e _ => if m = 0 then a else min a e | _ => a) (0 : Int)
    let v := ts.foldl (fun a x => match x with | .fin n m e _ => if m = 0 then a else a + unitsOf n m e q | _ => a) (0 : Int)
    if v = 0 then (.fin (ts.all FV.neg?) 0 0 false, 0) else (ofInt v q, 0)

/-- One accumulator element (R42, R174): the pattern and the flags. -/
def mmaElem (i32 : Bool) (terms : List (FV × FV)) (ints : List (Int × Int)) (old : Option Nat) (w : Nat) : Nat × Nat :=
  if i32 then
    (wrapTo w (ints.foldl (fun s p => s + p.1 * p.2) (match old with | some x => sgn w x | none => 0)), 0)
  else
    let ps := terms.map fun p => mulFV p.1 p.2
    let o := match old with | some x => [decodeFP 8 x] | none => []
    let (r, g) := sumFV (ps.map (·.1) ++ o)
    let (v, f) := roundFP 8 0 r
    (v, f ||| g ||| ps.foldl (fun a p => a ||| p.2) (nvOf o))

structure MmaOp where
  t : AReg
  b : VReg
  a : Fin 32
  asrc : Bool
  tr : Bool
  i32 : Bool
  accum : Bool
  m : Nat

/-- The address of A[m, k] and the bit of its byte (R172). -/
def mmaAddr (e : Env) (x : MmaOp) (m k : Nat) : Nat × Nat :=
  let row := if x.tr then k else m
  let j := if x.tr then m else k
  let p := (e.gv 1).toNat
  let lin := ((e.gv 0).toNat + row * (p % 2 ^ 20) + j * e.w / 8) % 2 ^ 64
  let rot := (p / 2 ^ 40 % 8 * row) % 32
  (putBits lin 10 6 (bitsOf lin 10 6 ^^^ rot), j * e.w % 8)

/-- Index of A[m, k] in a register group, and among its scales (R171, R172). -/
def mmaIndex (e : Env) (x : MmaOp) (m k : Nat) : Nat := if x.tr then k * x.m + m else m * e.G + k

/-- The fault of one A element in memory (R175): addresses, or poison. -/
def mmaFault (s : State) (e : Env) (x : MmaOp) (poison : Bool) (m k : Nat) : Option Trap :=
  let va := (mmaAddr e x m k).1
  let n := max 1 (e.w / 8)
  let t (c : Nat) : Option Trap := some { cause := c, tval := BitVec.ofNat 64 va, telem := m * e.G + k }
  if va % n ≠ 0 then (if poison then none else t 0x03)
  else match xlate s (e.who s) .load va with
    | .error f => if poison then none else some { f with telem := m * e.G + k }
    | .ok y =>
      if y.region != .store then (if poison then none else t 0x05)
      else if poison && poisoned s y.pa n then t 0x0B else none

/-- The fault of one A element in the ring of a load ray: its address, or poison. -/
def mmaRing (s : State) (e : Env) (x : MmaOp) (r : Fin 8) (poison : Bool) (m k : Nat) : Option Trap :=
  let i := mmaIndex e x m k
  let (first, n) := e.strip s r
  if n ≤ i then none
  else match (loadV (e.who s) (ringElem s e.h r (first + i)) (e.w / 8)).run.run s with
    | (.error f, _) => if (f.cause == 0x0B) == poison then some { f with telem := m * e.G + k } else none
    | _ => none
/-- The same wherever A is read from memory. -/
def mmaSource (s : State) (e : Env) (x : MmaOp) (poison : Bool) (m k : Nat) : Option Trap :=
  if x.asrc then mmaFault s e x poison m k
  else (rayOf (s.hart e.h).c x.a.val).bind fun r => mmaRing s e x r poison m k

/-- The positions (m, k), by ascending element index. -/
def mmaCells (e : Env) (x : MmaOp) : List (Nat × Nat) := (List.range (x.m * e.G)).map fun i => (i / e.G, i % e.G)

/-- A[m, k] as a pattern. -/
def mmaA (e : Env) (x : MmaOp) (m k : Nat) : M Nat := do
  if x.asrc then
    let (va, sub) := mmaAddr e x m k
    vLoad (e.who (← get)) va e.w sub
  else srcElem e x.a.val e.ew (mmaIndex e x m k)

/-- The bit of the scale byte of index i, where one is read (R31, R170 to R172). -/
def scaleBit (e : Env) (f i : Nat) : Option Nat := if vtBlock e.vt ≠ 0 ∧ scalable f then some (8 * (i / blockLen e.vt)) else none
/-- A pattern as an effective value (R31). -/
def effective (s : State) (e : Env) (f reg i x : Nat) : FV :=
  let v := decodeFP f x
  match scaleBit e f i with
  | some b =>
    let k := ((s.hart e.h).c.k[reg / 4 % 8]!).toNat
    scaled v (bitsOf k (b + 7) b)
  | none => v

/-- The fault of a poisoned scale byte of that index. -/
def scalePoison (s : State) (e : Env) (f reg i telem : Nat) : Option Trap :=
  let k : Fin 8 := Fin.ofNat 8 (reg / 4)
  (scaleBit e f i).bind fun b =>
    if bitsOf ((s.hart e.h).c.kPois[k]).toNat (b + 7) b = 0 then none
    else some { cause := 0x0B, tval := BitVec.ofNat 64 k.val, telem := telem, pois := some (.scale, k.val, b, 8) }
/-- The fault of a poisoned register element i at width w. -/
def regPoison (s : State) (e : Env) (reg w i telem : Nat) : Option Trap :=
  let j := (reg + elemReg e.lanes w i) % 32
  if elemPoisoned s e.h e.lanes reg w i then
    some { cause := 0x0B, tval := BitVec.ofNat 64 j, telem := telem, pois := some (.vector, j, elemBit e.lanes w i, w) }
  else none
def accPoison (s : State) (e : Env) (t : AReg) (m n telem : Nat) : Option Trap :=
  if accPoisoned s e.h e.lanes t m n then
    some { cause := 0x0B, tval := BitVec.ofNat 64 (0x100 + t.val), telem := telem, pois := some (.accumulator, t.val, 32 * accIndex e.lanes m n, 32) }
  else none

/-- Poisoned data that `mma` reads: an A element or its scale, then a B element or its scale, then an accumulator element
(R175). -/
def mmaPoison (s : State) (e : Env) (x : MmaOp) : Option Trap :=
  let a := (mmaCells e x).findSome? fun p =>
    let i := mmaIndex e x p.1 p.2
    let telem := p.1 * e.G + p.2
    (if x.asrc || (rayOf (s.hart e.h).c x.a.val).isSome then mmaSource s e x true p.1 p.2 else regPoison s e x.a.val e.w i telem).orElse fun _ =>
    if x.i32 then none else scalePoison s e e.ew x.a.val i telem
  let b := ((List.range (e.G * e.vl)).map fun i => (i / e.vl, i % e.vl)).findSome? fun p =>
    let i := p.1 * e.lanes * 8 + p.2
    (regPoison s e (x.b.val + p.1) e.w2 p.2 i).orElse fun _ => if x.i32 then none else scalePoison s e e.ew2 x.b.val i i
  let c := if x.accum then
      ((List.range (x.m * e.vl)).map fun i => (i / e.vl, i % e.vl)).findSome? fun p => accPoison s e x.t p.1 p.2 (p.1 * e.lanes * 8 + p.2)
    else none
  (a.orElse fun _ => b).orElse fun _ => c

def mmaRun (x : MmaOp) (e : Env) : M Unit := do
  if e.vl = 0 then return
  let s ← get
  let bad := (mmaCells e x).findSome? fun p => mmaSource s e x false p.1 p.2
  match bad.orElse fun _ => mmaPoison s e x with
  | some t =>
    -- the walks of the elements up to the faulting one have set A (R303)
    if x.asrc && (bad.isSome || t.pois.isNone) then
      modify fun s => (mmaCells e x).foldl (fun s p =>
        if p.1 * e.G + p.2 ≤ t.telem then touchAt (e.who s) .load (max 1 (e.w / 8)) s (mmaAddr e x p.1 p.2).1 else s) s
    throw t
  | none => pure ()
  let cells := (List.range (x.m * e.vl)).map fun i => (i / e.vl, i % e.vl)
  let as_ ← (mmaCells e x).mapM fun p => mmaA e x p.1 p.2
  let s ← get
  let aOf (m k : Nat) : Nat := as_.getD (m * e.G + k) 0
  let bOf (k n : Nat) : Nat := readElem s e.h e.lanes (x.b.val + k) e.w2 n
  let ks := List.range e.G
  let rs := cells.map fun p =>
    let old := if x.accum then some (accElem s e.h e.lanes x.t p.1 p.2) else none
    let ts := ks.map fun k => (effective s e e.ew x.a.val (mmaIndex e x p.1 k) (aOf p.1 k),
      effective s e e.ew2 x.b.val (k * e.lanes * 8 + p.2) (bOf k p.2))
    let is := ks.map fun k => (sgn e.w (aOf p.1 k), sgn e.w2 (bOf k p.2))
    (p.1, p.2, mmaElem x.i32 (if x.i32 then [] else ts) is old 32)
  set ((markAcc e.h x.t x.i32 (rs.foldl (fun s r => setAcc e.h e.lanes x.t s (r.1, r.2.1, r.2.2.1)) s)).orFlags e.h
    (rs.foldl (fun a r => a ||| r.2.2.2) 0))

def opMma (t : AReg) (b : VReg) (a : Fin 32) (asrc tr i32 accum : Bool) (mm1 : Fin 32) : VOp :=
  let x : MmaOp := ⟨t, b, a, asrc, tr, i32, accum, mm1.val + 1⟩
  { unit := 7
    ctlOnly := true
    noVsi := true
    keepVsi := true
    noTail := true
    gops := if asrc then [a, a + 1] else []
    check := fun e => mmaPair e.ew e.ew2 i32
    srcs := fun e => if asrc then [] else [⟨a.val, e.ew, e.G⟩]
    noRay := fun e => [⟨b.val, e.ew2, e.G⟩]
    atIssue := fun e =>
      if e.lanes * 8 < e.vl then some { cause := 0x01, tval := BitVec.ofNat 64 e.vl }
      else if !asrc ∧ e.lanes * 256 * e.G / e.w < x.m * e.G then some { cause := 0x01, tval := BitVec.ofNat 64 (x.m * e.G) }
      else none
    onIssue := fun e s => if asrc then s.setG e.h a (e.gv 0 + BitVec.ofNat 64 ((e.gv 1).toNat / 2 ^ 20 % 2 ^ 20)) else s
    kind := .whole (mmaRun x) }

/-- `mzero` (R177). -/
def opMzero (t : AReg) : VOp where
  unit := 7
  ctlOnly := true
  noVsi := true
  noTail := true
  kind := .whole fun e => modify fun s =>
    markAcc e.h t false (s.onLive e.h fun l => { l with acc := l.acc.set t 0, aPois := l.aPois.set t 0 })

/-! Drains (R178 to R180). -/

def drainWidth (f : Nat) : Nat := if f = 0 then 32 else if f = 1 ∨ f = 2 ∨ f = 6 then 16 else 8
/-- The conversion of one accumulator element by DFMT (R178). -/
def drainConv (fmt : Nat) (i32 : Bool) (mode x : Nat) : Nat × Nat :=
  let fp (f : Nat) : Nat × Nat := if i32 then intToFp 32 f mode x else fpConvert 8 f mode x
  let int (n : Nat) : Nat × Nat := if i32 then satS n (sgn 32 x) else fpToInt 8 n mode x
  match fmt with
  | 0 => (x, 0)
  | 1 => fp 6 | 2 => fp 7 | 3 => fp 10 | 4 => fp 11 | 5 => int 8 | _ => int 16
/-- Element i of a row, converted; poisoned data is a fault. -/
def drainElem (e : Env) (t : AReg) (fmt row i : Nat) : M (Nat × Nat) := do
  let s ← get
  if accPoisoned s e.h e.lanes t row i then poisonTrap .accumulator t.val (32 * accIndex e.lanes row i) 32 (0x100 + t.val) i
  return drainConv fmt (accTag s e.h t) e.fp (accElem s e.h e.lanes t row i)
def vlFits (e : Env) : Option Trap :=
  if e.lanes * 8 < e.vl then some { cause := 0x01, tval := BitVec.ofNat 64 e.vl } else none
def opMrow (d : VReg) (t : AReg) (row : Fin 32) (fmt : Fin 8) (m : Option MReg) : VOp where
  unit := 7
  ctlOnly := true
  mask := m
  wide := fun _ => 32
  atIssue := vlFits
  rayFmt := fun s e => match fmt.val with
    | 0 => if accTag s e.h t then 2 else 8
    | 1 => 6 | 2 => 7 | 3 => 10 | 4 => 11 | 5 => 0 | _ => 1
  dsts := fun _ => [.v d.val (drainWidth fmt.val) 1]
  kind := .elem fun e i => do
    let (v, fl) ← drainElem e t fmt.val row.val i
    return ([wrElem e d.val (drainWidth fmt.val) i v], fl)
/-- A drain to memory: the row is g[D], captured at issue. -/
def drainOp (index : Option VReg) (gops : List GReg) (addr : Env → Nat → Nat) (t : AReg) (fmt : Fin 8) (m : Option MReg) : VOp where
  unit := 1
  ctlOnly := true
  mask := m
  gops := gops
  wide := fun _ => 32
  check := fun e => index.isNone || indexE e
  index := fun e => index.map fun r => e.src2 r
  atIssue := fun e => if 32 ≤ (e.gv 0).toNat then some { cause := 0x01, tval := e.gv 0 } else vlFits e
  kind := .mem true (fun _ => drainWidth fmt.val) (fun e i => [(addr e i, 0)]) fun e i _ => drainElem e t fmt.val (e.gv 0).toNat i
def opMstr (t : AReg) (d a b : GReg) (fmt : Fin 8) (m : Option MReg) : VOp :=
  drainOp none [d, a, b] (fun e i => (e.gv 1 + BitVec.ofNat 64 i * e.gv 2).toNat) t fmt m
def opMstx (t : AReg) (d a : GReg) (b : VReg) (fmt : Fin 8) (m : Option MReg) : VOp :=
  drainOp (some b) [d, a] (fun e i => ((e.gv 1).toNat + e.ix i) % 2 ^ 64) t fmt m

end Sys2Proof.Machine
end

