-- ==== Sys2Proof/Machine/VUnit.lean ====
section
/-! DEFINITION. The vector unit of a hart: issue into the vector queue, convoys, streams, threaded virtual processors,
vector-side faults and joins (09 R148 to R167, 07 R109, 13 R223, 05 R87 to R89). -/
namespace Sys2Proof.Machine
noncomputable section

/-! The vector queue (R150, R166). -/

def vqPush (s : State) (h : HartId) (x : Vector Word 8) : State :=
  s.onCtx h fun c => { c with vq := c.vq.set! (vqCount c) x, vqcount := BitVec.ofNat 64 (vqCount c + 1) }
/-- Entry k leaves the queue; later entries move up, and the VPs of later fetches with them. -/
def vqDrop (s : State) (h : HartId) (k : Nat) : State :=
  s.onHart h fun x =>
    let c := x.c
    { x with
      c := { c with
        vq := Vector.ofFn fun i : Fin 12 => if k ≤ i.val then (if i.val + 1 < 12 then vqAt c (i.val + 1) else Vector.replicate 8 0) else vqAt c i.val
        vqcount := BitVec.ofNat 64 (vqCount c - 1) }
      live := { x.live with tvps := x.live.tvps.map fun t => if k < t.entry then { t with entry := t.entry - 1 } else t } }
def vqSet (s : State) (h : HartId) (k : Nat) (f : Vector Word 8 → Vector Word 8) : State :=
  s.onCtx h fun c => { c with vq := c.vq.set! (k % 12) (f (vqAt c k)) }

/-- An entry as issue captures it (R150, R166). -/
def mkEntry (e : Env) (begun : Bool) : Vector Word 8 :=
  #v[e.pc, BitVec.ofNat 64 e.enc, BitVec.ofNat 64 e.vt, BitVec.ofNat 64 (e.vl % 8192 + 65536 * (e.rm % 32)), e.gv 0, e.gv 1, e.gv 2,
     BitVec.ofNat 64 begun.toNat]

/-- The environment that an entry holds. -/
def entryEnv (s : State) (h : HartId) (x : Vector Word 8) (thread : Thread) : Env :=
  { h := h, pc := x[0], enc := x[1].toNat, lanes := s.lanes h, vt := x[2].toNat, vl := x[3].toNat % 8192, rm := x[3].toNat / 65536 % 32,
    g := [x[4], x[5], x[6]], thread := thread }

/-! Checks before anything is performed (R87, R123, R124, R174). -/

def srcOk (x : Src) : Bool := x.reg % max 1 x.n == 0
def dstOk : Dst → Bool
  | .v r _ n => r % max 1 n == 0
  | .m _ => true
/-- R124: the same group, or no register in common. -/
def disjointOk (d : Dst) (x : Src) : Bool :=
  match d with
  | .m _ => true
  | .v r w n => (r == x.reg && w == fmtWidth x.fmt && n == x.n) || !overlaps r n x.reg x.n
def operandsOk (e : Env) (op : VOp) : Bool :=
  op.check e && (op.srcs e ++ op.noRay e ++ (op.index e).toList).all srcOk && (op.dsts e).all dstOk
  && (op.overlap || (op.dsts e).all fun d => (op.srcs e).all (disjointOk d))
/-- The trap of an instruction that may not be performed, at its own address. -/
def issueTrap (e : Env) (op : VOp) : Option Trap :=
  if vtIll e.vt then some { cause := 0x0D, tval := BitVec.ofNat 64 e.vt }
  else if !operandsOk e op then some { cause := 0x01, tval := BitVec.ofNat 64 e.enc }
  else op.atIssue e

/-- Home groups on loan: the borrowers are asked for them and the control thread stalls (R223). -/
def recallHome (s : State) (h : HartId) : State :=
  s.onTile (tileOf h) fun t =>
    let w := t.slots[slotOf h]
    { t with slots := (List.finRange 8).foldl (fun v i =>
        if i ≠ slotOf h ∧ (List.range 8).any (fun g => slotHF w ≤ g && g < slotHF w + slotHN w && holderOf t g == i.val) then
          v.set i (v[i] ||| 0x1000000#64) else v) t.slots }
/-- The control thread stalls at a vector instruction while a home group is on loan (R223). -/
def loanStall (h : HartId) : M Unit := do
  if homeOnLoan (← get) h then
    modify fun s => recallHome s h
    waitIn h .lent


/-- The vector instruction of a constructor, and whether it is a convoy member that others follow (R162). -/
def vopOf (i : Instr) : Option (VOp × Bool) :=
  match i with
  | .vld d a m c => some (opVld d a m, c)
  | .vlds d a b m c => some (opVlds d a b m, c)
  | .vldx d a b m c => some (opVldx d a b m, c)
  | .vldff d a m c => some (opVldff d a m, c)
  | .vlseg2 d a m c => some (opVlseg2 d a m, c)
  | .vlseg3 d a m c => some (opVlseg3 d a m, c)
  | .vlseg4 d a m c => some (opVlseg4 d a m, c)
  | .vlseg8 d a m c => some (opVlseg8 d a m, c)
  | .mld d a c => some (opMld d a, c)
  | .kld d a c => some (opKld d a, c)
  | .vst d a m c => some (opVst d a m, c)
  | .vsts d a b m c => some (opVsts d a b m, c)
  | .vstx d a b m c => some (opVstx d a b m, c)
  | .vstxo d a b m c => some (opVstxo d a b m, c)
  | .vsseg2 d a m c => some (opVsseg2 d a m, c)
  | .vsseg3 d a m c => some (opVsseg3 d a m, c)
  | .vsseg4 d a m c => some (opVsseg4 d a m, c)
  | .vsseg8 d a m c => some (opVsseg8 d a m, c)
  | .mst d a c => some (opMst d a, c)
  | .kst d a c => some (opKst d a, c)
  | .vaddVv d a b m c => some (opVaddVv d a b m, c)
  | .vsubVv d a b m c => some (opVsubVv d a b m, c)
  | .vrsubVv d a b m c => some (opVrsubVv d a b m, c)
  | .vandVv d a b m c => some (opVandVv d a b m, c)
  | .vorVv d a b m c => some (opVorVv d a b m, c)
  | .vxorVv d a b m c => some (opVxorVv d a b m, c)
  | .vsllVv d a b m c => some (opVsllVv d a b m, c)
  | .vsrlVv d a b m c => some (opVsrlVv d a b m, c)
  | .vsraVv d a b m c => some (opVsraVv d a b m, c)
  | .vminVv d a b m c => some (opVminVv d a b m, c)
  | .vmaxVv d a b m c => some (opVmaxVv d a b m, c)
  | .vminuVv d a b m c => some (opVminuVv d a b m, c)
  | .vmaxuVv d a b m c => some (opVmaxuVv d a b m, c)
  | .vmulVv d a b m c => some (opVmulVv d a b m, c)
  | .vmulhVv d a b m c => some (opVmulhVv d a b m, c)
  | .vmergeVv d a b m c => some (opVmergeVv d a b m, c)
  | .vaddVx d a b m c => some (opVaddVx d a b m, c)
  | .vsubVx d a b m c => some (opVsubVx d a b m, c)
  | .vrsubVx d a b m c => some (opVrsubVx d a b m, c)
  | .vandVx d a b m c => some (opVandVx d a b m, c)
  | .vorVx d a b m c => some (opVorVx d a b m, c)
  | .vxorVx d a b m c => some (opVxorVx d a b m, c)
  | .vsllVx d a b m c => some (opVsllVx d a b m, c)
  | .vsrlVx d a b m c => some (opVsrlVx d a b m, c)
  | .vsraVx d a b m c => some (opVsraVx d a b m, c)
  | .vminVx d a b m c => some (opVminVx d a b m, c)
  | .vmaxVx d a b m c => some (opVmaxVx d a b m, c)
  | .vminuVx d a b m c => some (opVminuVx d a b m, c)
  | .vmaxuVx d a b m c => some (opVmaxuVx d a b m, c)
  | .vmulVx d a b m c => some (opVmulVx d a b m, c)
  | .vmulhVx d a b m c => some (opVmulhVx d a b m, c)
  | .vmergeVx d a b m c => some (opVmergeVx d a b m, c)
  | .vaddVi d a i m c => some (opVaddVi d a i m, c)
  | .vsubVi d a i m c => some (opVsubVi d a i m, c)
  | .vrsubVi d a i m c => some (opVrsubVi d a i m, c)
  | .vandVi d a i m c => some (opVandVi d a i m, c)
  | .vorVi d a i m c => some (opVorVi d a i m, c)
  | .vxorVi d a i m c => some (opVxorVi d a i m, c)
  | .vsllVi d a i m c => some (opVsllVi d a i m, c)
  | .vsrlVi d a i m c => some (opVsrlVi d a i m, c)
  | .vsraVi d a i m c => some (opVsraVi d a i m, c)
  | .vminVi d a i m c => some (opVminVi d a i m, c)
  | .vmaxVi d a i m c => some (opVmaxVi d a i m, c)
  | .vminuVi d a i m c => some (opVminuVi d a i m, c)
  | .vmaxuVi d a i m c => some (opVmaxuVi d a i m, c)
  | .vmulVi d a i m c => some (opVmulVi d a i m, c)
  | .vmulhVi d a i m c => some (opVmulhVi d a i m, c)
  | .vmergeVi d a i m c => some (opVmergeVi d a i m, c)
  | .vsadd d a b m c => some (opVsadd d a b m, c)
  | .vsaddu d a b m c => some (opVsaddu d a b m, c)
  | .vssub d a b m c => some (opVssub d a b m, c)
  | .vssubu d a b m c => some (opVssubu d a b m, c)
  | .vaadd d a b m c => some (opVaadd d a b m, c)
  | .vaaddu d a b m c => some (opVaaddu d a b m, c)
  | .vsmul d a b m c => some (opVsmul d a b m, c)
  | .vssrl d a n m c => some (opVssrl d a n m, c)
  | .vssra d a n m c => some (opVssra d a n m, c)
  | .vnsrl d a n m c => some (opVnsrl d a n m, c)
  | .vnsra d a n m c => some (opVnsra d a n m, c)
  | .vnclip d a n m c => some (opVnclip d a n m, c)
  | .vnclipu d a n m c => some (opVnclipu d a n m, c)
  | .vwadd d a b m c => some (opVwadd d a b m, c)
  | .vwaddu d a b m c => some (opVwaddu d a b m, c)
  | .vwsub d a b m c => some (opVwsub d a b m, c)
  | .vwsubu d a b m c => some (opVwsubu d a b m, c)
  | .vwmul d a b m c => some (opVwmul d a b m, c)
  | .vwmulu d a b m c => some (opVwmulu d a b m, c)
  | .vwmulsu d a b m c => some (opVwmulsu d a b m, c)
  | .vwmacc d a b m c => some (opVwmacc d a b m, c)
  | .vwmaccu d a b m c => some (opVwmaccu d a b m, c)
  | .vwmaccsu d a b m c => some (opVwmaccsu d a b m, c)
  | .vqmacc d a b m c => some (opVqmacc d a b m, c)
  | .vseq d a b m c => some (opVseq d a b m, c)
  | .vsne d a b m c => some (opVsne d a b m, c)
  | .vslt d a b m c => some (opVslt d a b m, c)
  | .vsltu d a b m c => some (opVsltu d a b m, c)
  | .vsle d a b m c => some (opVsle d a b m, c)
  | .vsleu d a b m c => some (opVsleu d a b m, c)
  | .vsgt d a b m c => some (opVsgt d a b m, c)
  | .vsgtu d a b m c => some (opVsgtu d a b m, c)
  | .vadc d a b m c => some (opVadc d a b m, c)
  | .vmadc d a b m c => some (opVmadc d a b m, c)
  | .vsbc d a b m c => some (opVsbc d a b m, c)
  | .vmsbc d a b m c => some (opVmsbc d a b m, c)
  | .mand d a b c => some (opMand d a b, c)
  | .mor d a b c => some (opMor d a b, c)
  | .mxor d a b c => some (opMxor d a b, c)
  | .mandn d a b c => some (opMandn d a b, c)
  | .mnot d a c => some (opMnot d a, c)
  | .mshl d a b c => some (opMshl d a b, c)
  | .mpop d a c => some (opMpop d a, c)
  | .mfirst d a c => some (opMfirst d a, c)
  | .mlast d a c => some (opMlast d a, c)
  | .mset d c => some (opMset d, c)
  | .mclr d c => some (opMclr d, c)
  | .mmv d a c => some (opMmv d a, c)
  | .mtop d a c => some (opMtop d a, c)
  | .mfromv d a c => some (opMfromv d a, c)
  | .mtov d a c => some (opMtov d a, c)
  | .vfadd d a b m c => some (opVfadd d a b m, c)
  | .vfsub d a b m c => some (opVfsub d a b m, c)
  | .vfmul d a b m c => some (opVfmul d a b m, c)
  | .vfdiv d a b m c => some (opVfdiv d a b m, c)
  | .vfmin d a b m c => some (opVfmin d a b m, c)
  | .vfmax d a b m c => some (opVfmax d a b m, c)
  | .vfsqrt d a m c => some (opVfsqrt d a m, c)
  | .vfmacc d a b m c => some (opVfmacc d a b m, c)
  | .vfnmacc d a b m c => some (opVfnmacc d a b m, c)
  | .vfmsac d a b m c => some (opVfmsac d a b m, c)
  | .vfeq d a b m c => some (opVfeq d a b m, c)
  | .vflt d a b m c => some (opVflt d a b m, c)
  | .vfle d a b m c => some (opVfle d a b m, c)
  | .vfsgnj d a b m c => some (opVfsgnj d a b m, c)
  | .vfsgnjn d a b m c => some (opVfsgnjn d a b m, c)
  | .vfabs d a m c => some (opVfabs d a m, c)
  | .vexp2 d a m c => some (opVexp2 d a m, c)
  | .vlog2 d a m c => some (opVlog2 d a m, c)
  | .vrcp d a m c => some (opVrcp d a m, c)
  | .vrsqrt d a m c => some (opVrsqrt d a m, c)
  | .vtanh d a m c => some (opVtanh d a m, c)
  | .vsigm d a m c => some (opVsigm d a m, c)
  | .vslup d a b m c => some (opVslup d a b m, c)
  | .vsldn d a b m c => some (opVsldn d a b m, c)
  | .vrgat d a b m c => some (opVrgat d a b m, c)
  | .vscat d a b m c => some (opVscat d a b m, c)
  | .vcomp d a m c => some (opVcomp d a m, c)
  | .vcapp a b m c => some (opVcapp a b m, c)
  | .vredsum d a b m c => some (opVredsum d a b m, c)
  | .vredmax d a b m c => some (opVredmax d a b m, c)
  | .vredmin d a b m c => some (opVredmin d a b m, c)
  | .vfredsum d a b m c => some (opVfredsum d a b m, c)
  | .vid d m c => some (opVid d m, c)
  | .viota d a m c => some (opViota d a m, c)
  | .vmvsg d a m c => some (opVmvsg d a m, c)
  | .vmvgs d a m c => some (opVmvgs d a m, c)
  | .vbcast d a m c => some (opVbcast d a m, c)
  | .vfredmax d a b m c => some (opVfredmax d a b m, c)
  | .vxadd d a b m c => some (opVxadd d a b m, c)
  | .vxfadd d a b m c => some (opVxfadd d a b m, c)
  | .vxmax d a b m c => some (opVxmax d a b m, c)
  | .vxmin d a b m c => some (opVxmin d a b m, c)
  | .vxand d a b m c => some (opVxand d a b m, c)
  | .vxorAtomic d a b m c => some (opVxorAtomic d a b m, c)
  | .vxmaxu d a b m c => some (opVxmaxu d a b m, c)
  | .vxminu d a b m c => some (opVxminu d a b m, c)
  | .vcvtf d a m c => some (opVcvtf d a m, c)
  | .vcvtfi d a m c => some (opVcvtfi d a m, c)
  | .vcvtif d a m c => some (opVcvtif d a m, c)
  | .vdenc d a m c => some (opVdenc d a m, c)
  | .vddec d a m c => some (opVddec d a m, c)
  | .vscl d a m c => some (opVscl d a m, c)
  | .vqnt d a m c => some (opVqnt d a m, c)
  | .mma t b a asrc tr i32 accum mm1 c => some (opMma t b a asrc tr i32 accum mm1, c)
  | .mzero t c => some (opMzero t, c)
  | .mrow d t row fmt m c => some (opMrow d t row fmt m, c)
  | .mstr t d a b fmt m c => some (opMstr t d a b fmt m, c)
  | .mstx t d a b fmt m c => some (opMstx t d a b fmt m, c)
  | _ => none

/-! Convoys (R89, R162, R163). -/

/-- A member: its operation, where it stands, its encoding and length. -/
structure Member where
  op : VOp
  pc : Word
  enc : Nat
  more : Bool

def Member.len (m : Member) : Nat := parcelLen m.enc

/-- The members from va on, up to the one with C = 0.  `left` is the encoding of the instruction before, `first` the
first member's address, `inside` says whether an address holds an instruction of the same facet.  DESIGN CHOICE: where the
facet's end leaves the convoy open and no instruction follows, TVAL is the last member's encoding (log 19). -/
def gather (w : Who) (facet : Bool) (inside : Word → Bool) (ok : VOp → Bool) (first : Word) : Nat → Word → Nat → M (List Member)
  | 0, _, left => throw { cause := 0x01, tval := BitVec.ofNat 64 left, tpc := some first }
  | n + 1, va, left => do
    if !inside va then throw { cause := 0x01, tval := BitVec.ofNat 64 left, tpc := some first }
    let bits ← (match (fetchAt w facet va.toNat).run.run (← get) with
      | (.ok v, s) => do set s; return v
      | (.error t, _) => throw { t with tpc := some va } : M Nat)
    let enc := encBits bits
    let no : M (List Member) := throw { cause := 0x01, tval := BitVec.ofNat 64 enc, tpc := some first }
    match decode enc with
    | none => throw { cause := 0x01, tval := BitVec.ofNat 64 enc, tpc := some va }
    | some i =>
      match vopOf i with
      | none => no
      | some (op, c) =>
        if op.keepVsi || op.unit == 7 && op.noTail then no          -- `mma` and `mzero` (R181)
        else if !ok op then throw { cause := 0x01, tval := BitVec.ofNat 64 enc, tpc := some va }
        else
          let m : Member := ⟨op, va, enc, c⟩
          if c then do
            let r ← gather w facet inside ok first n (va + BitVec.ofNat 64 (parcelLen enc)) enc
            return m :: r
          else return [m]

/-- The address of the first member that finds its unit taken (R163). -/
def conflict : List Nat → List (Nat × Word) → Option Word
  | _, [] => none
  | used, (unit, pc) :: r => if used.contains unit then some pc else conflict (unit :: used) r

/-- A member after any of whose groups a stop may be taken. -/
def splits (e : Env) (op : VOp) : Bool := !noSplit e op && !op.trims && !crosses op

/-- The register state that a convoy holds back until all its members have done a group (R162). -/
def takeBack (old : Hart) (x : Hart) : Hart :=
  { x with
    c := { x.c with g := old.c.g, m := old.c.m, k := old.c.k, mPois := old.c.mPois, kPois := old.c.kPois, hw := old.c.hw, st := old.c.st }
    live := { x.live with v := old.live.v, vPois := old.live.vPois, tvps := old.live.tvps } }

/-- A fault of a member, with TPC at that member. -/
def atMember (pc : Word) (t : Trap) : Trap := { t with tpc := some (t.tpc.getD pc) }

/-- A computation whose faults are those of the member at pc. -/
def within {α : Type} (pc : Word) (m : M α) : M α := do
  match m.run.run (← get) with
  | (.ok a, s) => set s; return a
  | (.error t, s) => set s; throw (atMember pc t)

/-- Every member performs the elements from lo to before hi of a convoy that went on at `start`; with `first` each begins before
it does.  A strip or a load that is cut short cuts VL for the members that follow (R109, R119, R189).  Answers the members with
the VL that then holds, or the fault of one.  `again` leaves out a `vcapp`, which has appended. -/
def convoyGroup (first again : Bool) (start lo hi cut m : Nat) : List (Env × VOp) → M (List (Env × VOp) × Option Trap)
  | [] => pure ([], none)
  | (e, op) :: r => do
    let e := if e.thread == .control then { e with vl := min e.vl cut } else e
    let skip := again && !op.trims && (match op.kind with | .range _ => true | _ => false)
    let go : M (Env × Nat) := within e.pc do
      let b ← if first then beginOp e op else pure e
      let s ← get
      let b := if first && noSplit b op then withIndex s b op else b
      return (b, ← if skip then pure b.vl else runPart b op start lo hi m)
    match go.run.run (← get) with
    | (.ok (b, vl), s) =>
      set s
      let (rest, t) ← convoyGroup first again start lo hi (if vl < e.vl then vl else cut) (m + 1) r
      return (({ b with vl := vl }, op) :: rest, t)
    | (.error t, s) => set s; return ([], some t)

/-- The convoy's end: tails, marks, VSI, rays. -/
def convoyEnd (ms : List (Env × VOp)) : M Unit := ms.forM fun p => endOp p.1 p.2

/-- The rays that an instruction's sources or destinations start at. -/
def raysOf (s : State) (store : Bool) (p : Env × VOp) : List (Fin 8) :=
  let c := (s.hart p.1.h).c
  if store then (p.2.dsts p.1).filterMap fun d => match d with | .v r _ _ => rayOf c r | .m _ => none
  else ((p.2.srcs p.1).filterMap fun x => rayOf c x.reg).eraseDups
/-- Two members name one ray. -/
def sharesRay (s : State) (store : Bool) (ms : List (Env × VOp)) : Bool :=
  !decide ((ms.flatMap (raysOf s store)).Nodup)
/-- A member's index group, which it reads whole before it writes any element (R117), is written by a member before it. -/
def indexChained : List (Env × VOp) → Bool
  | [] => false
  | p :: r =>
    (r.any fun q => noSplit q.1 q.2 && match q.2.index q.1 with
      | some x => (p.2.dsts p.1).any fun d => match d with | .v a _ n => overlaps a n x.reg x.n | .m _ => false
      | none => false) || indexChained r

/-- Part of a convoy: the group that all members share, up to their next common boundary, or all of it.  A fault takes back
every uncommitted write and leaves VSI at the start of the faulting group.  A `vcapp` that fills its queue has appended the
elements below the one in VSI, so what the members do with those is committed (R147, R162).  A member that acts across
elements computes no group before it has all, so such a convoy has no boundary inside; nor has one whose members append to one
ray, each after the last (R190).  Members that are not split, or pop strips of one ray, let no stop in between.  True when it
has completed. -/
def stepConvoy (h : HartId) (ms : List (Env × VOp)) (all first : Bool) (start : Nat) : Nat → M Bool
  | 0 => pure true
  | n + 1 => do
    let s0 ← get
    let x0 := s0.hart h
    let vl := (ms.map fun p => p.1.vl).foldl max 0
    let vp := ms.any fun p => match p.1.thread with | .vp _ => true | _ => false
    let size := (ms.map fun p => groupSize p.1 p.2).foldl max 1
    let lo := x0.c.vsi
    let whole := (ms.any fun p => crosses p.2) || indexChained ms || sharesRay s0 true ms
    let hi := if whole then vl else min vl ((lo / size + 1) * size)
    let leave (v : Nat) (t : Trap) : M Bool := do
      if !vp then modify fun s => s.setSt h 2 (BitVec.ofNat 64 v)
      throw t
    let (ms', bad) ← convoyGroup first false start lo hi 4096 0 ms
    match bad with
    | none =>
      if vp || (ms'.map fun p => p.1.vl).foldl max 0 ≤ hi then convoyEnd ms'; return true
      modify fun s => s.setSt h 2 (BitVec.ofNat 64 hi)
      if all || sharesRay s0 false ms || !(ms.all fun p => splits p.1 p.2) then stepConvoy h ms' all false start n else return false
    | some t =>
      modify fun s => s.onHart h (takeBack x0)
      if t.cause = 0x10 then
        let (_, bad') ← convoyGroup true true start lo t.telem 4096 0 ms
        match bad' with
        | none => leave t.telem t
        | some t' =>
          modify fun s => s.onHart h (takeBack x0)
          leave lo t'
      else leave lo t

/-- The trap of a convoy two of whose members need one unit: TPC is the first member, TVAL the address of the first
member that found its unit taken, TELEM 0 (R163). -/
def conflictTrap (ms : List (Env × VOp)) : Option Trap :=
  match ms with
  | [] => none
  | (e, _) :: _ => (conflict [] (ms.map fun p => (p.2.unit, p.1.pc))).map fun a => { cause := 0x02, tval := a, tpc := some e.pc }

/-- One instruction or a convoy, in part or whole.  The vector unit assigns the units before any member executes, so
that a conflict is a fault of the vector unit (R163, R164; DEDUCED, log 19). -/
def runMembers (h : HartId) (ms : List (Env × VOp)) (all : Bool) : M Bool :=
  match ms with
  | [(e, op)] => within e.pc (stepOp e op all)
  | _ => match conflictTrap ms with
    | some t => throw t
    | none => get >>= fun s => stepConvoy h ms all true (s.hart h).c.vsi 4096

/-- The members of a faulted convoy as its queue entries show them: a `vldff` that has cut VL has cut it for itself and for those
that follow (R109, R119). -/
def trimmed (v : Nat) : List (Env × VOp) → List (Env × VOp)
  | [] => []
  | (e, op) :: r =>
    if op.trims then ((e, op) :: r).map fun p => ({ p.1 with vl := min p.1.vl v }, p.2) else (e, op) :: trimmed v r

/-! Issue by the control thread (R150, R164). -/

/-- What issue captures (R109, R150). -/
def ctlEnv (s : State) (pc : Word) (enc : Nat) (op : VOp) : Env :=
  let h := s.me
  let c := (s.hart h).c
  { h := h, pc := pc, enc := enc, lanes := s.lanes h, vt := c.vt, vl := c.vl, rm := c.st[3].toNat, g := op.gops.map s.r, thread := .control }

/-- A queued instruction of the control thread may still cut VL, so one that uses VL is not issued yet; a unit that a fault
froze is not waited for (R109, R164, R189). -/
def trimPending (s : State) (h : HartId) : Bool :=
  let x := s.hart h
  !(x.live.frozen && !vDue x) && (List.range (vqCount x.c)).any fun k =>
    match (decode (vqAt x.c k)[1].toNat).bind vopOf with
    | some (op, _) => op.trims || (op.srcs (entryEnv s h (vqAt x.c k) .control)).any fun y =>
        match rayBound x.c y.reg with
        | some r => !rayDir s h r
        | none => false
    | none => false

/-- PC moves past the members, and the wait ends. -/
def passMembers (s : State) (ms : List Member) : State := retire s ((ms.map Member.len).foldl (· + ·) 0)

def ctlIssue (i : Instr) (op : VOp) (c : Bool) : M Unit := do
  let s ← get
  let h := s.me
  loanStall h
  if trimPending s h then waitIn h .join
  let pc := s.pc
  let enc := encode i
  let e := ctlEnv s pc enc op
  if (op.keepVsi || op.unit == 7 && op.noTail) && c then throw { cause := 0x01, tval := BitVec.ofNat 64 enc }
  let rest ← if c then gather (whoS s h) false (fun _ => true) (fun _ => true) pc (2 ^ 52) (pc + BitVec.ofNat 64 (parcelLen enc)) enc else pure []
  let ms : List Member := ⟨op, pc, enc, c⟩ :: rest
  let s ← get
  let es := ms.map fun m => (ctlEnv s m.pc m.enc m.op, m.op)
  match es.findSome? fun p => (issueTrap p.1 p.2).map (atMember p.1.pc) with
  | some t => throw t
  | none => pure ()
  let x := s.hart h
  let sync := es.any fun p => p.2.wait
  -- a convoy that the queue cannot hold has a conflict (R163)
  if vIdle x && !x.live.frozen && (sync || !x.defer || 12 < ms.length) then
    let s := op.onIssue e s
    match (runMembers h es true).run.run s with
    | (.ok _, s') => set (passMembers s' ms)
    | (.error t, s') =>
      if sync then
        -- the control thread waits at the instruction, which has not completed (R164)
        if t.cause = waits then set s'; waitIn h .join else set (vectorTrap h (atMember pc t) s')
      else
        let es := if c then trimmed (s'.hart h).c.vl es else es
        let s' := (es.take 12).foldl (fun s p => vqPush s h (mkEntry p.1 (p.1.pc == pc))) s'
        let s' := passMembers (s'.onCtx h fun k => { k with vpc := pc, convoy := if c then pc else 0 }) ms
        set (if t.cause = waits then s' else vectorTrap h (atMember pc t) s')
  else if sync || 12 < ms.length then waitIn h .join
  else if 12 < vqCount x.c + ms.length then waitIn h .vqueue
  else set (passMembers (es.foldl (fun s p => vqPush s h (mkEntry p.1 false)) (op.onIssue e s)) ms)

/-! Streams and threaded virtual processors (R149 to R155, R160, R161). -/

/-- The addresses of a facet's instructions: at most 65, up to its first `vstop` (R74, R148). -/
def facetFrom (s : State) (w : Who) : Nat → Word → List Word
  | 0, _ => []
  | n + 1, va =>
    match peekAt s w va.toNat with
    | none => [va]
    | some bits =>
      let enc := encBits bits
      if enc = 0x001C ∨ enc = 0x5B1 then [va] else va :: facetFrom s w n (va + BitVec.ofNat 64 (parcelLen enc))
def facetList (s : State) (h : HartId) (va : Word) : List Word := facetFrom s (whoV s h) 65 va
/-- An instruction of the facet, one of its first 64. -/
def inFacet (s : State) (h : HartId) (base va : Word) : Bool := ((facetList s h base).take 64).contains va

/-- The first address of the facet that a thread runs. -/
def threadFacet (s : State) (h : HartId) : Thread → Word
  | .stream => match curEntry (s.hart h).c with
    | some k => facetAddr (vqAt (s.hart h).c k) (entryFacet (vqAt (s.hart h).c k))
    | none => 0
  | .vp i => match (s.hart h).live.tvps.find? fun t => t.vp == i with
    | some t => facetAddr (vqAt (s.hart h).c t.entry) t.facet
    | none => 0
  | .control => 0
def threadPc (s : State) (h : HartId) : Thread → Word
  | .control => (s.hart h).c.pc
  | .stream => (s.hart h).c.vpc
  | .vp i => match (s.hart h).live.tvps.find? fun t => t.vp == i with
    | some t => t.pc
    | none => 0
/-- The stream or the VP goes to pc; reaching the label of the open region, or passing it, closes it (R154). -/
def threadGo (s : State) (h : HartId) (t : Thread) (pc : Word) : State :=
  match t with
  | .control => s.setPc h pc
  | .stream => s.onCtx h fun c =>
      { c with vpc := pc, convoy := 0, region := if c.region.toNat / 8 % 2 = 1 ∧ c.regend.toNat ≤ pc.toNat then 0 else c.region }
  | .vp i => s.onLive h fun l => { l with tvps := l.tvps.map fun x => if x.vp = i then { x with pc := pc } else x }

/-- The elements that are next may begin (R158): the VPs of their group have stopped in all earlier fetches, and with the last
group those beyond VL too; one that acts across elements, or all at once, waits for every earlier VP. -/
def groupReady (s : State) (h : HartId) (k : Nat) (es : List (Env × VOp)) : Bool :=
  let size := (es.map fun p => groupSize p.1 p.2).foldl max 1
  let vl := (es.map fun p => p.1.vl).foldl max 0
  let lo := (s.hart h).c.vsi
  let hi := (lo / size + 1) * size
  let join := es.any fun p => p.2.noVsi || !splits p.1 p.2 || (match p.2.kind with | .range _ => true | _ => false)
  (s.hart h).live.tvps.all fun t => k ≤ t.entry || (!join && hi ≤ t.vp.val && hi < vl)

/-- The environment in which facet code runs: the fetch entry's values; scalar operands are read as they stand. -/
def facetEnv (s : State) (pc : Word) (enc : Nat) (op : VOp) : Env :=
  let h := s.me
  let c := (s.hart h).c
  let k := match s.cur.thread with
    | .vp i => (match (s.hart h).live.tvps.find? fun t => t.vp == i with | some t => t.entry | none => 0)
    | _ => (curEntry c).getD 0
  { entryEnv s h (vqAt c k) s.cur.thread with
    pc := pc, enc := enc, g := op.gops.map s.r, region := c.region.toNat / 8 % 2 == 0 || pc.toNat < c.regend.toNat }

/-- A vector instruction of facet code. -/
def facetIssue (i : Instr) (op : VOp) (c : Bool) : M Unit := do
  let s ← get
  let h := s.me
  let th := s.cur.thread
  let pc := threadPc s h th
  let enc := encode i
  -- a stream's convoy is one from its first member on, whatever fault its members meet (R164)
  if c && th == .stream then modify fun s => s.onCtx h fun k => { k with convoy := pc }
  if op.ctlOnly then trap 0x01 enc
  let base := threadFacet s h th
  let rest ← if c then gather (whoV s h) true (inFacet s h base) (fun o => !o.ctlOnly) pc 65536 (pc + BitVec.ofNat 64 (parcelLen enc)) enc else pure []
  let ms : List Member := ⟨op, pc, enc, c⟩ :: rest
  let s ← get
  let es := ms.map fun m => (facetEnv s m.pc m.enc m.op, m.op)
  match es.findSome? fun p => (issueTrap p.1 p.2).map (atMember p.1.pc) with
  | some t => throw t
  | none => pure ()
  match conflictTrap es with
  | some t => throw t
  | none => pure ()
  if th == .stream && !groupReady s h ((curEntry (s.hart h).c).getD 0) es then throw { cause := waits, tval := 0 }
  if ← runMembers h es false then
    modify fun s => threadGo s h th (pc + BitVec.ofNat 64 ((ms.map Member.len).foldl (· + ·) 0))

/-- The end of an instruction of any thread: it went on, waits, or trapped. -/
def facetFinish (m : M Unit) (s : State) : Out :=
  match m.run.run s with
  | (.ok _, s') => .next s'
  | (.error t, s') => .next (if t.cause = waits then s' else takeTrap t s')

/-- A vector instruction: issued by the control thread, or performed by the thread that reached it. -/
def issue (i : Instr) (op : VOp) (c : Bool) (s : State) : Out :=
  match s.cur.thread with
  | .control => finish (ctlIssue i op c) s
  | _ => facetFinish (facetIssue i op c) s

end
end Sys2Proof.Machine
end

