-- ==== Sys2Proof/Machine/Facets.lean ====
section
/-! DEFINITION. Fetching streams, and what their instructions do: leaving, stopping, regions, counters, replies; the turns
of the vector unit (09 R148 to R167, 05 R87). -/
namespace Sys2Proof.Machine
noncomputable section

/-! Opening a stream (R151). -/

/-- `vfetch` and `vfetchr`: an entry with its operands' values, the last of them g3. -/
def openStream (i : Instr) (a : Option GReg) : M Unit := do
  let s ← get
  let h := s.me
  let enc := encode i
  loanStall h
  if trimPending s h then waitIn h .join
  let c := (s.hart h).c
  if vtIll c.vt then trap 0x0D c.vt
  let base := s.r 3
  if base.toNat % 64 ≠ 0 then trap 0x03 base.toNat
  match a with
  | some r =>
    let v := (s.r r).toNat
    if v % 64 ≠ 0 then trap 0x03 v
    if v < base.toNat || 65535 < (v - base.toNat) / 64 then trap 0x01 v
  | none => pure ()
  if 12 ≤ vqCount c then waitIn h .vqueue
  let e : Env := { h := h, pc := s.pc, enc := enc, lanes := s.lanes h, vt := c.vt, vl := c.vl, rm := c.st[3].toNat,
                   g := (match a with | some r => [s.r r, base] | none => [base]), thread := .control }
  modify fun s => retire (vqPush s h (mkEntry e false)) 4

def execVfetch (n : BitVec 16) (s : State) : Out := inControl (encode (.vfetch n)) (openStream (.vfetch n) none) s
def execVfetchr (a : GReg) (s : State) : Out := inControl (encode (.vfetchr a)) (openStream (.vfetchr a) (some a)) s

/-! The VPs of the stream. -/

/-- The VPs of the stream that the open region allows (R154, R156). -/
def allowed (s : State) (h : HartId) : Nat → Bool := fun i =>
  let x := s.hart h
  x.live.inStream.toNat / 2 ^ i % 2 == 1 && (x.c.region.toNat / 8 % 2 == 0 || maskBit s h (x.c.region.toNat % 8) i)

/-- The mask of the open region, which decides whether a VP of the stream takes part (R154). -/
def openMask (s : State) (h : HartId) : Option Nat :=
  let x := (s.hart h).c.region.toNat
  if x / 8 % 2 = 1 then some (x % 8) else none
/-- Bits of m are read for the VPs of p, once those of the mask rg have been for the VPs of the stream: a poisoned one is consumed
(R125, R154, R219). -/
def readMask (h : HartId) (m : MReg) (rg : Option Nat) (p : Nat → Bool) : M (List Nat) := do
  let s ← get
  let pois (k i : Nat) : Bool := ((s.hart h).c.mPois[k % 8]!).toNat / 2 ^ i % 2 == 1
  let bad (i : Nat) : Option Nat :=
    if (s.hart h).live.inStream.toNat / 2 ^ i % 2 == 1 && rg.any (pois · i) then rg
    else if p i && pois m.val i then some m.val else none
  match (List.range 4096).find? fun i => (bad i).isSome with
  | some i => let k := (bad i).getD 0; poisonTrap .mask k i 1 k i
  | none => return ((List.range 4096).filter p).filter (maskBit s h m.val)

/-- The stream ends: its entry stays while VPs that it threaded run (R150, R153). -/
def streamEnd (h : HartId) (s : State) : State :=
  match curEntry (s.hart h).c with
  | none => s
  | some k =>
    let s := vqSet s h k fun x => x.set 7 3
    let s := (s.onCtx h fun c => { c with vpc := 0, convoy := 0, region := 0, regend := 0 }).onLive h fun l => { l with inStream := 0 }
    if (s.hart h).live.tvps.any fun t => t.entry == k then s else vqDrop s h k

/-- A VP's writes are committed (R161). -/
def onVp (s : State) (h : HartId) (i : Fin 4096) (f : TVP → TVP) : State :=
  s.onLive h fun l => { l with tvps := l.tvps.map fun t => if t.vp = i then f t else t }
/-- A VP stops; the last VP of a finished stream frees its entry (R150, R153).  One that an earlier fetch threaded then
joins the stream, where it is one of its VPs (R151, R158). -/
def vpStop (h : HartId) (i : Fin 4096) (s : State) : State :=
  match (s.hart h).live.tvps.find? fun t => t.vp == i with
  | none => s
  | some t =>
    let s := s.onLive h fun l => { l with tvps := l.tvps.filter fun y => y.vp != i }
    let c := (s.hart h).c
    let joins := match curEntry c with
      | some k => entryFetch (vqAt c k) && t.entry < k && i.val < (vqAt c k)[3].toNat % 8192
      | none => false
    let s := if joins then s.onLive h fun l => { l with inStream := l.inStream ||| BitVec.ofNat 4096 (2 ^ i.val) } else s
    if (s.hart h).live.tvps.any (fun y => y.entry == t.entry) || !entryDone (vqAt (s.hart h).c t.entry) then s else vqDrop s h t.entry

/-- The stream waits until every VP of the earlier fetches has stopped (R152, R154, R156, R158). -/
def joinEarlier (h : HartId) : M Unit := do
  let s ← get
  let k := (curEntry (s.hart h).c).getD 0
  if (s.hart h).live.tvps.any fun t => t.entry < k then throw { cause := waits, tval := 0 }

/-- Inside a tangent region that facet code opened (R279). -/
def facetRegion (s : State) (h : HartId) : Bool := (s.hart h).c.treg.toNat / 4 % 4 == 3

/-- An instruction of facet code: `stream` says whether the stream may hold it, `vp` the VPs. -/
def inFacetCode (i : Instr) (stream : Option (HartId → Word → M Unit)) (vp : Option (HartId → Word → Fin 4096 → M Unit)) (s : State) : Out :=
  let h := s.me
  let no : M Unit := trap 0x01 (encode i)
  facetFinish (match s.cur.thread with
    | .control => no
    | .stream => (match stream with | some f => f h (threadPc s h .stream) | none => no)
    | .vp k => (match vp with | some f => f h (threadPc s h (.vp k)) k | none => no)) s

/-- The thread goes on after this instruction. -/
def threadNext (h : HartId) (t : Thread) (pc : Word) (len : Nat) : M Unit :=
  modify fun s => threadGo s h t (pc + BitVec.ofNat 64 len)

/-! vtfetch, vstop (R152, R153). -/

def execVtfetch (n : BitVec 15) (m : MReg) (s : State) : Out :=
  inFacetCode (.vtfetch n m)
    (some fun h pc => do
      let s ← get
      if facetRegion s h then trap 0x01 (encode (.vtfetch n m))
      joinEarlier h
      let go ← readMask h m (openMask s h) (allowed s h)
      let k := (curEntry (s.hart h).c).getD 0
      let addr := facetAddr (vqAt (s.hart h).c k) n.toNat
      let cnt := (s.hart h).c.cnt
      modify fun s => s.onLive h fun l => { l with
        inStream := l.inStream &&& ~~~(BitVec.ofNat 4096 (go.foldl (fun a i => a + 2 ^ i) 0))
        tvps := l.tvps ++ go.map fun i => { vp := Fin.ofNat 4096 i, facet := n.toNat, pc := addr, cnt := cnt, entry := k } }
      let s ← get
      if !go.isEmpty && (s.hart h).live.inStream == 0 then set (streamEnd h s) else threadNext h .stream pc 4)
    (some fun h pc i => do
      let go ← readMask h m none (· == i.val)
      if go.isEmpty then threadNext h (.vp i) pc 4
      else modify fun s => onVp s h i fun t =>
        { t with undo := [], facet := n.toNat, pc := facetAddr (vqAt (s.hart h).c t.entry) n.toNat }) s

def stopThread (i : Instr) (s : State) : Out :=
  inFacetCode i
    (some fun h _ => do
      if facetRegion (← get) h then trap 0x01 (encode i)
      joinEarlier h
      modify (streamEnd h))
    (some fun h _ k => modify (vpStop h k)) s
def execVstop (s : State) : Out := stopThread .vstop s
def execCVstop (s : State) : Out := stopThread .cVstop s

/-! vskip, vlset, vlbr (R154, R155). -/

def execVskip (m : MReg) (i : Imm13) (s : State) : Out :=
  inFacetCode (.vskip m i)
    (some fun h pc => do
      let s ← get
      let t := pc + BitVec.ofNat 64 (2 * i.toNat)
      if (s.hart h).c.region.toNat / 8 % 2 = 1 || t.toNat ≤ pc.toNat || !inFacet s h (threadFacet s h .stream) t then
        trap 0x01 (encode (.vskip m i))
      joinEarlier h
      let on ← readMask h m none (fun k => (s.hart h).live.inStream.toNat / 2 ^ k % 2 == 1)
      if on.isEmpty then modify fun s => threadGo s h .stream t
      else
        modify fun s => s.onCtx h fun c => { c with region := w64 (8 + m.val), regend := t }
        threadNext h .stream pc 4) none s

def cntGet (c : Word) (n : CReg) : Nat := c.toNat / 2 ^ (16 * n.val) % 65536
def cntSet (c : Word) (n : CReg) (v : Nat) : Word := w64 (putBits c.toNat (16 * n.val + 15) (16 * n.val) v)

/-- The counters of the thread, as f makes them; a VP's former counters are remembered until it commits. -/
def onCnt (h : HartId) (t : Thread) (f : Word → Word) (s : State) : State :=
  match t with
  | .control => s
  | .stream => s.onCtx h fun c => { c with cnt := f c.cnt }
  | .vp i => onVp s h i fun x => { x with cnt := f x.cnt, undo := ⟨.scale, 0, 0, 64, x.cnt.toNat, 0⟩ :: x.undo }
def threadCnt (s : State) (h : HartId) (t : Thread) : Word :=
  match t with
  | .vp i => (match (s.hart h).live.tvps.find? fun x => x.vp == i with | some x => x.cnt | none => 0)
  | _ => (s.hart h).c.cnt

def loopSet (n : CReg) (i : Imm13) (t : Thread) (h : HartId) (pc : Word) : M Unit := do
  modify (onCnt h t fun c => cntSet c n i.toNat)
  threadNext h t pc 4
def execVlset (n : CReg) (i : Imm13) (s : State) : Out :=
  inFacetCode (.vlset n i) (some (loopSet n i .stream)) (some fun h pc k => loopSet n i (.vp k) h pc) s

def loopBranch (n : CReg) (i : Imm13) (t : Thread) (h : HartId) (pc : Word) : M Unit := do
  let s ← get
  let dest := pc + i.signExtend 64 * 2
  if !inFacet s h (threadFacet s h t) dest then trap 0x01 (encode (.vlbr n i))
  let c := cntGet (threadCnt s h t) n - 1
  modify (onCnt h t fun x => cntSet x n c)
  if c ≠ 0 then modify fun s => threadGo s h t dest else threadNext h t pc 4
def execVlbr (n : CReg) (i : Imm13) (s : State) : Out :=
  inFacetCode (.vlbr n i) (some (loopBranch n i .stream)) (some fun h pc k => loopBranch n i (.vp k) h pc) s

/-! Replies (R156, R157). -/

def rqCount (c : Ctx) : Nat := min 8 (c.rqstate.toNat % 16)
def rqOldest (c : Ctx) : Nat := c.rqstate.toNat / 16 % 8

/-- An entry joins the reply queue; the first one raises 0x104. -/
def replyPut (h : HartId) (v : Word) (s : State) : State :=
  let c := (s.hart h).c
  let n := rqCount c
  let s := s.onCtx h fun c => { c with rq := c.rq.set! ((rqOldest c + n) % 8) v, rqstate := w64 (n + 1 + 16 * rqOldest c) }
  if n = 0 then raiseEvent s h 3 0 else s

def replyValue (k : Fin 4) (on all : Nat) : Nat :=
  match k with
  | 0 => if on = 0 then 0 else 1
  | 1 => if on = all then 1 else 0
  | 2 => if on = 0 then 1 else 0
  | 3 => on

def execVreply (m : MReg) (k : Fin 4) (s : State) : Out :=
  inFacetCode (.vreply m k)
    (some fun h pc => do
      let s ← get
      joinEarlier h
      if rqCount (s.hart h).c = 8 then throw { cause := waits, tval := 0 }
      let on ← readMask h m (openMask s h) (allowed s h)
      let all := (List.range 4096).filter (allowed s h)
      let n := entryFacet (vqAt (s.hart h).c ((curEntry (s.hart h).c).getD 0))
      modify (replyPut h (w64 (replyValue k on.length all.length % 2 ^ 32 + n % 65536 * 2 ^ 32 + k.val * 2 ^ 48 + 2 ^ 63)))
      threadNext h .stream pc 4) none s

def execQrecv (d : GReg) (s : State) : Out :=
  inControl (encode (.qrecv d)) (do
    let s ← get
    let h := s.me
    let c := (s.hart h).c
    let n := rqCount c
    if n ≠ 0 then
      let v := c.rq[rqOldest c]!
      set (s.onCtx h fun c => { c with rqstate := w64 (n - 1 + 16 * ((rqOldest c + 1) % 8)) })
      put d v 4
    else if vIdle (s.hart h) then put d 0 4
    else waitIn h .qrecv) s

/-! The turns of the vector unit. -/

/-- The unit may work: its hart is on the core, it is not frozen, and it does not stand still (R164, R293, R332). -/
def unitLive (s : State) (h : HartId) : Bool :=
  let x := s.hart h
  x.onCore && !x.live.frozen && !standsStill s h
/-- The first entry that has not begun, where no entry is current: VPs of earlier fetches may run on (R150, R158). -/
def headEntry (s : State) (h : HartId) : Option Nat :=
  let x := s.hart h
  if (curEntry x.c).isNone then (List.range (vqCount x.c)).find? fun k => !entryBegun (vqAt x.c k) else none

/-- Something done by hart h's unit, while another mover has the turn. -/
def asMover (m : Mover) (f : State → Out) (s : State) : Out :=
  match f { s with cur := m } with
  | .next s' => .next { s' with cur := s.cur }
  | o => o

/-- A queued stream begins (R151, R158): its VPs enter it at the facet, those that an earlier fetch threaded when they
stop. -/
def streamBegin (h : HartId) (s : State) : State :=
  match headEntry s h with
  | some k =>
    let x := vqAt (s.hart h).c k
    if unitLive s h && entryFetch x then
      let s := vqSet s h k fun x => x.set 7 1
      (s.onCtx h fun c => { c with vpc := facetAddr x (entryFacet x), fbase := entryBase x, convoy := 0, region := 0, regend := 0 }).onLive h
        fun l => { l with inStream := l.tvps.foldl (fun a t => a &&& ~~~(BitVec.ofNat 4096 (2 ^ t.vp.val))) (BitVec.ofNat 4096 (2 ^ (x[3].toNat % 8192) - 1)) }
    else s
  | none => s
def execStreamBegin (h : HartId) (s : State) : Out := .next (streamBegin h s)

/-- The members that stand in the queue from entry k: up to the one with C = 0. -/
def queued (c : Ctx) : Nat → Nat → List (Vector Word 8 × Option (VOp × Bool))
  | 0, _ => []
  | n + 1, k =>
    if vqCount c ≤ k then []
    else
      let x := vqAt c k
      let o := (decode x[1].toNat).bind vopOf
      match o with
      | some (_, true) => (x, o) :: queued c n (k + 1)
      | _ => [(x, o)]

/-- The queued control-thread instruction or convoy at entry k performs one group, or begins (R150, R158, R162). -/
def runQueued (h : HartId) (k : Nat) : M Unit := do
  let s ← get
  let c := (s.hart h).c
  let ms := queued c 12 k
  let x := vqAt c k
  let es := ms.filterMap fun p => p.2.map fun o => (entryEnv s h p.1 .control, o.1)
  if !groupReady s h k es then throw { cause := waits, tval := 0 }
  if !entryBegun x then
    modify fun s => (vqSet s h k fun x => x.set 7 1).onCtx h fun c => { c with vpc := x[0], convoy := if 1 < ms.length then x[0] else 0 }
  match ms.find? fun p => p.2.isNone with
  | some p => throw { cause := 0x01, tval := p.1[1], tpc := some p.1[0] }
  | none => pure ()
  match es.findSome? fun p => (issueTrap p.1 p.2).map (atMember p.1.pc) with
  | some t => throw t
  | none => pure ()
  match (runMembers h es false).run.run (← get) with
  | (.ok true, s) => set ((List.range ms.length).foldl (fun s _ => vqDrop s h k) (s.onCtx h fun c => { c with vpc := 0, convoy := 0 }))
  | (.ok false, s) => set s
  | (.error t, s) =>
    let es := if 1 < ms.length then trimmed (s.hart h).c.vl es else es
    set ((es.zip (List.range 12)).foldl (fun s p => vqSet s h (k + p.2) fun x => x.set 3 (mkEntry p.1.1 true)[3]) s)
    throw t

/-- The instruction that facet code of a thread has reached, with what R77 and R87 put in its place, and the state after its
bytes have been fetched. -/
def facetInstr (s : State) (h : HartId) (t : Thread) : Instr × State :=
  let pc := threadPc s h t
  match (fetchAt (whoV s h) true pc.toNat).run.run s with
  | (.error e, s') => (.fetchFault (e.cause == 0x05) e.tval, s')
  | (.ok bits, s') =>
    let enc := encBits bits
    match decode enc with
    | none => (.illegalInstruction (w64 enc), s')
    | some i => (if inFacet s h (threadFacet s h t) pc then i else .illegalInstruction (w64 enc), s')

/-- What the current entry does next: an element group of a queued instruction or of the stream's vector instruction. -/
def execElementGroupComplete (h : HartId) (s : State) : Out :=
  let go (k : Nat) : Out :=
    if entryFetch (vqAt (s.hart h).c k) then
      let p := facetInstr s h .stream
      (match vopOf p.1 with
        | some (op, c) => asMover ⟨h, .stream⟩ (issue p.1 op c) p.2
        | none => .next s)
    else asMover ⟨h, .stream⟩ (facetFinish (runQueued h k)) s
  if !unitLive s h then .next s
  else match curEntry (s.hart h).c with
    | some k => go k
    | none => (match headEntry s h with
      | some k => (match decode (vqAt (s.hart h).c k)[1].toNat with
        | some (.vfetch _) => .next s
        | some (.vfetchr _) => .next s
        | some (.sbind _ _) => .next s
        | some (.sfree _) => .next s
        | _ => go k)
      | none => .next s)

/-- A vector-side fault that is due enters its trap at the control thread's boundary (R164): after a gear change (R297), and
after an access that waits for the outside (R90). -/
def execVectorSideFault (h : HartId) (s : State) : Out :=
  let x := s.hart h
  .next (match vReported x with
    | some t => if x.onCore && vDue x && !x.falling && !x.live.wait.isOutside && !standsStill s h then vectorTrap h t s else s
    | none => s)

/-- The waiting instruction of hart h is tried, where it waits in w and is one that f performs; while it stands still no
instruction is (R17, R296, R332). -/
def tryWaiting (h : HartId) (w : Wait → Bool) (f : Instr → Option (State → Out)) (s : State) : Out :=
  let x := s.hart h
  if x.state == .running && w x.live.wait && !standsStill s h then
    match (fetchAt (whoS s h) false x.c.pc.toNat).run.run s with
    | (.ok bits, s') =>
      (match (decode (encBits bits)).bind f with
        | some g => asMover ⟨h, .control⟩ g s'
        | none => .next s)
    | _ => .next s
  else .next s

def execQrecvWake (h : HartId) (s : State) : Out :=
  tryWaiting h (· == .qrecv) (fun i => match i with | .qrecv d => some (execQrecv d) | _ => none) s

/-! Patterns that are no instruction, and bytes that cannot be fetched (R77, R87, R88, R151). -/

def execIllegalInstruction (enc : Word) (s : State) : Out := .next (takeTrap { cause := 0x01, tval := enc } s)
/-- TPC is the instruction's first address, in a stream too (R77; log 40). -/
def execFetchFault (perm : Bool) (va : Word) (s : State) : Out :=
  .next (takeTrap { cause := if perm then 0x05 else 0x04, tval := va } s)

/-- `tret` after a vector-side fault: the stream resumes at TPC, where that is a later instruction of the same facet and the
fault was a stream instruction's outside a convoy (R164). -/
def streamResume (h : HartId) (s : State) : State :=
  let x := s.hart h
  let tpc := x.c.st[9]
  if x.live.streamFault && x.c.vpc.toNat < tpc.toNat && inFacet s h (threadFacet s h .stream) tpc then threadGo s h .stream tpc else s

end
end Sys2Proof.Machine
end

