-- ==== Sys2Proof/Machine/VConfig.lean ====
section
/-! DEFINITION. The vector configuration: `setvl`, `setvlr`, `setvlg` and the renegotiation of lanes (07 R105 to R110,
13 R221 to R224). -/
namespace Sys2Proof.Machine
noncomputable section

/-- R107 for a `setvlr` operand; its bit 12 asks for a renegotiation. -/
def typeIllegal (t : Nat) : Bool := t / 8192 != 0 || vtIllegal (t % 4096)

/-- The smallest count of groups that gives avl elements, between the home run and the partition (R224). -/
def wantGroups (w : Word) (t avl : Nat) : Nat :=
  let n := if avl ≤ vlMax 4 t then 1 else if avl ≤ vlMax 8 t then 2 else if avl ≤ vlMax 16 t then 4 else 8
  max (slotHN w) (min n (slotPN w))

/-- Every group of the aligned run of n groups about the home run may be held by slot i (R224). -/
def runOk (s : State) (t : TileId) (i : Fin 8) (n : Nat) : Bool :=
  let w := (s.tile t).slots[i]
  let start := slotHF w / n * n
  (List.range n).all fun j =>
    let g := start + j
    (slotHF w ≤ g && g < slotHF w + slotHN w) || lendable s t i g
    || (holderOf (s.tile t) g == i.val && !recalledFrom s t i g)

/-- The count at which R224's loop ends: the home run at the latest. -/
def grantedGroups (s : State) (t : TileId) (i : Fin 8) : Nat → Nat → Nat
  | 0, n => n
  | k + 1, n => if n ≤ slotHN (s.tile t).slots[i] || runOk s t i n then n else grantedGroups s t i k (n / 2)

/-- Slot i holds the aligned run of n groups about its home run and no other group; RECALL is cleared. -/
def holdRun (h : HartId) (n : Nat) (s : State) : State :=
  s.onTile (tileOf h) fun x =>
    let i := slotOf h
    let w := x.slots[i]
    let start := slotHF w / max 1 n * max 1 n
    let hold := (List.range 8).foldl (fun a g =>
      if start ≤ g ∧ g < start + n then setHolder a g i.val
      else if a / 16 ^ g % 16 = i.val then setHolder a g (match homeOf x g with | some j => if j = i then 15 else j.val | none => 15)
      else a) x.holder.toNat
    { x with holder := BitVec.ofNat 32 hold
             slots := x.slots.set i (w64 (putBits (putBits (putBits w.toNat 11 8 n) 14 12 start) 24 24 0)) }

/-- Every vector, mask, scale and accumulator register becomes zero, with DIRTY, tags and marks (R224). -/
def zeroVectors (h : HartId) (s : State) : State :=
  (s.onCtx h Ctx.renegotiated).onLive h fun l => { l with
    v := Vector.replicate 32 0, vPois := Vector.replicate 32 0, acc := Vector.replicate 4 0, aPois := Vector.replicate 4 0 }

/-- The renegotiation (R224). -/
def renegotiate (h : HartId) (t avl : Nat) (s : State) : State :=
  let n := grantedGroups s (tileOf h) (slotOf h) 4 (wantGroups (s.slotWord h) t avl)
  zeroVectors h (holdRun h n s)

/-- The three instructions (R108): the operand t, with bit 12 for a renegotiation. -/
def setvlTo (d : GReg) (avl t : Nat) : M Unit := do
  let s ← get
  let h := s.me
  loanStall h
  if trimPending s h then waitIn h .join
  if typeIllegal t then
    modify fun s => (s.setSt h 1 0x8000000000000000#64).setSt h 0 0
    put d 0 4
  else
    if t / 4096 % 2 = 1 then
      if !vIdle (s.hart h) then waitIn h .join
      modify fun s => renegotiate h (t % 4096) avl s
    let s ← get
    let vl := w64 (min avl (vlMax (s.lanes h) (t % 4096)))
    set ((s.setSt h 1 (w64 (t % 4096))).setSt h 0 vl)
    put d vl 4

def execSetvl (d a : GReg) (t : VType) (s : State) : Out :=
  inControl (encode (.setvl d a t)) (setvlTo d (s.r a).toNat t.toNat) s
def execSetvlg (d a : GReg) (t : VType) (s : State) : Out :=
  inControl (encode (.setvlg d a t)) (setvlTo d (s.r a).toNat (4096 + t.toNat)) s
def execSetvlr (d a b : GReg) (s : State) : Out :=
  inControl (encode (.setvlr d a b)) (setvlTo d (s.r a).toNat (s.r b).toNat) s

end
end Sys2Proof.Machine
end

