-- ==== Sys2Proof/Machine/System.lean ====
section
/-! DEFINITION. Fences, status registers, traps, waits and gears (03 R57 to R59, 12 R205 R210 to R218, 18 R295,
19 R310). -/
namespace Sys2Proof.Machine
noncomputable section

/-! Fences.  An access is performed when its instruction is (log 7), but for dirty bytes (log 4), V stores that wait and a late load
(log 70). -/

/-- Waits in w until every earlier vector instruction has completed; not for a unit that a fault froze (R308, R310, R213; log 37). -/
def joinVector (h : HartId) (w : Wait) : M Unit := do
  if !vDrained ((← get).hart h) then waitIn h w

/-- Waits in w until no vector work is left, of a unit that a fault froze too (R158, R279). -/
def joinAll (h : HartId) (w : Wait) : M Unit := do
  if !vIdle ((← get).hart h) then waitIn h w

/-- A `fencevv` stands between V stores that are not performed yet and later V accesses. -/
def orderV (s : State) (h : HartId) : State :=
  if s.vbuf.any fun p => p.2.hart == h then (joinV s h).onLive h fun l => { l with vfence := true } else s

/-- A fence (R58, R59): join, what the V agent has stored ordered or performed, write-back, discard. -/
def fence (i : Instr) (x : Fld5) (join : Bool) (vs : Option Bool) (back discard : Bool) (s : State) : Out :=
  inControl (encode i) (do
    if 5 ≤ x.val then trap 0x01 (encode i)
    let h := (← get).me
    let t := tileOf h
    if join then joinAll h .fence
    match vs with
    | some true => modify fun s => performHart s h
    | some false => modify fun s => orderV s h
    | none => pure ()
    if back then modify fun s => sendHome s t
    if discard then modify fun s => { s with
      icache := s.icache.filter fun p => p.1 / 2 ^ 48 != t.val
      fcache := s.fcache.filter fun p => p.1 / 2 ^ 48 != t.val }
    modify fun s => retire s 4) s
def execFencesv (x : Fld5) (s : State) : Out := fence (.fencesv x) x false none true false s
def execFencevs (x : Fld5) (s : State) : Out := fence (.fencevs x) x true (some true) false false s
def execFencevv (x : Fld5) (s : State) : Out := fence (.fencevv x) x true (some false) false false s
def execFenceall (x : Fld5) (s : State) : Out := fence (.fenceall x) x true (some true) true true s
def execFenceComplete (h : HartId) (s : State) : Out :=
  tryWaiting h (· == .fence) (fun i => match i with
    | .fencesv x => some (execFencesv x) | .fencevs x => some (execFencevs x)
    | .fencevv x => some (execFencevv x) | .fenceall x => some (execFenceall x) | _ => none) s

/-- The S agent's earlier accesses are performed (R101), then the hart's table stores are cut (R310). -/
def execTfence (s : State) : Out :=
  inControl (encode .tfence) (do
    let h := (← get).me
    joinVector h .tfence
    modify fun s => retire (cutTables (sendHome s (tileOf h)) h) 4) s
def execTfenceComplete (h : HartId) (s : State) : Out :=
  tryWaiting h (· == .tfence) (fun i => match i with | .tfence => some execTfence | _ => none) s

/-! getst and setst (R205, R213). -/

/-- Status registers whose reading waits for earlier vector instructions: VSI, XFLAGS, DIRTY, TELEM. -/
def stWaits (i : Nat) : Bool := i == 2 || i == 4 || i == 16 || i == 17

def execGetst (d : GReg) (x : Fld5) (s : State) : Out :=
  inControl (encode (.getst d x)) (do
    let s ← get
    let h := s.me
    if 18 ≤ x.val then trap 0x01 (encode (.getst d x))
    if stWaits x.val then joinVector h .join
    if x.val = 0 && trimPending s h then waitIn h .join
    put d ((statusImages s h)[x.val]!) 4) s

/-- The bits of a status register that `setst` may not write with a 1 (R213). -/
def stReserved (i : Nat) : Nat :=
  2 ^ 64 - 1 - (match i with
    | 2 => 0x1FFF | 3 => 0x1F | 5 => 0x101 | 7 => 0x3FF | 10 => 0x1000F | 11 => 0xF | 17 => 0x1FFF
    | _ => 2 ^ 64 - 1)

/-- VT := v validated, and VL cut to the new VLMAX (R110). -/
def setVt (s : State) (h : HartId) (v : Nat) : State :=
  if typeIllegal v then (s.setSt h 1 0x8000000000000000#64).setSt h 0 0
  else (s.setSt h 1 (w64 (v % 4096))).setSt h 0 (w64 (min (s.hart h).c.vl (vlMax (s.lanes h) (v % 4096))))

/-- The effect of `setst` on each register. -/
def stWrite (s : State) (h : HartId) (i : Nat) (v : Word) : State :=
  let c := (s.hart h).c
  match i with
  | 0 => s.setSt h 0 (if vtIll c.vt then 0 else w64 (min v.toNat (vlMax (s.lanes h) c.vt)))
  | 1 => setVt s h v.toNat
  | 2 => s.setSt h 2 v
  | 3 => s.setSt h 3 v
  | 4 => s.setSt h 4 (v &&& 0x7F#64)
  | 5 => setReq s h (v.toNat % 2 == 1)
  | 6 => s.setSt h 6 v
  | 7 => s.setSt h 7 v
  | 8 => s.setSt h 8 v
  | 9 => s.setSt h 9 v
  | 10 => s.setSt h 10 v
  | 11 => s.setSt h 11 (c.st[11] &&& ~~~v)
  | 17 => s.setSt h 17 v
  | _ => s

def execSetst (x : Fld5) (a : GReg) (s : State) : Out :=
  let enc := encode (.setst x a)
  inControl enc (do
    let s ← get
    let h := s.me
    let v := s.r a
    let i := x.val
    if 18 ≤ i || (12 ≤ i && i ≤ 16) then trap 0x01 enc
    if v.toNat &&& stReserved i ≠ 0 then trap 0x01 enc
    if i = 3 && 5 ≤ v.toNat / 4 then trap 0x01 enc
    if (i = 6 || i = 9) && v.toNat % 2 = 1 then trap 0x03 v.toNat
    if i = 2 || i = 4 then joinVector h .join
    if i ≤ 1 && trimPending s h then waitIn h .join
    modify fun s => retire (stWrite s h i v) 4) s

/-! Traps (R214, R215). -/

def execTrap (x : Fld5) (s : State) : Out := inControl (encode (.trap x)) (trap 0x0C x.val) s

def execTret (s : State) : Out :=
  inControl (encode .tret) (do
    let s ← get
    let h := s.me
    let s' := if (s.hart h).c.st[7].toNat / 512 % 2 = 1 then streamResume h s else s
    match trapReturn h s' with
    | none => trap 0x01 (encode .tret)
    | some (.error t) => throw t
    | some (.ok s'') => set s'') s

/-- An enabled pending event is taken at an instruction boundary (R212), unless a vector-side fault or a stop is due
(R218), and after an access that waits for the outside (R90). -/
def execEventTaken (h : HartId) (s : State) : Out :=
  let x := s.hart h
  .next (if (x.state == .running || x.step1) && !vDue x && !x.falling && !x.live.wait.isOutside && !standsStill s h then
    (match dueEvent x with | some i => takeEvent h i s | none => s) else s)

/-! wait, gear (R217, R295). -/

def execWait (a : GReg) (s : State) : Out :=
  inControl (encode (.wait a)) (do
    let s ← get
    let h := s.me
    let x := s.hart h
    match x.live.wait with
    | .wait line woken =>
      if woken || x.c.st[11] ≠ 0 then set (retire s 4) else waitIn h (.wait line woken)
    | _ =>
      let line ← if a = 0 then pure none else do
        let va := (s.r a).toNat
        let _ ← loadV (whoS s h) va 8
        match xlate (← get) (whoS s h) .load va with
        | .ok p => pure (some (p.pa / 64))
        | .error _ => pure none
      if x.c.st[11] ≠ 0 then modify fun s => retire s 4 else waitIn h (.wait line false)) s

/-- A `wait` returns: by an event bit, by a store to its line, or at another time (R217; log 20). -/
def execWaitWake (h : HartId) (s : State) : Out :=
  let x := s.hart h
  .next (match x.live.wait with
    | .wait _ _ => if x.state == .running && !standsStill s h then
        ({ retire { s with cur := ⟨h, .control⟩ } 4 with cur := s.cur }) else s
    | _ => s)

def execGear (x : Fld5) (s : State) : Out :=
  inControl (encode (.gear x)) (do
    if 2 ≤ x.val then trap 0x01 (encode (.gear x))
    modify fun s => retire (setReq s s.me (x == 1)) 4) s

/-- 300 ns have passed: the tile stands at the new gear, CYCLE runs on, held events are set, and the wanted gear is
compared again (R293, R296). -/
def execGearChangeEnd (t : TileId) (s : State) : Out :=
  let x := s.tile t
  .next (if x.gchg then
    let s := s.setTile t { x with gchg := false, gcur := !x.gcur, cycSince := s.now }
    let s := (List.finRange 8).foldl (fun s i =>
      let h := hartOf t i
      let l := (s.hart h).evlate
      l.foldl (fun s p => pendEvent s h p.1 p.2) (s.onHart h fun a => { a with evlate := [] })) s
    gearCheck s t
  else s)

end
end Sys2Proof.Machine
end

