-- ==== Sys2Proof/Machine/Sync.lean ====
section
/-! DEFINITION. Futures, barriers, tasks and the future walker (14 R227 to R243, 15 R247 to R251, 16 R263, R264). -/
namespace Sys2Proof.Machine
noncomputable section

/-! Targets (R229). -/

/-- The home's reply: whether the target is under scrub or reset there, which a peer answers as cause 0x11 (R243, R325). -/
def targetReply (x : Xl) (m : M Unit) : M Bool := do
  match m.run.run (← get) with
  | (.ok _, s) => set s; return underScrub s x
  | (.error t, s) =>
    set s
    if t.cause = 0x11 then return true else throw t

/-- The checked target of a future or barrier instruction, whose home has replied, and whether it is under scrub or reset. -/
def syncTarget (acc : Acc) (a : Nat) (join : Bool := false) : M (Xl × Bool) := do
  let s ← get
  let w := whoS s s.me
  let x ← targetCheck w acc a join
  return (x, ← targetReply x (request w x a))

/-- The S agent's earlier accesses are performed before the operation acts (R101, R231, R238, R248). -/
def releaseS : M Unit := do release (whoS (← get) (← get).me)

/-- A link or a join block: R229's steps 2 and 3, needing R and W. -/
def blockTarget (a : Nat) : M Xl := do
  let s ← get
  match xlate s (whoS s s.me) .atomic a with
  | .error t => throw t
  | .ok x =>
    if eKind x.leaf = 3 then trap 0x05 a
    modify fun s => touch s x true
    if x.region == .control || x.region == .device then trap 0x0E a
    if x.region == .host then trap 0x05 a
    return x

/-- The word at its home, and a new value for it. -/
def homeRead (x : Xl) : M Nat := do
  let s ← get
  physRead { whoS s s.me with port := .eng } x.pa 8 (eKey x.leaf)
def homeStore (x : Xl) (v : Nat) : M Unit := do
  let s ← get
  physWrite { whoS s s.me with port := .eng } false x.pa 8 v (eKey x.leaf)

/-- An operation on a target under scrub or reset changes nothing and raises 0x101 (R243). -/
def targetReset (a : Word) : M Unit := modify fun s => raiseEvent s s.me 0 a

/-- The instruction has completed; the hart requests its gear again (R291). -/
def syncDone : M Unit := modify fun s => gearCheck (retire s 4) (tileOf s.me)

/-! Futures (R230, R231, R233). -/

def execFjoin (a b : GReg) (s : State) : Out :=
  inControl (encode (.fjoin a b)) (do
    let s ← get
    let f := s.r a
    let l := (s.r b).toNat
    let (x, gone) ← syncTarget .atomic f.toNat true
    if l % 16 ≠ 0 then trap 0x03 l
    let lx ← blockTarget l
    let j ← loadV (whoS s s.me) (l + 8) 8
    if j % 32 ≠ 0 then trap 0x03 j
    let _ ← blockTarget j
    if gone then targetReset f
    else
      let w ← homeRead x
      if futState w = 0 || futState w = 1 then
        homeStore lx (futHead w)
        modify State.nextStore
        homeStore x (l % 2 ^ 56 / 16 * 16 + 1)
      else modify fun s => forkWalk s (issuer s s.me) j true (futState w == 3)
    syncDone) s

def execFres (a : GReg) (s : State) : Out :=
  inControl (encode (.fres a)) (do
    let f := (← get).r a
    let (x, gone) ← syncTarget .atomic f.toNat
    releaseS
    if gone then targetReset f
    else
      let w ← homeRead x
      if futState w = 0 || futState w = 1 then
        homeStore x 2
        if futState w = 1 && x.region != .peer then modify fun s => forkWalk s (issuer s s.me) (futHead w) false false
      else
        homeStore x 3
        trap 0x08 f.toNat
    syncDone) s

def execFpoll (d a : GReg) (s : State) : Out :=
  inControl (encode (.fpoll d a)) (do
    let f := (← get).r a
    let (x, gone) ← syncTarget .load f.toNat
    if gone then
      targetReset f
      put d 3 4
    else
      let w ← homeRead x
      put d (w64 (futState w)) 4) s

/-! Barriers (R236 to R242). -/

def barRemain (w : Nat) : Nat := w % 2 ^ 32
def barGen (w : Nat) : Nat := w / 2 ^ 32 % 2 ^ 16
def barRgear (w : Nat) : Nat := w / 2 ^ 48 % 4
def barParties (w : Nat) : Nat := w / 2 ^ 50 % 2 ^ 13
def barStage (w : Nat) : Bool := 2 ^ 63 ≤ w
/-- The barrier word after one arrival (R238). -/
def arrive (w : Nat) : Nat :=
  if barRemain w ≤ 1 then putBits (putBits w 47 32 ((barGen w + 1) % 2 ^ 16)) 31 0 (barParties w)
  else putBits w 31 0 (barRemain w - 1)

def execBara (a : GReg) (s : State) : Out :=
  inControl (encode (.bara a)) (do
    let b := (← get).r a
    let (x, gone) ← syncTarget .atomic b.toNat
    releaseS
    if gone then targetReset b
    else
      let w ← homeRead x
      if barStage w then trap 0x01 b.toNat
      modify fun s => s.onCtx s.me fun c => { c with arraddr := b, arrgen := w64 (barGen w + 2 ^ 16) }
      homeStore x (arrive w)
    syncDone) s

def execBarx (a b : GReg) (s : State) : Out :=
  inControl (encode (.barx a b)) (do
    let s ← get
    let t := s.r a
    let (x, gone) ← syncTarget .atomic t.toNat
    if gone then targetReset t
    else
      let w ← homeRead x
      if !barStage w then trap 0x01 t.toNat
      homeStore x (stageAdd w (s.r b).toInt)
    syncDone) s

/-- The generation that a `barw` waits to see pass (R240). -/
def waitGen (c : Ctx) (wt : Wait) (b : Word) (w : Nat) : Nat :=
  match wt with
  | .barw g _ _ _ => g
  | _ => if c.arrgen.toNat / 2 ^ 16 % 2 = 1 ∧ c.arraddr = b then c.arrgen.toNat % 2 ^ 16 else barGen w

def clearArrival (s : State) (h : HartId) : State := s.onCtx h fun c => { c with arrgen := w64 (c.arrgen.toNat % 2 ^ 16) }

/-- One evaluation of the word w of the barrier at b, which stands at pa under key slot k: the `barw` returns, traps, or
waits on. -/
def barwEval (b : Word) (w pa k : Nat) : M Unit := do
  let s ← get
  let h := s.me
  if barStage w then
    if stageOvr w then trap 0x0A b.toNat
    if w % 2 ^ 32 = 0 then syncDone else waitIn h (.barw 0 pa k none)
  else
    let c := s.hart h
    let g := waitGen c.c c.live.wait b w
    if barGen w ≠ g then
      modify fun s => clearArrival s h
      if barRgear w = 1 || barRgear w = 2 then modify fun s => s.setSt h 5 (w64 (barRgear w - 1))
      syncDone
    else waitIn h (.barw g pa k none)

/-- A peer's reply to a `barw`: a `barw` that waits already waits on while there is none. -/
def barwRequest (x : Xl) (b : Nat) : M Bool := do
  let s ← get
  targetReply x (match (s.hart s.me).live.wait with
  | .barw _ _ _ _ => do if !(← outside x b) then throw { cause := waits, tval := 0 }
  | _ => request (whoS s s.me) x b true)

/-- `barw` (R240): a value seen at a change of the word that ends the wait does so, whatever the word has become. -/
def execBarw (a : GReg) (s : State) : Out :=
  inControl (encode (.barw a)) (do
    let s ← get
    let h := s.me
    let b := s.r a
    match (s.hart h).live.wait with
    | .barw _ pa k (some v) => barwEval b v pa k
    | _ =>
      let x ← targetCheck (whoS s h) .load b.toNat
      if ← barwRequest x b.toNat then
        targetReset b
        modify fun s => if (s.hart h).c.arraddr = b then clearArrival s h else s
        syncDone
      else
        let w ← homeRead x
        barwEval b w x.pa (eKey x.leaf)) s

def execBarwReturn (h : HartId) (s : State) : Out :=
  tryWaiting h (fun w => match w with | .barw _ _ _ _ => true | _ => false)
    (fun i => match i with | .barw a => some (execBarw a) | _ => none) s

/-! Tasks (R247 to R251). -/

/-- Words of a ring entry, read by the home outside translation (R244). -/
def ringWords (s : State) (q : Queue) (index n : Nat) : List Word :=
  (List.range n).map fun i => w64 (seenRead s whoHome (ringAddr q index + 8 * i) q.key 8)
def recallRing (s : State) (q : Queue) (index bytes : Nat) : State := recallLines s (ringAddr q index) bytes none

/-- R248's checks of a descriptor. -/
def taskBad (t : List Word) : Bool :=
  t.getD 0 0 == 0 || (t.getD 0 0).toNat % 2 == 1 || (t.getD 3 0).toNat / 32 != 0

def bump (l : List (Nat × Nat)) (k : Nat) : List (Nat × Nat) := mset l k (mget l k 0 + 1)

/-- The home of queue n appends a task that tile `frm` issued; a cross-tile append is counted (R264). -/
def appendTask (s : State) (frm : Option TileId) (n : Nat) (t : List Word) : State :=
  let q := s.queue n
  let s := tailGrown (ringPut s n t) n
  match frm with
  | some f =>
    if qKv q && f.val != n % 512 then
      (s.onTile f fun x => { x with sent := bump x.sent (qKernel q) }).onTile (Fin.ofNat 512 n) fun x => { x with recv := bump x.recv (qKernel q) }
    else s
  | none => s

def isTask (q : Queue) : Bool := qKind q == 1 && qEn q

/-- The four words of the descriptor at d. -/
def taskAt (w : Who) (d : Nat) : M (List Word) := do
  if d % 8 ≠ 0 then trap 0x03 d
  let t ← (List.range 4).mapM fun i => do
    let v ← loadV w (d + 8 * i) 8
    return w64 v
  if taskBad t then trap 0x01 d
  return t

def execSpawn (d a b : GReg) (s : State) : Out :=
  inControl (encode (.spawn d a b)) (do
    let s ← get
    let w := whoS s s.me
    let va := (s.r a).toNat
    let n ← queueAt w va 0x03
    let t ← taskAt w (s.r b).toNat
    let s' ← get
    if !isTask (s'.queue n) then trap 0x05 va
    releaseS
    let s' ← get
    if qFull (s'.queue n) then put d 1 4
    else
      ringThere n 1 []
      modify fun s => appendTask s (some (tileOf s.me)) n t
      put d 0 4) s

/-- The entry of queue n at an index is taken: its four words, and the queue with f done to it.  One in a quarantined tile's store is
not there (R20; log 83). -/
def takeEntry (n i : Nat) (f : Queue → Queue) : M (List Word) := do
  let s ← get
  let q := s.queue n
  if quarantined s (ringAddr q i) then trap 0x04 (ringAddr q i)
  let s := recallRing (outRequest s (ringAgent q) (ringAddr q i) 32 none) q i 32
  set (s.setQueue n (f q))
  return ringWords s q i 4

/-- One attempt at each victim: the oldest entry. -/
def steal (own : Queue) : List Nat → M (Option (List Word))
  | [] => return none
  | v :: r => do
    let q := (← get).queue v
    if isTask q && !qHalt q && qCount q ≠ 0 && qOwner q == qOwner own && qWorld q == qWorld own && v < 65536 then
      return some (← takeEntry v (qHead q) fun q => q.setHead (qHead q + 1))
    else steal own r

/-- One pass of `tget` on tile t: the newest own entry, else the oldest of a victim (R249). -/
def takeTask (t : TileId) (n : Nat) : M (Option (List Word)) := do
  let q := (← get).queue n
  if qCount q ≠ 0 && !qHalt q then
    let i := (qTail q + 2 ^ 32 - 1) % 2 ^ 32
    return some (← takeEntry n i fun q => q.setTail i)
  else steal q (victims q t.val)

/-- Results in g[D] on. -/
def putAt (s : State) (h : HartId) (d : GReg) : List Word → State
  | [] => s
  | v :: r => putAt (s.setG h d v) h (d + 1) r

/-- A pass, and what ends the instruction or makes it wait (R249). -/
def tgetPass (d : GReg) (n : Nat) : M Unit := do
  let h := (← get).me
  match ← takeTask (tileOf h) n with
  | some t =>
    modify fun s => (putAt s h d t).setSt h 5 (w64 ((t.getD 3 0).toNat / 16 % 2))
    syncDone
  | none =>
    let q := (← get).queue n
    if qKv q && ((← get).kernel (qKernel q)).closed then
      modify fun s => putAt s h d [0, 1]
      syncDone
    else if qNb q then
      modify fun s => putAt s h d [0, 0]
      syncDone
    else
      -- what a blocked hart has stored is performed (R263)
      releaseS
      modify fun s => performHart s h
      waitIn h (.tget n .quiet)

def execTget (d a : GReg) (s : State) : Out :=
  inControl (encode (.tget d a)) (do
    let s ← get
    let h := s.me
    if d.val % 4 ≠ 0 || d = 0 then trap 0x01 (encode (.tget d a))
    match (s.hart h).live.wait with
    -- the kernel closed while the `tget` was blocked (R266)
    | .tget _ .closed =>
      modify fun s => putAt s h d [0, 1]
      syncDone
    -- the queue's function was reset (R321)
    | .tget _ .gone =>
      modify fun s => putAt s h d [0, 0]
      syncDone
    -- between passes EN is not looked at, and a pass is made when a TAIL has grown
    | .tget n .grown => tgetPass d n
    | .tget _ .quiet => throw { cause := waits, tval := 0 }
    | _ =>
      let n ← queueAt (whoS s h) (s.r a).toNat 0x03
      let q := (← get).queue n
      -- the slot is bound to the queue's kernel (R263)
      if qKv q then modify fun s => s.onTile (tileOf h) fun t => { t with bind := t.bind.set (slotOf h) (w64 (qKernel q + 4096)) }
      if !isTask q then
        modify fun s => putAt s h d [0, 0]
        syncDone
      else tgetPass d n) s

def execTgetWake (h : HartId) (s : State) : Out :=
  tryWaiting h (fun w => match w with | .tget _ _ => true | _ => false) (fun i => match i with | .tget d a => some (execTget d a) | _ => none) s

/-! The walker (R234). -/

/-- A notice of the walker to the forking hart's function. -/
def walkNotice (iss : Issuer) (cause tval : Nat) (s : State) : State :=
  postNotice s iss.func (match iss.hart with | some h => hartIdWord h | none => 0xFFFFFFFFFFFFFFFF) cause 0 (w64 tval)

def walkWho (iss : Issuer) : Who := iss.eng (match iss.hart with | some h => tileOf h | none => 0)

/-- A read or an operation of the walker: its value, or the notice that a skip appends. -/
def walkTry {α : Type} (iss : Issuer) (at_ : Nat) (m : M α) (s : State) : Option α × State :=
  match m.run.run s with
  | (.ok v, s') => (some v, s')
  | (.error t, s') => (none, walkNotice iss t.cause at_ s')

/-- The continuation of a join block whose count has reached 0. -/
def enqueue (iss : Issuer) (x : Xl) (s : State) : State :=
  let w := walkWho iss
  let k := eKey x.leaf
  let s := recallLines s x.pa 32 none
  let qa := seenRead s w (x.pa + 8) k 8
  let da := seenRead s w (x.pa + 16) k 8
  match walkTry iss qa (queueAt w qa 0x03) s with
  | (none, s) => s
  | (some n, s) =>
    match walkTry iss da (taskAt w da) s with
    | (none, s) => s
    | (some t, s) =>
      if !isTask (s.queue n) then walkNotice iss 0x05 qa s
      else if qFull (s.queue n) then
        let c := seenRead s w x.pa k 8
        walkNotice iss 0x10 qa (runM (physWrite w false x.pa 8 (c ||| 2 ^ 61) k) s)
      else match (ringThere n 1 []).run.run s with
        | (.error t, s) => walkNotice iss t.cause t.tval.toNat s
        | (.ok _, s) => appendTask s (iss.hart.map tileOf) n t

/-- One walker step on the join block at j. -/
def blockStep (iss : Issuer) (j : Nat) (err : Bool) (s : State) : State :=
  let w := walkWho iss
  match walkTry iss j (do
      let x ← targetCheck w .atomic j
      if !(← outside x j) then trap 0x04 j
      return x) s with
  | (none, s) => s
  | (some x, s) =>
    if underScrub s x then raiseAt s iss.hart 0 (w64 j)
    else
      let k := eKey x.leaf
      let s := recallLines s x.pa 32 none
      let c := seenRead s w x.pa k 8
      let c := if err then c ||| 2 ^ 63 else c
      if c % 2 ^ 32 = 0 then runM (physWrite w false x.pa 8 (c ||| 2 ^ 62) k) s
      else
        let s := runM (physWrite w false x.pa 8 (c - 1) k) s
        if (c - 1) % 2 ^ 32 = 0 then enqueue iss x s.nextStore else s

/-- A walk's next step: at a join block, or at the link that it has reached. -/
def walkStep (s : State) (n : Nat) : State :=
  if !mhas s.walks n then s
  else
    let k := mget s.walks n ⟨⟨none, 0, 0, false⟩, 0, true, false, none⟩
    let drop (s : State) : State := { s with walks := mdel s.walks n }
    let a := k.at_.toNat
    if k.block then drop (blockStep k.iss a k.err s)
    else if a = 0 then drop s
    else
      let w := walkWho k.iss
      match walkTry k.iss a (loadV w a 8) s with
      | (none, s) => drop s
      | (some next, s) =>
        let s := match walkTry k.iss a (loadV w (a + 8) 8) s with
          | (none, s) => s
          | (some j, s) => blockStep k.iss j k.err s
        if next = 0 then drop s
        else { s with walks := mset s.walks n { k with at_ := w64 next } }.later (.walkerStep n)

def execWalkerStep (n : Nat) (s : State) : Out := .next (walkStep s n)

end
end Sys2Proof.Machine
end

