-- ==== Sys2Proof/Machine/Streams.lean ====
section
/-! DEFINITION. Rays, copies and `exit` (11 R183 to R200, 12 R216). -/
namespace Sys2Proof.Machine
noncomputable section

/-! sbind (R186). -/

def rayError {α : Type} (reg : VReg) (reason : Nat) : M α := trap 0x09 (reg.val + 256 * reason)

/-- The ray state of a new binding (R192). -/
def rayEntry (v : VReg) (desc : Word) (d : Vector Word 8) : Vector Word 8 :=
  let f := d[4].toNat
  #v[w64 (1 + 2 * v.val + f % 2 * 64 + f / 2 % 2 * 128 + f / 4 % 2 * 256 + f / 256 % 16 * 4096), desc, 0, 0, 0, 0, 0, 0]

/-- The eight words of a descriptor, by the S agent, with the faults of one load at its address (R186). -/
def readDescriptor (h : HartId) (a : Nat) : M (Vector Word 8) := do
  if a % 64 ≠ 0 then trap 0x03 a
  let s ← get
  let w := whoS s h
  match xlate s w .load a with
  | .error t => throw t
  | .ok x =>
    if eKind x.leaf == 2 then
      set (touch s x false)
      trap 0x0E a
  match ((List.range 8).mapM fun i => do return w64 (← loadV w (a + 8 * i) 8)).run.run s with
  | (.ok ws, s) =>
    set s
    return Vector.ofFn fun i : Fin 8 => ws.getD i.val 0
  | (.error t, s) => set s; throw (if t.cause = waits then t else { t with tval := w64 a })

/-- The environment of an entry that is no vector operation. -/
def plainEnv (s : State) (enc : Nat) (g : List Word) : Env :=
  let c := (s.hart s.me).c
  { h := s.me, pc := s.pc, enc := enc, lanes := s.lanes s.me, vt := c.vt, vl := c.vl, rm := c.st[3].toNat, g := g, thread := .control }

/-- `sbind` (R186).  DESIGN CHOICE: of several free entries the ray takes the lowest (log 78). -/
def execSbind (v : VReg) (a : GReg) (s : State) : Out :=
  inControl (encode (.sbind v a)) (do
    let s ← get
    let h := s.me
    let d ← readDescriptor h (s.r a).toNat
    let s ← get
    let c := (s.hart h).c
    if descBad d then rayError v 0x10
    if (rayBound c v.val).isSome then rayError v 0x11
    match (List.finRange 8).find? fun r => c.rays[r][0].toNat % 2 == 0 with
    | none => rayError v 0x12
    | some r =>
      if !landOk s (whoS s h) (tileOf h) d[5].toNat (256 * (d[4].toNat / 65536 % 256)) then rayError v 0x13
      if 12 ≤ vqCount c then waitIn h .vqueue
      let s := s.onHart h fun x => { x with
        c := { x.c with rays := x.c.rays.set r (rayEntry v (s.r a) d) }
        live := { x.live with rdesc := x.live.rdesc.set r d }
        rayRest := x.rayRest &&& ~~~(BitVec.ofNat 8 (2 ^ r.val)) }
      set (retire (vqPush s h (mkEntry (plainEnv s (encode (.sbind v a)) [s.r a]) false)) 4)) s

/-- What stands at the head of the vector queue, not begun; the VPs of the fetches before it have stopped (R158). -/
def headInstr (s : State) (h : HartId) : Option (Nat × Instr) :=
  if unitLive s h then
    (headEntry s h).bind fun k =>
      if (s.hart h).live.tvps.any fun t => t.entry < k then none
      else (decode (vqAt (s.hart h).c k)[1].toNat).map fun i => (k, i)
  else none

/-- A register that becomes a ray, or ceases to be one, holds nothing (R183, R187). -/
def forgetReg (s : State) (h : HartId) (j : Nat) : State :=
  s.onHart h fun x => { x with
    c := { x.c with hw := x.c.hw.set! j 0, st := x.c.st.set 16 (x.c.st[16] &&& ~~~(w64 (2 ^ j))) }
    live := { x.live with v := x.live.v.set! j 0, vPois := x.live.vPois.set! j 0 } }

/-- The `sbind` leaves the vector queue: LIVE := 1, and the ray starts (R186). -/
def execSbindStart (h : HartId) (s : State) : Out :=
  .next (match headInstr s h with
    | some (k, .sbind v _) =>
      let s := vqDrop s h k
      (match rayBound (s.hart h).c v.val with
        | some r => forgetReg (setRayW s h r 0 (putBits (rayW s h r 0) 9 9 1)) h v.val
        | none => s)
    | _ => s)

/-! sfree (R187, R191). -/

/-- The ray's error stands from a restore that could not read or check its descriptor (R192). -/
def restoreErr (s : State) (h : HartId) (r : Fin 8) : Bool := rayErr s h r != 0 && (s.hart h).rayRest.toNat / 2 ^ r.val % 2 == 1

/-- The ray ends: a store ray drains, DONE is resolved, the register is unbound.  True where a drain faulted. -/
def rayClose (h : HartId) (r : Fin 8) (s : State) : State × Bool :=
  let reg := rayReg s h r
  let s := if rayDir s h r then rayAdvance h r (rayPos s h r) (rayRoom s h r + 1) s else s
  let bad := rayErr s h r != 0 && (rayDir s h r || restoreErr s h r)
  let s := if bad then (if restoreErr s h r then rayDone s h r false else s) else rayDone s h r true
  let w0 := rayW s h r 0
  (forgetReg (setRayW s h r 0 (putBits (putBits (putBits w0 0 0 0) 9 9 0) 16 16 0)) h reg, bad)

/-- The ray of an `sfree` at pc ends; a drain that faulted is a vector-side fault (R191). -/
def sfreeEnd (h : HartId) (v : VReg) (pc : Word) (s : State) : State :=
  match rayBound (s.hart h).c v.val with
  | some r =>
    let (s, bad) := rayClose h r s
    if bad then s.onLive h fun l => { l with
      frozen := true, vfault := some { cause := 0x09, tval := w64 (v.val + 0x700), tpc := some pc } } else s
  | none => s

/-- `sfree` enters the vector queue; with DONE = 0 the control thread stalls at it until it has left the queue (R187). -/
def execSfree (v : VReg) (s : State) : Out :=
  inControl (encode (.sfree v)) (do
    let s ← get
    let h := s.me
    let x := s.hart h
    if x.live.wait == .sfree then throw { cause := waits, tval := 0 }
    match rayBound x.c v.val with
    | none => rayError v 0x20
    | some r =>
      if rayD s h r 6 = 0 && vIdle x && !x.live.frozen then set (retire (sfreeEnd h v s.pc s) 4)
      else
        if 12 ≤ vqCount x.c then waitIn h .vqueue
        let s' := vqPush s h (mkEntry (plainEnv s (encode (.sfree v)) []) false)
        if rayD s h r 6 = 0 then
          set s'
          waitIn h .sfree
        else set (retire s' 4)) s

/-- The `sfree` leaves the vector queue, and a control thread that stalls at it goes on. -/
def execSfreeAct (h : HartId) (s : State) : Out :=
  .next (match headInstr s h with
    | some (k, .sfree v) =>
      let pc := (vqAt (s.hart h).c k)[0]
      let s := sfreeEnd h v pc (vqDrop s h k)
      if (s.hart h).live.wait == .sfree && (s.hart h).c.pc == pc then
        (s.onCtx h fun c => { c with pc := pc + 4 }).setWait h .none
      else s
    | _ => s)

/-! sstat (R188). -/

/-- A queued instruction names register n; what a stream will name is not known before it runs. -/
def entryNames (s : State) (h : HartId) (n : Nat) (x : Vector Word 8) : Bool :=
  match decode x[1].toNat with
  | some (.sbind v _) => v.val == n
  | some (.sfree v) => v.val == n
  | some i =>
    match vopOf i with
    | some (op, _) =>
      let e := entryEnv s h x .control
      ((op.srcs e ++ op.noRay e ++ (op.index e).toList).any fun y => y.reg ≤ n && n < y.reg + y.n)
      || (op.dsts e).any fun d => match d with | .v r _ k => r ≤ n && n < r + k | .m _ => false
    | none => true
  | none => true

def rayStatus (s : State) (h : HartId) (r : Fin 8) : Nat :=
  let pos := rayPos s h r
  let eng := rayEng s h r
  let held := if rayHeld s h r then rayHeldN s h r else 0
  let avail := if rayDir s h r then pos - held - eng else eng - pos
  let done := if rayDir s h r then eng == pos - held else pos == rayCount s h r
  avail % 2 ^ 32 + 2 ^ 32 + (rayDir s h r).toNat * 2 ^ 33 + (rayTrim s h r).toNat * 2 ^ 34 + done.toNat * 2 ^ 35 + rayErr s h r * 2 ^ 36

def execSstat (d : GReg) (v : VReg) (s : State) : Out :=
  inControl (encode (.sstat d v)) (do
    let s ← get
    let h := s.me
    let c := (s.hart h).c
    if (List.range (vqCount c)).any fun k => entryNames s h v.val (vqAt c k) then waitIn h .join
    put d (match rayBound c v.val with | some r => w64 (rayStatus s h r) | none => 0) 4) s

/-! The engine's work for a ray (R194). -/

def execRayPrefetch (h : HartId) (r : RayId) (s : State) : Out :=
  .next (if rayDue s h r false then rayAdvance h r (rayEng s h r + 1) 1 s else s)
def execRayDrain (h : HartId) (r : RayId) (s : State) : Out :=
  .next (if rayDue s h r true then rayAdvance h r (rayEng s h r + 1) 1 s else s)
/-- The move that is due faults, and the ray records it (R191). -/
def execRayEngineFault (h : HartId) (r : RayId) (s : State) : Out :=
  .next (if rayDue s h r (rayDir s h r) then
    (match (rayMove h r (rayEng s h r)).run.run s with
      | (.error _, _) => rayAdvance h r (rayEng s h r + 1) 1 s
      | (.ok _, _) => s) else s)

/-! exit (R216). -/

/-- The rays end, and a fault in a drain raises no trap. -/
def closeRays (h : HartId) (s : State) : State :=
  (List.finRange 8).foldl (fun s r => if rayW s h r 0 % 2 = 1 then (rayClose h r s).1 else s) s

/-- Lane groups outside the home run are released after the save; then the images count as renegotiated (R223). -/
def exitGroups (h : HartId) (s : State) : State :=
  let w := s.slotWord h
  let t := s.tile (tileOf h)
  if (List.range 8).any fun g => holderOf t g == (slotOf h).val && !(slotHF w ≤ g && g < slotHF w + slotHN w) then
    (releaseToHome s h).onHart h Hart.renegotiated
  else s

def exitDone (h : HartId) (s : State) : State :=
  let s := retire (closeRays h s) 4
  let s := s.onCtx h fun c => { c with treg := c.treg &&& ~~~4#64 }
  let s := (save s h).onHart h fun x => { x with state := .exited, nstop := x.nstop + 1, step1 := false, latched := false }
  let s := s.onTile (tileOf h) fun t => { t with bind := t.bind.set (slotOf h) 0 }
  gearCheck (exitGroups h s) (tileOf h)

def execExit (s : State) : Out :=
  inControl (encode .exit) (do
    let s ← get
    let h := s.me
    if !vIdle (s.hart h) then waitIn h .exit
    set (exitDone h s)) s

/-! Copies: fork (R196). -/

/-- Offsets of the strips of n bytes. -/
def strips (n : Nat) : List Nat := (List.range ((n + 4095) / 4096)).map (4096 * ·)

/-- The copy's object when it is done: the future resolved, or the last subtraction made; then event 0x101.  The cause that
the engine records. -/
def copyEnd (s : State) (c : Copy) (ok : Bool) : State × Option Nat :=
  let (s, e) := if c.kind = 0 then resolveBy s c.iss c.tile c.obj ok else (s, none)
  (if ok then raiseAt s c.iss.hart 0 c.obj else s, e)

/-- Engine e records a cause, if any, and an address (R200). -/
def recordErr (s : State) (e : Nat) (c : Option Nat) (addr : Word) : State :=
  match c with
  | some k => engineNote s e k addr.toNat
  | none => s

/-- A copy is forked: its strips wait for engines; one of no bytes completes at once.  DESIGN CHOICE: where its future cannot be
resolved, engine 0 of the tile records that (log 80). -/
def forkCopy (s : State) (c : Copy) : State :=
  if c.len = 0 then
    let (s, k) := copyEnd s c true
    recordErr s (4 * c.tile.val) k c.obj
  else
    { s with copies := mset s.copies (freshKey s.copies) { c with untaken := strips c.len } }.later (.copyStripTake (Fin.ofNat 2048 (4 * c.tile.val)))

def copyIssue (i : Instr) (d a b : GReg) (kind : Fin 3) : M Unit := do
  let s ← get
  let h := s.me
  let c := (s.hart h).c
  if trimPending s h then waitIn h .join
  if vtIll c.vt then trap 0x0D c.vt
  let w := fmtWidth (vtEw c.vt)
  if w < 8 then trap 0x01 (encode i)
  let obj := s.r b
  if obj.toNat % 8 ≠ 0 then trap 0x03 obj.toNat
  match xlate s (whoS s h) .store obj.toNat with
  | .error t => throw t
  | .ok x =>
    if x.region == .host then trap 0x05 obj.toNat
    if eKind x.leaf == 2 then trap 0x0E obj.toNat
    let cp : Copy := { iss := issuer s h, tile := tileOf h, src := s.r a, dst := s.r d, len := c.vl * w / 8, obj := obj, kind := kind,
                       untaken := [], kernel := boundKernel s h }
    -- the fork orders the S agent's earlier accesses before the copy (R64, R65)
    set (retire (forkCopy (sendHome s (tileOf h)) cp) 4)

def execScopy (d a b : GReg) (s : State) : Out := inControl (encode (.scopy d a b)) (copyIssue (.scopy d a b) d a b 0) s
def execScopyb (d a b : GReg) (s : State) : Out := inControl (encode (.scopyb d a b)) (copyIssue (.scopyb d a b) d a b 1) s

/-! Copies: strips (R197 to R199). -/

def engTile (e : EngineId) : Nat := e.val / 4
def sliceOpen (s : State) (c : Copy) : Bool := !c.suspended && (s.func c.iss.func).inSlice
/-- The strip at offset off reads or writes a page whose bytes a copy takes in ascending order: host-shared or
device-ordered (R197). -/
def stripOrdered (s : State) (c : Copy) (off : Nat) : Bool :=
  let w := c.iss.eng c.tile
  let len := min 4096 (c.len - off)
  let on (acc : Acc) (va : Nat) : Bool := match xlate s w acc (va % 2 ^ 64) with
    | .ok x => eKind x.leaf == 1 || eKind x.leaf == 4
    | .error _ => false
  on .load (c.src.toNat + off) || on .load (c.src.toNat + off + len - 1) || on .store (c.dst.toNat + off) || on .store (c.dst.toNat + off + len - 1)
/-- A strip of copy n may be taken: where the order of bytes matters, after every lower strip where it does. -/
def stripFree (s : State) (n : Nat) (c : Copy) (off : Nat) : Bool :=
  !stripOrdered s c off || !((c.untaken.any fun o => o < off && stripOrdered s c o)
    || s.engines.any fun p => match p.2.strip with | some (m, o, _) => m == n && o < off && stripOrdered s c o | none => false)
/-- Every engine of tile t carries a strip. -/
def enginesBusy (s : State) (t : Nat) : Bool := (List.range 4).all fun i => (s.engine (4 * t + i)).strip.isSome
/-- An idle engine of tile t is the first in ring order from tile u + 1 (R197). -/
def firstIdle (s : State) (u t : Nat) : Bool :=
  (List.range ((t + 8 - u % 8 - 1) % 8)).all fun k => enginesBusy s (u / 8 * 8 + (u + 1 + k) % 8)
/-- The strip that an idle engine of tile t takes: the lowest of its own tile, else the highest of a copy of another tile of
the cluster, for which the tiles are probed in ring order from that one on. -/
def stripFor (s : State) (t : Nat) : Option (Nat × Nat) :=
  (s.copies.findSome? fun (n, c) =>
    if c.tile.val = t && sliceOpen s c then (c.untaken.find? (stripFree s n c)).map fun o => (n, o) else none).orElse fun _ =>
  s.copies.findSome? fun (n, c) =>
    if c.tile.val ≠ t && c.tile.val / 8 = t / 8 && sliceOpen s c && firstIdle s c.tile.val t then
      (c.untaken.reverse.find? (stripFree s n c)).map fun o => (n, o) else none

def noCopy : Copy := { iss := ⟨none, 0, 0, false⟩, tile := 0, src := 0, dst := 0, len := 0, obj := 0, kind := 2, untaken := [] }

def execCopyStripTake (e : EngineId) (s : State) : Out :=
  .next (match (s.engine e.val).strip, stripFor s (engTile e) with
    | none, some (n, off) =>
      let c := mget s.copies n noCopy
      let len := min 4096 (c.len - off)
      let s := { s with copies := mset s.copies n { c with untaken := c.untaken.filter (· != off), running := c.running + 1 } }
      let x := s.engine e.val
      (s.setEngine e.val { x with
        strip := some (n, off, len)
        w := ((((x.w.set 0 (w64 (1 + 256 * (c.iss.func % 256)))).set 1 (c.src + w64 off)).set 2 (c.dst + w64 off)).set 3 (w64 len)).set 4 c.obj }).later
        (.copyStripComplete e)
    | _, _ => s)

/-- One source byte. -/
def copyByte (w : Who) (va : Nat) : M Byte := do
  let s ← get
  match xlate s w .load (va % 2 ^ 64) with
  | .error t => throw t
  | .ok x =>
    if eKind x.leaf == 3 then trap 0x05 va
    set (touch s x false)
    if eKind x.leaf == 2 then trap 0x0E va
    if poisoned s x.pa 1 then trap 0x0B va
    request w x va
    let v ← physRead w x.pa 1 (eKey x.leaf)
    return BitVec.ofNat 8 v

/-- The destination bytes at va: a whole word, or one byte. -/
def copyPut (w : Who) (va : Nat) (bs : List Byte) : M Unit := do
  let s ← get
  let n := bs.length
  match xlate s w .store (va % 2 ^ 64) with
  | .error t => throw t
  | .ok x =>
    if eKind x.leaf == 3 then trap 0x05 va
    set (touch s x true)
    if eKind x.leaf == 2 then trap 0x0E va
    if n < 8 && poisoned s x.pa n then trap 0x0B va
    physWrite w false x.pa n (bs.foldr (fun b a => b.toNat + 256 * a) 0) (eKey x.leaf)

/-- The bytes of a strip from offset i: aligned words whole, others one by one.  `old` are the source bytes as they stood
when the strip began; where the ranges overlap, a byte may be the one already written, but for bytes that are read once in
order (R197; log 13). -/
def copyBytes (w : Who) (src dst : Nat) (once : Bool) (old : List Byte) : Nat → Nat → M Unit
  | 0, _ => pure ()
  | fuel + 1, i => do
    if old.length ≤ i then return
    let n := if (dst + i) % 8 = 0 && i + 8 ≤ old.length then 8 else 1
    let bs ← (List.range n).mapM fun j => do
      let now := (← get).now
      let o := old.getD (i + j) 0
      let cur ← if once then pure o else copyByte w (src + i + j)
      return if cur = o then o else if Config.overlapNew now (src + i + j) then cur else o
    copyPut w (dst + i) bs
    copyBytes w src dst once old fuel (i + n)

/-- The strip is performed. -/
def stripMove (c : Copy) (off len : Nat) : M Unit := do
  let w := c.iss.eng c.tile
  modify State.nextStore
  let once := stripOrdered (← get) c off
  let old ← (List.range len).mapM fun j => copyByte w (c.src.toNat + off + j)
  copyBytes w (c.src.toNat + off) (c.dst.toNat + off) once old len 0

/-- The engine is idle again, and takes a next strip where one waits; ESTATE says suspended where its copy's strips wait for
the function's next slice (R199, R200). -/
def engineIdle (s : State) (e : EngineId) : State :=
  let x := s.engine e.val
  let waitsOn := match x.strip with
    | some (n, _, _) => mhas s.copies n && (mget s.copies n noCopy).suspended && !(mget s.copies n noCopy).untaken.isEmpty
    | none => false
  let s := s.setEngine e.val { x with strip := none, w := (((((x.w.set 0 (if waitsOn then w64 (2 + x.w[0].toNat / 256 * 256) else 0)).set 1 0).set 2 0).set 3 0).set 4 0) }
  if (stripFor s (engTile e)).isSome then s.later (.copyStripTake e) else s

/-- Copy n has one strip less running; with the last one it ends. -/
def copySettle (s : State) (e : EngineId) (n : Nat) : State :=
  let c := mget s.copies n noCopy
  let c := { c with running := c.running - 1 }
  if c.untaken.isEmpty ∧ c.running = 0 then
    let (s, k) := copyEnd { s with copies := mdel s.copies n } c (!c.failed)
    recordErr s e.val k c.obj
  else { s with copies := mset s.copies n c }

/-- What engine e's strip meets: performed (R198), or a fault that abandons its copy. -/
def stripOutcome (s : State) (e : EngineId) : Option (Nat × Copy × Nat × Except Trap Unit × State) :=
  (s.engine e.val).strip.map fun (n, off, len) =>
    let c := mget s.copies n noCopy
    let (r, s') := (stripMove c off len).run.run s
    (n, c, len, r, s')

def stripDone (s : State) (e : EngineId) (n : Nat) (c : Copy) (len : Nat) : State :=
  let s := s.nextStore
  let s := if c.kind = 1 then
      let (s, k) := deliver s c.iss c.tile c.obj len
      recordErr s e.val k c.obj
    else s
  engineIdle (copySettle s e n) e

def stripFault (s : State) (e : EngineId) (n : Nat) (c : Copy) (t : Trap) : State :=
  let s := engineNote s e.val t.cause t.tval.toNat
  let s := raiseAt s c.iss.hart 0 c.obj
  let s := { s with copies := mset s.copies n { c with untaken := [], failed := true } }
  engineIdle (copySettle s e n) e

def execCopyStripComplete (e : EngineId) (s : State) : Out :=
  .next (match stripOutcome s e with
    | some (n, c, len, .ok _, s') => stripDone s' e n c len
    | some (n, c, _, .error t, s') => stripFault s' e n c t
    | none => s)
def execCopyStripFault (e : EngineId) (s : State) : Out :=
  .next (match stripOutcome s e with
    | some (n, c, _, .error t, s') => stripFault s' e n c t
    | _ => s)

end
end Sys2Proof.Machine
end

