-- ==== Sys2Proof/Machine/Tangent.lean ====
section
/-! DEFINITION. Tangent regions and the fitting engine (17 R270 to R288). -/
namespace Sys2Proof.Machine
noncomputable section

/-! The surrogate, in FP32 under RNE (R272). -/

/-- x × y + z and x / y with one rounding; the flags reach no XFLAGS. -/
def fma32 (x y z : Nat) : Nat := (fpFma 8 0 false false x y z).1
def nfma32 (x y z : Nat) : Nat := (fpFma 8 0 true false x y z).1
def add32 (x y : Nat) : Nat := (fpAdd 8 0 x y).1
def sub32 (x y : Nat) : Nat := (fpSub 8 0 x y).1
def abs32 (x : Nat) : Nat := x % 2 ^ 31
def nat32 (n : Nat) : FV := ofInt n 0
def one32 : Nat := 0x3F800000
def positive32 (x : Nat) : Bool := (fpLt 8 0 x).1
def nan32 (x : Nat) : Bool := (decodeFP 8 x).isNaN

/-- Positions of the weights (R272). -/
def ixW1 (h j : Nat) : Nat := 8 * h + j
def ixB1 (h : Nat) : Nat := 256 + h
def ixW2 (o h : Nat) : Nat := 288 + 32 * o + h
def ixB2 (o : Nat) : Nat := 416 + o
def TSlot.wt (k : TSlot) (i : Nat) : Nat := (k.w[i]!).toNat

structure Forward where
  z : List Nat
  a : List Nat
  y : List Nat

def activate (tanh : Bool) (z : Nat) : Nat :=
  if tanh then (special 4 8 z).1 else if positive32 z || nan32 z then z else 0
/-- The surrogate's outputs for the inputs x, with what the hidden units hold. -/
def surrogate (k : TSlot) (x : List Nat) : Forward :=
  let z := (List.range k.nhid).map fun h =>
    (List.range k.nin).foldl (fun s j => fma32 (k.wt (ixW1 h j)) (x.getD j 0) s) (k.wt (ixB1 h))
  let a := z.map (activate k.act)
  let y := (List.range k.nout).map fun o =>
    (List.range k.nhid).foldl (fun s h => fma32 (k.wt (ixW2 o h)) (a.getD h 0) s) (k.wt (ixB2 o))
  ⟨z, a, y⟩

/-! The sample ring (R276). -/

def ringEntry (k : TSlot) (i : Nat) : Nat := k.sbphys.toNat + 64 * (i % 1024)
/-- The engine writes and reads the ring at device scope; its writes do not invalidate slot n (R285). -/
def ringStore (n pa bytes v : Nat) : M Unit := physWrite whoHome false pa bytes v 0 (some n)
def ringWord (pa bytes : Nat) : M Nat := physRead whoHome pa bytes 0
def ringFloats (pa : Nat) (n : Nat) : M (List Nat) := (List.range n).mapM fun j => ringWord (pa + 4 * j) 4
/-- Four-byte fields, zero from the end of xs on. -/
def putFloats (n pa : Nat) (count : Nat) (xs : List Nat) : M Unit :=
  (List.range count).forM fun j => ringStore n (pa + 4 * j) 4 (xs.getD j 0)

/-! The open region (R277). -/

def tregTslot (t : Word) : Nat := t.toNat % 4
def tregOpen (t : Word) : Bool := t.toNat / 4 % 2 == 1
def tregFacet (t : Word) : Bool := t.toNat / 8 % 2 == 1
def tregMode (t : Word) : Nat := t.toNat / 16 % 4
def tregState (t : Word) : Nat := t.toNat / 256 % 8
def tregStage (t : Word) : Nat := t.toNat / 65536 % 1024
def tregNum (t : Word) : Nat := t.toNat / 2 ^ 32 % 1024
def tregWord (k mode st stage num : Nat) (facet : Bool) : Word :=
  w64 (k + 4 + 8 * facet.toNat + 16 * mode + 256 * st + 65536 * stage + 2 ^ 32 * num)

/-- The slot that an instruction of hart h names, and its page. -/
def slotNo (h : HartId) (k : Fld5) : Nat := 4 * (tileOf h).val + k.val % 4
def slotPage (n : Nat) : Nat := 0x200300000000 + n * 0x4000
/-- The owner's check (R270), of a slot whose tile is not quarantined (R20). -/
def ownerCheck (h : HartId) (n : Nat) : M Unit := do
  let s ← get
  if quarantined s (slotPage n) then trap 0x04 (slotPage n)
  let k := s.tslot n
  if !(k.ov && k.oslot == slotOf h && k.ofunc == (s.hart h).func.toNat) then trap 0x05 (slotPage n)

/-- An instruction of control-thread code and of streams, with the VT and VL that it runs with. -/
def regionCode (i : Instr) (f : Env → M Unit) (s : State) : Out :=
  let h := s.me
  let c := (s.hart h).c
  let env (th : Thread) (vt vl rm : Nat) : Env :=
    { h := h, pc := threadPc s h th, enc := encode i, lanes := s.lanes h, vt := vt, vl := vl, rm := rm, g := [], thread := th }
  match s.cur.thread with
  | .control => finish (f (env .control c.vt c.vl c.st[3].toNat)) s
  | .stream =>
    let x := entryEnv s h (vqAt c ((curEntry c).getD 0)) .stream
    facetFinish (f (env .stream x.vt x.vl x.rm)) s
  | .vp _ => facetFinish (trap 0x01 (encode i)) s

def goTo (e : Env) (pc : Word) : M Unit := modify fun s =>
  match e.thread with
  | .control => retire (s.setPc e.h pc) 0
  | t => threadGo s e.h t pc

/-- Element i of the group at register r stands in a register that a ray takes: one that is bound, or of a group that starts at
such a one (R183). -/
def inRay (s : State) (e : Env) (r i : Nat) : Bool :=
  let c := (s.hart e.h).c
  (rayOf c (r % 32)).isSome || (rayOf c ((r + elemReg e.lanes 32 i) % 32)).isSome
/-- Element i of input or output group j; a poisoned one is consumed (R219).  DESIGN CHOICE: where a ray takes the register, which
then holds no value, a free value is read, and no strip is taken: VIN and VOUT are no operands (log 42). -/
def regionElem (e : Env) (first j i : Nat) : M Nat := do
  let s ← get
  let r := first + j * e.G
  let k := (r + elemReg e.lanes 32 i) % 32
  if inRay s e r i then return (Config.boundElem s.now k i).toNat
  if elemPoisoned s e.h e.lanes r 32 i then poisonTrap .vector k (elemBit e.lanes 32 i) 32 k i
  return readElem s e.h e.lanes r 32 i

/-- `apx` and `apxend` are join points: every VP of earlier fetches has stopped, and every earlier queued instruction has
completed, of a frozen unit too (R158, R279, R351). -/
def regionJoin (e : Env) : M Unit := do
  match e.thread with
  | .control => joinAll e.h .join
  | _ =>
    let s ← get
    let k := curEntry (s.hart e.h).c
    if (s.hart e.h).live.tvps.any (fun t => some t.entry != k) then throw { cause := waits, tval := 0 }
  modify fun s => joinV s e.h

/-- Waits until every step queued for slot n is done (R278, R286). -/
def stepsWait (e : Env) (n : Nat) : M Unit := do
  if ((← get).tslot n).steps ≠ 0 then
    match e.thread with
    | .control => waitIn e.h .apx
    | _ => throw { cause := waits, tval := 0 }

/-- The dependency read: forked, so that what the hart's agents have stored is performed (R64), and performed at the home of the
range, which recalls what stands dirty there (R49, R286). -/
def depRead (h : HartId) (n : Nat) (s : State) : State :=
  let s := sendHome (performHart s h) (tileOf h)
  let k := s.tslot n
  if k.depbase.toNat < k.deplimit.toNat then recallLines s k.depbase.toNat (k.deplimit.toNat - k.depbase.toNat) none else s

/-- Element i of the output group at register r becomes v; nothing is written to what a ray takes (R183). -/
def outElem (e : Env) (r i v : Nat) (s : State) : State :=
  if inRay s e r i then s else applyWr e s (wrElem e r 32 i v)

/-- A call answered by the surrogate (R278). -/
def answer (e : Env) (k : TSlot) (xs : List (Nat × List Nat)) : M Unit := do
  let first (o : Nat) : Nat := k.vout + o * e.G
  xs.forM fun (i, x) =>
    modify fun s => ((surrogate k x).y.zipIdx).foldl (fun s p => outElem e (first p.2) i p.1 s) s
  let above := (List.range (e.G * perReg e.lanes 32 - e.vl)).map (e.vl + ·)
  modify fun s => (List.range k.nout).foldl (fun s o => above.foldl (fun s i => outElem e (first o) i 0 s) s) s
  modify fun s => (List.range k.nout).foldl (fun s o => marks e false s (Dst.v (first o) 32 e.G)) s

/-- The call's elements are staged after the pending samples (R276, R278). -/
def stage (n : Nat) (k : TSlot) (xs : List (Nat × List Nat)) : M Unit :=
  xs.zipIdx.forM fun ((i, x), j) => do
    modify State.nextStore
    let pa := ringEntry k (k.sbhead + k.sbcount + j)
    putFloats n pa 8 x
    ringStore n (pa + 0x30) 8 k.calls.toNat
    ringStore n (pa + 0x38) 8 i

def execApx (k : Fld5) (imm : Imm13) (s : State) : Out :=
  regionCode (.apx k imm) (fun e => do
    let s ← get
    let h := e.h
    let n := slotNo h k
    let facet := e.thread != .control
    let t := e.pc + w64 (2 * imm.toNat)
    -- an `apx` that waits for steps of the slot has made its checks
    if facet || (s.hart h).live.wait != .apx then
      regionJoin e
      let s ← get
      if tregOpen (s.hart h).c.treg then trap 0x01 e.enc
      ownerCheck h n
      let close ← fetchBytes (if facet then whoV s h else whoS s h) facet (t - 4).toNat 4
      if close ≠ encode (.apxend k) then trap 0x01 t.toNat
      if facet && !inFacet s h (threadFacet s h .stream) t then trap 0x01 t.toNat
      modify (depRead h n)
    stepsWait e n
    let s ← get
    let sl := s.tslot n
    if sl.st ≠ 0 then
      if vtEw e.vt ≠ 8 || vtIll e.vt then trap 0x01 e.vt
      if 512 < e.vl then trap 0x01 e.vl
      if 32 < sl.vin + sl.nin * e.G || 32 < sl.vout + sl.nout * e.G then trap 0x01 e.enc
    let mode := if sl.st = 0 then 0 else if sl.st = 2 then 1 else 2
    let act := if mode = 0 then [] else (List.range e.vl).filter (liveAt s e)
    let xs ← act.mapM fun i => do
      let x ← (List.range sl.nin).mapM fun j => regionElem e sl.vin j i
      return (i, x)
    let sl := { sl with calls := sl.calls + 1 }
    modify fun s => s.setTslot n sl
    if sl.st = 2 && sl.calls.toNat % sl.speriod ≠ 0 then
      answer e sl xs
      goTo e t
    else
      stage n sl xs
      modify fun s => s.onCtx h fun c =>
        let num := if mode = 0 then tregNum c.treg else xs.length
        let at_ := if mode = 0 then tregStage c.treg else (sl.sbhead + sl.sbcount) % 1024
        { c with treg := tregWord (k.val % 4) mode sl.st at_ num facet, tepoch := sl.epoch }
      goTo e (e.pc + 4)) s

/-- `apx` goes on when its dependency read returns (R286). -/
def execDependencyReadComplete (h : HartId) (s : State) : Out :=
  tryWaiting h (· == .apx) (fun i => match i with | .apx k imm => some (execApx k imm) | _ => none) s

/-! apxend (R280, R284). -/

/-- The mean of HIST: the ERRN newest entries, oldest first (R284). -/
def runErr (k : TSlot) : Nat :=
  if k.errn = 0 then 0
  else
    let sum := (List.range k.errn).foldl (fun s i => add32 s (k.hist[(k.errhead + 128 - k.errn + i) % 64]!).toNat) 0
    (fpDo 8 0 (divFV (decodeFP 8 sum) (nat32 k.errn))).1

def histPut (k : TSlot) (x : Nat) : TSlot :=
  { k with hist := k.hist.set! (k.errhead % 64) (BitVec.ofNat 32 x), errhead := (k.errhead + 1) % 64, errn := min 64 (k.errn + 1) }

/-- The largest error of an entry; a NaN is the largest (its pattern is above that of infinity). -/
def entryError (yh y : List Nat) : Nat := (List.zipWith (fun a b => abs32 (sub32 a b)) yh y).foldl max 0
def beyond (k : TSlot) (x : Nat) : Bool := nan32 x || (fpLt 8 k.emax x).1

/-- A sampled call: each entry's element, staged inputs and true outputs. -/
def checkCall (h : HartId) (n : Nat) (es : List (Nat × List Nat × List Nat)) (no : Nat) : M Unit := do
  let k := (← get).tslot n
  let errs := es.map fun (i, x, y) => (i, entryError (surrogate k x).y y)
  let bad := errs.find? fun p => beyond k p.2
  let k := errs.foldl (fun k p => histPut k p.2) k
  let k := { k with sampled := k.sampled + 1 }
  let k := { k with runerr := BitVec.ofNat 32 (runErr k) }
  match bad with
  | none => modify fun s => s.setTslot n k
  | some (i, _) =>
    modify fun s => s.setTslot n { k with st := 3, fallbacks := k.fallbacks + 1, good := 0 }
    if ((← get).hart h).c.st[10].toNat / 65536 % 2 = 1 then trap 0x0F no i

/-- Recorded samples; each BATCH of them queues a step. -/
def recordCall (n : Nat) (stage num : Nat) (ys : List (List Nat)) : M Unit := do
  let k := (← get).tslot n
  ys.zipIdx.forM fun (y, j) => do
    modify State.nextStore
    putFloats n (ringEntry k (stage + j) + 0x20) 4 y
  modify fun s =>
    let k := s.tslot n
    let count := k.sbcount + num
    let more := count / max 1 k.batch - k.steps
    (List.range more).foldl (fun s _ => s.later (.trainingStep (Fin.ofNat 2048 n))) (s.setTslot n { k with sbcount := count, steps := k.steps + more })

def execApxend (k : Fld5) (s : State) : Out :=
  regionCode (.apxend k) (fun e => do
    let h := e.h
    regionJoin e
    let s ← get
    let n := slotNo h k
    let t := (s.hart h).c.treg
    if !tregOpen t then trap 0x01 e.enc
    ownerCheck h n
    if k.val % 4 ≠ tregTslot t || tregFacet t != (e.thread != .control) then trap 0x01 e.enc
    if tregMode t ≠ 0 && (vtEw e.vt ≠ 8 || vtIll e.vt) then trap 0x01 e.vt
    let sl := s.tslot n
    let close : M Unit := modify fun s => s.onCtx h fun c => { c with treg := c.treg &&& ~~~4#64 }
    if tregMode t = 0 || sl.st ≠ tregState t || sl.epoch ≠ (s.hart h).c.tepoch then
      close
      goTo e (e.pc + 4)
    else
      let es ← (List.range (tregNum t)).mapM fun j => do
        let pa := ringEntry sl (tregStage t + j)
        let i ← ringWord (pa + 0x38) 8
        let x ← ringFloats pa 8
        let y ← (List.range sl.nout).mapM fun o => regionElem e sl.vout o (i % 8192)
        return (i % 8192, x, y)
      close
      if tregMode t = 1 then checkCall h n es k.val else recordCall n (tregStage t) (tregNum t) (es.map fun p => p.2.2)
      goTo e (e.pc + 4)) s

/-- `apxinv` (R281). -/
def execApxinv (k : Fld5) (s : State) : Out :=
  regionCode (.apxinv k) (fun e => do
    ownerCheck e.h (slotNo e.h k)
    modify fun s => slotInvalidate s (slotNo e.h k)
    goTo e (e.pc + 4)) s

/-! Commands of the slot page (R274, R275). -/

def execEnable (k : TSlotId) (s : State) : Out := .next (slotEnable s k.val false)
def execDisable (k : TSlotId) (s : State) : Out := .next (slotDisable s k.val)
def execInvalidate (k : TSlotId) (s : State) : Out := .next (slotInvalidate s k.val)
def execLoad (k : TSlotId) (s : State) : Out := .next (slotEnable s k.val true)

/-! A training step (R282). -/

/-- Gradient sums by weight position, and the sum of absolute errors. -/
structure Grad where
  g : List (Nat × Nat) := []
  esum : Nat := 0

/-- The sum at a position becomes f of it. -/
def Grad.on (x : Grad) (i : Nat) (f : Nat → Nat) : Grad := { x with g := mset x.g i (f (mget x.g i 0)) }

/-- The terms of one sample, with the weights as they stood before the step. -/
def sampleGrad (k : TSlot) (acc : Grad) (x y : List Nat) : Grad :=
  let f := surrogate k x
  let d := (List.range k.nout).map fun o => sub32 (f.y.getD o 0) (y.getD o 0)
  let acc := (List.range k.nout).foldl (fun acc o =>
    let v := d.getD o 0
    let acc := ({ acc with esum := add32 acc.esum (abs32 v) }).on (ixB2 o) fun s => add32 s v
    (List.range k.nhid).foldl (fun acc h => acc.on (ixW2 o h) fun s => fma32 v (f.a.getD h 0) s) acc) acc
  (List.range k.nhid).foldl (fun acc h =>
    let g := (List.range k.nout).foldl (fun s o => fma32 (k.wt (ixW2 o h)) (d.getD o 0) s) 0
    let a := f.a.getD h 0
    let dl := if k.act then (fpMul 8 0 g (nfma32 a a one32)).1 else if positive32 (f.z.getD h 0) then g else 0
    let acc := acc.on (ixB1 h) fun s => add32 s dl
    (List.range k.nin).foldl (fun acc j => acc.on (ixW1 h j) fun s => fma32 dl (x.getD j 0) s) acc) acc

/-- The step on the samples xs, oldest first: the weights it leaves, and whether it was good. -/
def trained (k : TSlot) (xs : List (List Nat × List Nat)) : TSlot × Bool :=
  let acc := xs.foldl (fun acc p => sampleGrad k acc p.1 p.2) {}
  let sc := (fpDo 8 0 (divFV (.fin false 1 k.lrate false) (nat32 k.batch))).1
  let mae := (fpDo 8 0 (divFV (decodeFP 8 acc.esum) (nat32 (k.batch * k.nout)))).1
  let w := acc.g.foldl (fun w p => w.set! p.1 (BitVec.ofNat 32 (nfma32 sc p.2 (w[p.1]!).toNat))) k.w
  ({ k with w := w }, (fpLe 8 mae k.efit).1)

/-- The transitions of R275 at the end of a step. -/
def stepEnd (k : TSlot) (good : Bool) : TSlot :=
  let k := { k with sbhead := (k.sbhead + k.batch) % 1024, sbcount := k.sbcount - k.batch, steps := k.steps - 1 }
  if !good then { k with good := 0 }
  else if k.good + 1 = k.fitbatches then { k with st := 2, good := 0, sbcount := 0, steps := 0 }
  else { k with good := (k.good + 1) % 256 }

/-- A step of the slot may begin: its function is in its slice, and since it was last switched out a hart of it has run on
the tile (R283, R287); the tile is not quarantined (R20). -/
def stepsGo (s : State) (k : Nat) : Bool :=
  let sl := s.tslot k
  sl.steps ≠ 0 && (sl.st == 1 || sl.st == 3) && (s.func sl.ofunc).inSlice && !sl.held && !quarantined s (slotPage k)

/-- The oldest queued step of a slot; in a gear change of the tile it pauses (R283). -/
def execTrainingStep (k : TSlotId) (s : State) : Out :=
  let sl := s.tslot k.val
  .next (if !stepsGo s k.val then s
    else if (s.tile (Fin.ofNat 512 (k.val / 4))).gchg then s.retry (.trainingStep k)
    else runM (do
      let xs ← (List.range sl.batch).mapM fun b => do
        let pa := ringEntry sl (sl.sbhead + b)
        let x ← ringFloats pa 8
        let y ← ringFloats (pa + 0x20) 4
        return (x, y)
      let (sl, good) := trained sl xs
      modify fun s => s.setTslot k.val (stepEnd sl good)) s)

end
end Sys2Proof.Machine
end

