-- ==== Sys2Proof/Machine/HostCmd.lean ====
section
/-! DEFINITION. Notify registers and host commands: the function cores (15 R253 to R256, 21 R335 R337). -/
namespace Sys2Proof.Machine

/-- In the name of function f, in its command space (R246, R335). -/
def funcIssuer (s : State) (f : Nat) : Issuer :=
  let w := (s.func f).w
  { hart := none, func := f, space := arenaBase + w[2].toNat % 2 ^ 20 * 0x4000, secure := w[0].toNat / 256 % 2 == 1 }
def funcWho (s : State) (f : Nat) : Who := (funcIssuer s f).eng 0

/-! Packets (R254). -/

/-- The packet with code op at HEAD of queue n: f answers whether it is whole (R254). -/
def packetStep (op : Nat) (n : Nat) (f : Who → List Word → M Bool) (wait : State → State) (s : State) : State :=
  if !coreTakes s n then s
  else
    let s := recallHead s n
    match headPacket s n with
    | .packet o tag len w =>
      if o ≠ op then s
      else match (f (funcWho s (qOwner (s.queue n))) w).run.run (askHead s n len) with
        | (.ok true, s') => packetDone s' n len
        | (.ok false, s') => wait (setWaiting s' n true)
        | (.error t, s') => queueError (setWaiting s' n false) n 0x22 (t.cause % 256) tag
    | _ => s

def operand (w : List Word) (i : Nat) : Word := w.getD i 0

/-! The commands (R335). -/

def execNop (q : QueueId) (s : State) : Out := .next (packetStep 0 q.val (fun _ _ => pure true) id s)

/-- KDESC, KSPACE and the tile set are written, and the kernel is armed. -/
def execLaunch (q : QueueId) (s : State) : Out :=
  .next (packetStep 1 q.val (fun w ops => do
    let n := (operand ops 1).toNat % 4096
    let page (o : Nat) : Nat := 0x200500000000 + n * 0x4000 + o
    kernelWrite n 0x10 (operand ops 2) (page 0x10)
    kernelWrite n 0x18 (w64 w.iss.space) (page 0x18)
    kernelWrite n 0x20 (operand ops 3) (page 0x20)
    modify fun s => kernelArm s n
    return true) id s)

def execCopyHost (q : QueueId) (s : State) : Out :=
  .next (packetStep 2 q.val (fun w ops => do
    let fut := operand ops 4
    if fut.toNat % 8 ≠ 0 then trap 0x03 fut.toNat
    let c : Copy := { iss := w.iss, tile := Fin.ofNat 512 (operand ops 5).toNat, src := operand ops 2, dst := operand ops 1,
                      len := (operand ops 3).toNat % 2 ^ 32, obj := fut, kind := if fut = 0 then 2 else 0, untaken := [], queue := some q.val }
    modify fun s => forkCopy s c
    return true) id s)

def writeValue (w : Who) (ops : List Word) : M Unit := storeV w (operand ops 1).toNat (operand ops 3).toNat (operand ops 2).toNat
def execWriteValue (q : QueueId) (s : State) : Out :=
  .next (packetStep 3 q.val (fun w ops => do writeValue w ops; return true) id s)

/-- The condition of WAIT_VALUE. -/
def waitCond (w : Who) (ops : List Word) : M Bool := do
  let v ← loadV w (operand ops 1).toNat 8
  let x := v &&& (operand ops 3).toNat
  let y := (operand ops 2).toNat
  return match (operand ops 4).toNat with
    | 0 => x == y
    | 1 => x != y
    | 2 => y ≤ x
    | _ => x < y
def waitTurn (q : QueueId) (s : State) : State :=
  packetStep 4 q.val waitCond (fun s => s.retry (.waitValueMet q)) s
def execWaitValue (q : QueueId) (s : State) : Out := .next (waitTurn q s)
/-- The condition is evaluated again (R335). -/
def execWaitValueMet (q : QueueId) (s : State) : Out :=
  .next (if (s.func (qOwner (s.queue q.val))).waits.contains q.val then waitTurn q s else s)

/-- Resolves a future as `fres` does (R231). -/
def signalAt (w : Who) (f : Word) : M Unit := do
  let x ← targetCheck w .atomic f.toNat
  if underScrub (← get) x then return
  let v ← physRead w x.pa 8 (eKey x.leaf)
  if futState v = 0 || futState v = 1 then
    physWrite w false x.pa 8 2 (eKey x.leaf)
    if futState v = 1 && x.region != .peer then modify fun s => forkWalk s w.iss (futHead v) false false
  else
    physWrite w false x.pa 8 3 (eKey x.leaf)
    trap 0x08 f.toNat
def execSignal (q : QueueId) (s : State) : Out :=
  .next (packetStep 5 q.val (fun w ops => do signalAt w (operand ops 1); return true) id s)
def execWriteThenSignal (q : QueueId) (s : State) : Out :=
  .next (packetStep 6 q.val (fun w ops => do writeValue w ops; modify State.nextStore; signalAt w (operand ops 8); return true) id s)

/-- Pair i of a MAP. -/
def mapPair (ops : List Word) (i : Nat) : Word × Word :=
  let j := if i < 3 then 2 + 2 * i else 8 * (1 + (i - 3) / 4) + 2 * ((i - 3) % 4)
  (operand ops j, operand ops (j + 1))
/-- A table store at an alias address (R307): its entry's physical address. -/
def aliasStore (w : Who) (p : Word × Word) : M (Option Nat) := do
  if p.1.toNat % 8 ≠ 0 then trap 0x03 p.1.toNat
  let r := xlate (← get) w .store p.1.toNat
  match r with
  | .ok x => if eKind x.leaf ≠ 3 then trap 0x05 p.1.toNat
  | .error _ => pure ()
  storeV w p.1.toNat 8 p.2.toNat true
  return match r with
    | .ok x => some x.pa
    | .error _ => none
/-- The pairs in order, then the effect of `tfence`: no agent translates through an old value of an entry they changed (R310). -/
def execMap (q : QueueId) (s : State) : Out :=
  .next (packetStep 7 q.val (fun w ops => do
    let es ← (List.range ((operand ops 1).toNat % 16)).mapM fun i => aliasStore w (mapPair ops i)
    modify fun s => cutEntries s (es.filterMap id)
    return true) id s)

/-- Every earlier packet's effect is performed; its copies are waited for. -/
def execFence (q : QueueId) (s : State) : Out :=
  .next (packetStep 8 q.val (fun _ _ => do return !((← get).copies.any fun p => p.2.queue == some q.val)) (fun s => s.retry (.fence q)) s)

/-- A packet that is refused (code 0x20) or cannot be read (code 0x24). -/
def execUndefinedOpPacket (q : QueueId) (s : State) : Out :=
  .next (if !coreTakes s q.val then s
    else
      let s := recallHead s q.val
      match headPacket s q.val with
      | .refused tag => queueError (askHead s q.val 1) q.val 0x20 (qHead (s.queue q.val) % 2 ^ 24) tag
      | .unread => queueError { askHead s q.val 1 with outsideErr := if regionOf (qBase (s.queue q.val)) == some .host then 0 else s.outsideErr } q.val 0x24
          (Config.openField s.now 1).toNat 0
      | _ => s)

/-! Notify registers (R253). -/

/-- The enabled HOSTCMD queue of function f that register i names. -/
def notifyQueue (s : State) (f i : Nat) : Option Nat :=
  (s.queues.find? fun p => qKind p.2 == 3 && qEn p.2 && qOwner p.2 == f && p.2.w[6].toNat / 64 % 2 == 1 && p.2.w[6].toNat % 64 == i).map (·.1)

/-- BARs of a function under reset answer reads with all ones and discard writes (R321, R342). -/
def barsDown (s : State) (f : Nat) : Bool := (s.func f).inReset || s.hub.lease.state == 2
def State.send (s : State) (x : Sent) : State := { s with sent := s.sent ++ [x] }
/-- What a register holding old becomes; none where a CAS does not match (R316). -/
def hostValue (x : HostPut) (old : Word) : Option Word :=
  let put (wide : Bool) (v : Word) : Word := if wide then v else (old &&& 0xFFFFFFFF00000000#64) ||| (v &&& 0xFFFFFFFF#64)
  let same (wide : Bool) (a b : Word) : Bool := if wide then a == b else a.setWidth 32 == b.setWidth 32
  match x with
  | .write v => some v
  | .fetchAdd wide v => some (put wide (old + v))
  | .swap wide v => some (put wide v)
  | .cas wide e v => if same wide old e then some (put wide v) else none
/-- An AtomicOp is answered with the old value, of its width; a write is posted. -/
def hostAnswer (x : HostPut) (f : FuncId) (old : Word) (s : State) : State :=
  let low (wide : Bool) : Word := if wide then old else old &&& 0xFFFFFFFF#64
  match x with
  | .write _ => s
  | .fetchAdd wide _ => s.send (.completion f true (low wide))
  | .swap wide _ => s.send (.completion f true (low wide))
  | .cas wide _ _ => s.send (.completion f true (low wide))
/-- A write to notify register i, or an AtomicOp on it. -/
def execNotifyWrite (f : FuncId) (i : Fin 64) (x : HostPut) (s : State) : Out :=
  let old : Word := (s.func f.val).latch[i].setWidth 64
  .next (if barsDown s f.val then hostAnswer x f 0xFFFFFFFFFFFFFFFF s
    else match hostValue x old with
      | none => hostAnswer x f old s
      | some v => hostAnswer x f old ((s.onFunc f.val fun a => { a with latch := a.latch.set i (v.setWidth 32), pending := a.pending ||| BitVec.ofNat 64 (2 ^ i.val) }).later
          (.notifyApply f i)))

/-- The hub applies the latch. -/
def execNotifyApply (f : FuncId) (i : Fin 64) (s : State) : Out :=
  let a := s.func f.val
  let x := a.latch[i].toNat
  .next (if a.pending.toNat / 2 ^ i.val % 2 = 0 then s
    else
      let s := s.onFunc f.val fun a => { a with pending := a.pending &&& ~~~(BitVec.ofNat 64 (2 ^ i.val)) }
      match notifyQueue s f.val i.val with
      | none => s
      | some n =>
        let q := (s.queue n).setTail x
        if qCount q ≤ qCap q then (s.setQueue n q).coreGo n
        else queueError s n 0x21 (x % 2 ^ 24) 0)

end Sys2Proof.Machine
end

