-- ==== Sys2Proof/Machine/Contexts.lean ====
section
/-! DEFINITION. Context commands, stops, slices and world switches, stores of agents to control pages, and errors of the
hardware (12 R201 to R208 R219, 13 R221, 01 R20 R21, 03 R54 R63, 15 R246, 21 R329 to R332). -/
namespace Sys2Proof.Machine
noncomputable section

/-! CMD of a context page (R206). -/

def execResume (h : HartId) (s : State) : Out := .next (cmdStart s h false)
def execStop (h : HartId) (s : State) : Out := .next (cmdStop s h)
def execClear (h : HartId) (s : State) : Out := .next (cmdClear s h)
def execStep (h : HartId) (s : State) : Out := .next (cmdStart s h true)

/-! The end of a stop (R207). -/

/-- The step i, after m has had a turn. -/
def State.after (s : State) (m : Mover) (i : Instr) : State := { s with agenda := s.agenda ++ [.run m, .event i] }

/-- The save is complete (R206): STOPPED, or with a latched RESUME RUNNING again. -/
def stopEnd (s : State) (h : HartId) : State :=
  let latched := (s.hart h).latched
  let s := leave s h .stopped
  if latched then start s h false else s

/-- An `exit` stands at PC and can complete (R216, R218). -/
def exitsNow (s : State) (h : HartId) : Bool :=
  let x := s.hart h
  vIdle x && (match (fetchAt (whoS s h) false x.c.pc.toNat).run.run s with
    | (.ok bits, _) => decode (encBits bits) == some .exit
    | _ => false)

/-- A stop, or a fault that leads to FAULTED, goes on (R207, R210): after a gear change (R297); after an access that waits for
the outside (R90), which is tried again; a vector-side fault that is due is entered first, and an `exit` that can complete
does (R218); VPs reach the ends of their facets (R161, R165); then the context is saved. -/
def saveTurn (s : State) (h : HartId) : State :=
  let x := s.hart h
  if !x.falling && (x.state != .stopping || x.step1) then s
  else if (s.tile (tileOf h)).gchg then s.later (.saveComplete h)
  else if clusterHolds s h then s.retry (.saveComplete h)
  else if !x.falling && x.live.wait.isOutside then s.after ⟨h, .control⟩ (.saveComplete h)
  else match (if vDue x && !x.falling then vReported x else none) with
    | some t => (vectorTrap h t s).later (.saveComplete h)
    | none => (match insideFacet x with
      | some i => s.after ⟨h, .vp i⟩ (.saveComplete h)
      | none =>
        if x.falling then fallDown s h
        else if exitsNow s h then { exitDone h { s with cur := ⟨h, .control⟩ } with cur := s.cur }
        else stopEnd s h)
def execSaveComplete (h : HartId) (s : State) : Out := .next (saveTurn s h)

/-! Stores to control pages by an agent that is no instruction of a hart (R54, R318, R324, R333). -/

/-- In the name of what arrives through inbound window n (R324). -/
def peerIssuer (s : State) (n : Fin 64) : Issuer :=
  let w := (s.hub.inw[2 * n.val]!).toNat
  { hart := none, func := w / 65536 % 32, space := arenaBase + w / 2 ^ 32 % 2 ^ 20 * 0x4000, secure := w / 256 % 2 == 1 }
def agentIssuer (s : State) : Agent → Issuer
  | .hart h => issuer s h
  | .root => whoHome.iss
  | .func f => funcIssuer s f.val
  | .host f => funcIssuer s f.val
  | .peer n => peerIssuer s n

/-- A page that agents store to: device pages are for secure agents (R45); a quarantined tile's are gone (R20). -/
def pageThere (s : State) (secure : Bool) (pa : Nat) : Bool :=
  (regionOf pa == some .control || (regionOf pa == some .device && secure)) && !quarantined s pa

/-- The store v at pa by w, after the hart's earlier accesses (R54): what it does, or the fault of a store that changes nothing.  The root core reaches the tables
where they stand in HBM too (R306). -/
def pageStore (s : State) (root : Bool) (w : Who) (pa : Nat) (v : Word) : Except Trap State :=
  if pa % 8 ≠ 0 then .error { cause := 0x03, tval := w64 pa }
  else if root && inBacking s pa then .ok (backWrite s (arenaBase + (pa - s.hub.aback.toNat)) v)
  else if !pageThere s w.iss.secure pa then .error { cause := if quarantined s pa then 0x04 else 0x05, tval := w64 pa }
  else match (do release w; ctlWrite root w pa v pa : M Unit).run.run s with
    | (.ok _, s') => .ok (wakeWaits s' pa 8)
    | (.error t, _) => .error t

/-- What the root core reads at pa: pages, the tables, and of a quarantined tile the error log alone (R20, R306). -/
def rootRead (s : State) (pa : Nat) : Except Trap Word :=
  let log := regionOf pa == some .control && 0x200100000000 ≤ pa && pa < 0x200200000000 && (pa % 0x4000 == 0x200 || pa % 0x4000 == 0x208 || 0x1000 ≤ pa % 0x4000 && pa % 0x4000 < 0x2000)
  if pa % 8 ≠ 0 then .error { cause := 0x03, tval := w64 pa }
  else if inBacking s pa then .ok (w64 (memRead s.mem pa 8))
  else if quarantined s pa && !log then .error { cause := 0x04, tval := w64 pa }
  else match regionOf pa with
    | some .control => .ok (ctlRead s pa)
    | some .device => .ok (ctlRead s pa)
    | _ => .error { cause := 0x05, tval := w64 pa }

/-- Entry p of the BAR2 table of function f (R318). -/
def bar2Entry (s : State) (f p : Nat) : Nat := (mget s.hub.bar2 (65536 * f + p) 0).toNat
def bar2Frame (e : Nat) : Nat := e / 0x4000 % 2 ^ 34 * 0x4000
/-- The page of function f's BAR2 through which the host reaches pa for writing. -/
def bar2Page (s : State) (f pa : Nat) : Option Nat :=
  (s.hub.bar2.find? fun p => p.1 / 65536 == f && p.2.toNat % 4 == 3 && bar2Frame p.2.toNat == pa / 0x4000 * 0x4000).map (·.1 % 65536)

/-- What the host's store at pa does; one that a store would fault is discarded and reported (R318). -/
def hostStore (s : State) (f p off pa : Nat) (v : Word) : State :=
  match pageStore s false ((funcIssuer s f).eng 0) pa v with
  | .ok s' => s'
  | .error t => postEvent s f 0x40 0 0 (t.cause * 2 ^ 24 + (p * 0x4000 + off) % 2 ^ 24)

def agentStore (ag : Agent) (pa : Nat) (v : Word) (s : State) : State :=
  let plain (root : Bool) (w : Who) : State := match pageStore s root w pa v with | .ok s' => s' | .error _ => s
  match ag with
  | .hart h => plain false (whoS s h)
  | .root => plain true whoHome
  | .func f => plain false ((funcIssuer s f.val).eng 0)
  | .host f => (match bar2Page s f.val pa with | some p => hostStore s f.val p (pa % 0x4000) pa v | none => s)
  | .peer n => plain false ((peerIssuer s n).eng 0)

def tilePage (t : TileId) : Nat := 0x200100000000 + t.val * 0x4000
def queuePage (q : QueueId) : Nat := 0x200400000000 + q.val * 0x4000

def execSlotWordStore (ag : Agent) (h : HartId) (v : Word) (s : State) : Out :=
  .next (agentStore ag (tilePage (tileOf h) + 8 * (slotOf h).val) v s)
def execErrorLogClear (ag : Agent) (t : TileId) (v : Word) (s : State) : Out := .next (agentStore ag (tilePage t + 0x208) v s)
def execControlPageWrite (ag : Agent) (pa : BitVec 48) (v : Word) (s : State) : Out := .next (agentStore ag pa.toNat v s)
def execQueueHeadStore (ag : Agent) (q : QueueId) (off : BitVec 14) (v : Word) (s : State) : Out :=
  .next (agentStore ag (queuePage q + off.toNat) v s)
def execQueueErrClear (ag : Agent) (q : QueueId) (v : Word) (s : State) : Out := .next (agentStore ag (queuePage q + 0x28) v s)

/-! Slices (R329 to R331). -/

def allHarts : List HartId := List.finRange 4096
def hartsOf (s : State) (f : Nat) : List HartId :=
  (s.harts.filter fun p => p.2.func.toNat == f && p.1 < 4096).map fun p => Fin.ofNat 4096 p.1

/-- A hart of a function that is switched out goes towards its stop: a STEP that waits is not waited for. -/
def switchStop (s : State) (h : HartId) : State :=
  let x := s.hart h
  match x.state with
  | .running => (gearCheck (s.onHart h fun x => { x with state := .stopping, remembered := true }) (tileOf h)).later (.saveComplete h)
  | .stopping =>
    if x.step1 then
      if x.live.wait == .none then { s with agenda := s.agenda ++ [.run ⟨h, .control⟩] }
      else (s.onHart h fun x => { x with step1 := false }).later (.saveComplete h)
    else s.later (.saveComplete h)
  | _ => s

/-- The engines are flushed: copies suspend at strip ends (R199). -/
def suspendCopies (s : State) (f : Nat) : State :=
  { s with copies := s.copies.map fun (n, c) => (n, if c.iss.func = f then { c with suspended := true } else c) }
/-- Queued fitting steps of the function are held (R287). -/
def holdSteps (s : State) (f : Nat) : State :=
  { s with tslots := s.tslots.map fun (n, k) => (n, if k.ofunc = f ∧ k.steps ≠ 0 then { k with held := true } else k) }

/-- An engine still carries one of its copy strips (R199). -/
def carries (s : State) (f : Nat) (x : Engine) : Bool :=
  match x.strip with
  | some (c, _, _) => (mget s.copies c noCopy).iss.func == f
  | none => false

/-- Steps 1 to 4 of R331 for function f: none where a hart still stops or an engine carries a strip, else the state with f
switched out. -/
def sliceEnd (s : State) (f : Nat) : Option State :=
  if ((hartsOf s f).any fun h => (s.hart h).onCore) || s.engines.any fun p => carries s f p.2 then none
  else some (holdSteps (suspendCopies (s.onFunc f fun x => { x with inSlice := false }) f) f)

/-- Step 5: the remembered slots are resumed, held commands act, and copies go on; what the mode of a cluster holds waits for
its end (R332). -/
def resumeHart (s : State) (h : HartId) : State :=
  let x := s.hart h
  let s := s.onHart h fun x => { x with remembered := false }
  if x.onCore then s
  else match x.held.orElse fun _ => if x.remembered then some false else none with
    | some st => if startsNow s h then start s h st else s.onHart h fun x => { x with held := some st }
    | none => s
/-- Its copies wait no longer, nor does an engine's page say that one does (R199, R200). -/
def resumeCopies (s : State) (f : Nat) : State :=
  let s : State := { s with
    copies := s.copies.map fun (n, c) => (n, if c.iss.func = f then { c with suspended := false } else c)
    engines := s.engines.map fun (n, x) => (n, if x.w[0] = w64 (2 + 256 * f) then { x with w := x.w.set 0 0 } else x) }
  s.copies.foldl (fun (s : State) (p : Nat × Copy) =>
    if p.2.iss.func = f then s.later (.copyStripTake (Fin.ofNat 2048 (4 * p.2.tile.val))) else s) s
/-- A slice of function f begins with nothing charged (R328 to R330). -/
def sliceNew (s : State) (f : Nat) : State :=
  s.onFunc f fun x => { x with inSlice := true, passed := 0, w := x.w.set 7 0, charged := [] }
def sliceBegin (s : State) (f : Nat) : State :=
  let s := sliceNew s f
  (resumeCopies ((hartsOf s f).foldl resumeHart s) f).coreWork f

/-- The tile set and the hard partition of a function (R328, R226). -/
def funcDies (x : Func) : Nat := x.w[3].toNat % 16
def funcFirst (x : Func) : Nat := x.w[3].toNat / 16 % 128
def funcCount (x : Func) : Nat := x.w[3].toNat / 2048 % 256
def funcPfirst (x : Func) : Nat := x.w[3].toNat / 2 ^ 20 % 8
def funcPngrp (x : Func) : Nat := x.w[3].toNat / 2 ^ 23 % 16
def funcEnabled (x : Func) : Bool := x.w[0].toNat % 2 == 1
def meets (a n b m : Nat) : Bool := decide (a < b + m) && decide (b < a + n)
/-- Their partitions overlap on some tile (R331). -/
def partitionsMeet (a b : Func) : Bool :=
  (funcDies a &&& funcDies b) != 0 && meets (funcFirst a) (funcCount a) (funcFirst b) (funcCount b)
  && meets (funcPfirst a) (funcPngrp a) (funcPfirst b) (funcPngrp b)

/-- Ready (R330): a hart runs, stops or was running when its function was switched out, a command is held, or a copy strip
waits. -/
def funcReady (s : State) (f : Nat) : Bool :=
  (s.harts.any fun p => p.2.func.toNat == f && (p.2.onCore || p.2.remembered || p.2.held.isSome))
  || s.copies.any fun p => p.2.iss.func == f && p.2.suspended
def funcPrio (x : Func) : Nat := x.w[5].toNat % 16

/-- The functions that a slice after a's may go to. -/
def contenders (s : State) (a : Nat) : List Nat :=
  (List.range 17).filter fun f => funcEnabled (s.func f) && funcReady s f && partitionsMeet (s.func a) (s.func f)
/-- The function that is served after a (R330): one passed over for 8 slices, else the first of the highest PRIO in
ascending order after a. -/
def nextServed (s : State) (a : Nat) : Option Nat :=
  let cs := contenders s a
  let turn := (List.range 17).map (fun k => (a + 1 + k) % 17) |>.filter fun f => cs.contains f
  (turn.find? fun f => 8 ≤ (s.func f).passed).orElse fun _ =>
    turn.find? fun f => cs.all fun g => funcPrio (s.func g) ≤ funcPrio (s.func f)

/-- A slice goes to b after a's: the ready functions passed over count it, those not ready begin anew (R330). -/
def serve (s : State) (a b : Nat) : State :=
  (List.range 17).foldl (fun t f =>
    if f = b ∨ !partitionsMeet (s.func a) (s.func f) then t
    else t.onFunc f fun x => { x with passed := if (contenders s a).contains f then x.passed + 1 else 0 }) s

/-- The switch of function a has begun: slots that were RUNNING are remembered. -/
def underway (s : State) (a : Nat) : Bool := (hartsOf s a).any fun h => (s.hart h).remembered
/-- Another function whose partition meets b's is in its slice (R331). -/
def tilesTaken (s : State) (b : Nat) : Bool :=
  (List.range 17).any fun f => f != b && funcEnabled (s.func f) && (s.func f).inSlice && partitionsMeet (s.func b) (s.func f)

/-- Function a is out, and b's slice begins, once no function whose partition meets b's is in its slice. -/
def sliceGive (s : State) (a b : FuncId) : State :=
  if (s.func b.val).inSlice then s
  else if tilesTaken s b.val then s.retry (.worldSwitch a b)
  else sliceBegin (serve s a.val b.val) b.val

/-- The slice of a ends and b, which is to be served, has the next one; it is tried again until every hart of a has stopped and
no engine carries a strip of a's.  Where a itself is served again, its harts run on. -/
def worldSwitch (s : State) (a b : FuncId) : State :=
  if nextServed s a.val ≠ some b.val ∧ !underway s a.val then s
  else if !(s.func a.val).inSlice then sliceGive s a b
  else if a = b then sliceNew (serve s a.val b.val) b.val
  else match sliceEnd s a.val with
    | some t => sliceGive t a b
    | none => ((hartsOf s a.val).foldl switchStop (suspendCopies s a.val)).later (.worldSwitch a b)
def execWorldSwitch (a b : FuncId) (s : State) : Out := .next (worldSwitch s a b)

def funcBudget (x : Func) : Nat := x.w[4].toNat / 2 ^ 32

/-- USED reaches BUDGET: the slice ends early (R329), and the function that is served next has the next one (R330). -/
def execBudgetExhausted (f : FuncId) (s : State) : Out :=
  let x := s.func f.val
  .next (if funcBudget x = 0 ∨ !x.inSlice ∨ funcUsed s f.val < funcBudget x then s
    else match sliceEnd s f.val with
      | some t => (match nextServed t f.val with
        | some b => t.later (.worldSwitch f (Fin.ofNat 17 b))
        | none => t)
      | none => ((hartsOf s f.val).foldl switchStop (suspendCopies s f.val)).later (.budgetExhausted f))

/-- The tiles that charge units to f: each holds a hart of f that is RUNNING or STOPPING, for which alone a ray moves, or
carries a copy strip of f (R329). -/
def chargedTiles (s : State) (f : Nat) : Nat :=
  let runs : List Nat := (s.harts.filter fun p => p.2.onCore && p.2.func.toNat == f).map fun p => p.1 / 8
  let copies : List Nat := (s.engines.filter fun p => carries s f p.2).map fun p => p.1 / 4
  (runs ++ copies).eraseDups.length
/-- Function f is charged from here on for the tiles it now has, and its slice ends early where the budget is used (R329). -/
def chargeFunc (s : State) (f : Nat) : State :=
  let x := s.func f
  let n := if x.inSlice then chargedTiles s f else 0
  let s := if (x.charged.head?.map (·.2)).getD 0 = n then s else s.onFunc f fun x => { x with charged := (s.now, n) :: x.charged }
  let due : Instr := .budgetExhausted (Fin.ofNat 17 f)
  if funcBudget x ≠ 0 ∧ x.inSlice ∧ !s.agenda.contains (.event due) ∧ funcBudget x ≤ funcUsed s f then s.later due else s
/-- What the end of a step charges. -/
def charge (s : State) : State := (List.range 17).foldl chargeFunc s

/-! Clusters, quarantine, errors (R332, R63, R20, R21, R219). -/

def execClusterModeChange (n : ClusterId) (on : Bool) (s : State) : Out := .next (setCluster s n.val on)

def logRecord (s : State) (t : TileId) (w0 w1 : Nat) : State :=
  s.onTile t fun x => x.logError #v[w64 w0, w64 w1, s.tick]

/-- The quarantine is recorded with the cluster in recovery mode, which a later step ends (R20, R21, R332). -/
def execTileQuarantine (t : TileId) (s : State) : Out :=
  let n : ClusterId := Fin.ofNat 64 (t.val / 8)
  .next (if (s.tile t).quar then s
    else
      let u := logRecord (s.onTile t fun x => { x with quar := true }) t 1 0
      if s.hub.cluster.getLsbD n.val then u else (setCluster u n.val true).later (.clusterModeChange n false))

/-- The bits that hold an element of a register class (R344, R168), and its number in the register; the width of a vector
element is that of VT. -/
def softBits (s : State) (h : HartId) (cls : RegClass) (elem : Nat) : Nat × Nat × Nat :=
  let lanes := s.lanes h
  let vt := (s.hart h).c.vt
  match cls with
  | .vector =>
    let w := if vtIll vt then 32 else fmtWidth (vtEw vt)
    let i := elem % max 1 (perReg lanes w)
    (elemBit lanes w i, w, i)
  | .mask => (elem % 4096, 1, elem % 4096)
  | .scale => (8 * (elem % 512), 8, elem % 512)
  | .accumulator => (32 * (elem % (lanes * 256)), 32, elem % (lanes * 256))

def softMark (x : Hart) (e : Soft) : Hart :=
  let on (n v : Nat) : BitVec n := BitVec.ofNat n (v ||| (2 ^ e.width - 1) * 2 ^ e.bit)
  let x := { x with soft := e :: x.soft }
  match e.cls with
  | .vector => { x with live := { x.live with vPois := x.live.vPois.set e.reg (on 8192 x.live.vPois[e.reg].toNat) } }
  | .mask => let r : Fin 8 := Fin.ofNat 8 e.reg.val; { x with c := { x.c with mPois := x.c.mPois.set r (on 4096 x.c.mPois[r].toNat) } }
  | .scale => let r : Fin 8 := Fin.ofNat 8 e.reg.val; { x with c := { x.c with kPois := x.c.kPois.set r (on 4096 x.c.kPois[r].toNat) } }
  | .accumulator =>
    let r : Fin 4 := Fin.ofNat 4 e.reg.val
    { x with live := { x.live with aPois := x.live.aPois.set r (on 262144 x.live.aPois[r].toNat) } }

/-- An error that a register of a hart on the core cannot correct (R219). -/
def execSoftError (h : HartId) (cls : RegClass) (reg : Fin 32) (elem : BitVec 13) (s : State) : Out :=
  let (b, w, i) := softBits s h cls elem.toNat
  .next (if (s.hart h).onCore then s.onHart h fun x => softMark x ⟨cls, reg, b, w, BitVec.ofNat 13 i⟩ else s)

/-- A word of a tile store that its own checking cannot correct (R21). -/
def execStoreUncorrectable (pa : BitVec 48) (s : State) : Out :=
  let a := pa.toNat / 8 * 8
  .next (match regionOf a with
    | some .store => logRecord (poisonWord s a) (Fin.ofNat 512 ((a - 0x100000000000) / 0x200000)) 3 a
    | _ => s)

end
end Sys2Proof.Machine
end

