-- ==== Sys2Proof/Machine/Kernels.lean ====
section
/-! DEFINITION. Kernels: commands, start, launcher and closure (16 R257 to R269). -/
namespace Sys2Proof.Machine
noncomputable section

def execArm (n : KernelId) (s : State) : Out := .next (kernelArm s n.val)
def execAbort (n : KernelId) (s : State) : Out := .next (kernelAbort s n.val)
def execReset (n : KernelId) (s : State) : Out := .next (kernelReset s n.val)

/-! Phases, points and placement (R261). -/

/-- Extent of level i where its kind is one of ks, else 1. -/
def loopSize (d : Vector Word 16) (ks : List Nat) (i : Nat) : Nat := if ks.contains (loopKind d i) then loopExt d i else 1
def loopCount (d : Vector Word 16) (ks : List Nat) : Nat := loopSize d ks 0 * loopSize d ks 1 * loopSize d ks 2
/-- Coordinate at level i of combination x, the lower-numbered level outermost. -/
def loopCoord (d : Vector Word 16) (ks : List Nat) (x i : Nat) : Nat :=
  let inner := ((List.range 3).filter (i < ·)).foldl (fun a j => a * loopSize d ks j) 1
  x / max 1 inner % max 1 (loopSize d ks i)
def phases (d : Vector Word 16) : Nat := loopCount d [1]
def points (d : Vector Word 16) : Nat := loopCount d [2, 3]

/-- The coordinate word (R261). -/
def joinCoords (d : Vector Word 16) (phase point : Nat) : Nat :=
  (List.range 3).foldl (fun a i =>
    a + 2 ^ (20 * i) * (if loopKind d i = 1 then loopCoord d [1] phase i else if loopKind d i = 0 then 0 else loopCoord d [2, 3] point i)) 0
/-- Coordinate of a point at the level of kind k, 0 where there is none. -/
def kindCoord (d : Vector Word 16) (point k : Nat) : Nat :=
  (((List.range 3).find? fun i => loopKind d i == k).map (loopCoord d [2, 3] point)).getD 0
/-- The tile of a point. -/
def pointTile (k : Kernel) (point : Nat) : Nat :=
  let dies := (List.range 4).filter fun i => kDmask k / 2 ^ i % 2 == 1
  let die := dies.getD (kindCoord k.desc point 3 % max 1 dies.length) 0
  128 * die + (kTfirst k + kindCoord k.desc point 2 % max 1 (kTcount k)) % 128
/-- The initial task of a point. -/
def pointTask (k : Kernel) (point : Nat) : List Word :=
  [k.desc[0], k.desc[1], w64 (joinCoords k.desc k.phase point), w64 (k.desc[5].toNat % 4 + 16 * (k.desc[6].toNat % 2))]

/-! Start and launch (R262, R266, R269). -/

/-- A phase is launched: its first append is due. -/
def launchPhase (s : State) (n : KernelId) (phase : Nat) : State :=
  (s.setKernel n.val { s.kernel n.val with kstate := 2, phase := phase, cursor := 0, allPlaced := false }).later (.launcherAppend n)

/-- TICK reaches START_TICK. -/
def execKernelStart (n : KernelId) (s : State) : Out :=
  let k := s.kernel n.val
  .next (if k.kstate ≠ 1 then s
    else if k.desc[7].toNat ≤ s.tick.toNat then launchPhase s n 0
    else s.retry (.kernelStart n))

/-- The next append of the launcher (R262): one point's task, once its queue has space. -/
def execLauncherAppend (n : KernelId) (s : State) : Out :=
  let k := s.kernel n.val
  .next (if k.kstate ≠ 2 ∨ k.allPlaced then s
    else
      let qn := k.desc[9].toNat % 65536 + pointTile k k.cursor
      let q := s.queue qn
      if !isTask q ∨ qOwner q ≠ k.func ∨ qWorld q ≠ k.world then kernelFail s n.val 0x31 (w64 qn)
      else if qFull q then s.retry (.launcherAppend n)
      -- the store of a quarantined tile takes no entry (R20; log 83)
      else if quarantined s (ringAddr q (qTail q)) then kernelFail s n.val 0x31 (w64 qn)
      else
        let s := appendTask s none qn (pointTask k k.cursor)
        let k := { k with placed := k.placed + 1, cursor := k.cursor + 1 }
        if k.cursor = points k.desc then (s.setKernel n.val { k with allPlaced := true }).later (.closureSample n)
        else (s.setKernel n.val k).later (.launcherAppend n))

/-! Closure (R263 to R265). -/

def boundTo (s : State) (h : HartId) (n : Nat) : Bool := (s.tile (tileOf h)).bind[slotOf h].toNat == n + 4096
/-- A stopped hart whose saved PC is at a `tget`. -/
def atTget (s : State) (h : HartId) : Bool :=
  match (fetchAt (whoS s h) false (s.hart h).img.pc.toNat).run.run s with
  | (.ok bits, _) => (match decode (encBits bits) with | some (.tget _ _) => true | _ => false)
  | _ => false
/-- A bound slot that lets its tile be idle; a hart blocked in `tget` has sent its stores home, and has no vector work left. -/
def slotQuiet (s : State) (h : HartId) : Bool :=
  let x := s.hart h
  match x.state with
  | .empty => true
  | .exited => true
  | .running => (match x.live.wait with | .tget _ _ => vIdle x | _ => false)
  | .stopping => x.step1 && (match x.live.wait with | .tget _ _ => vIdle x | _ => false)
  | .stopped => vqCount x.img == 0 && atTget s h
  | _ => false
/-- The tiles that are not idle for kernel n. -/
def busyTiles (s : State) (n : Nat) : List Nat :=
  let harts := (s.tiles.filter fun p => (List.finRange 8).any fun i =>
    p.1 < 512 && boundTo s (hartOf (Fin.ofNat 512 p.1) i) n && !slotQuiet s (hartOf (Fin.ofNat 512 p.1) i)).map (·.1)
  let queues := (s.queues.filter fun p => qKind p.2 == 1 && qKv p.2 && qKernel p.2 == n && qCount p.2 != 0).map (·.1 % 512)
  let strips := (s.engines.filter fun p => match p.2.strip with
    | some (c, _, _) => (mget s.copies c noCopy).kernel == some n
    | none => false).map (·.1 / 4)
  let waiting := (s.copies.filter fun p => p.2.kernel == some n && !p.2.untaken.isEmpty).map (·.2.tile.val)
  let walks := (s.walks.filter fun p => p.2.kernel == some n).map fun p => match p.2.iss.hart with | some h => (tileOf h).val | none => 0
  let rays := (s.harts.filter fun p => p.1 < 4096 && boundTo s (Fin.ofNat 4096 p.1) n && (List.finRange 8).any fun r =>
    rayDue s (Fin.ofNat 4096 p.1) r false || rayDue s (Fin.ofNat 4096 p.1) r true).map (·.1 / 8)
  harts ++ queues ++ strips ++ waiting ++ walks ++ rays

def inDies (k : Kernel) (t : Nat) : Bool := kDmask k / 2 ^ (t / 128) % 2 == 1
/-- Dies of the set that are not idle, and the sums of SENT and RECV. -/
def sampleTrees (s : State) (n : Nat) (k : Kernel) : Nat × Nat × Nat :=
  let busy := busyTiles s n
  let not := (List.range 4).foldl (fun a d => if kDmask k / 2 ^ d % 2 = 1 ∧ busy.any (· / 128 == d) then a + 2 ^ d else a) 0
  let sum (f : Tile → List (Nat × Nat)) : Nat := ((s.tiles.filter fun p => inDies k p.1).map fun p => mget (f p.2) n 0).foldl (· + ·) 0
  (not, sum Tile.sent, sum Tile.recv)

/-- A sample, and the moves of R266. -/
def execClosureSample (n : KernelId) (s : State) : Out :=
  let k := s.kernel n.val
  .next (if (k.kstate ≠ 2 ∧ k.kstate ≠ 3) ∨ !k.allPlaced then s
    else
      let (busy, a, b) := sampleTrees s n.val k
      let same := k.sent.toNat = a ∧ k.recv.toNat = b
      let closed := busy = 0 ∧ a = b
      let k' := { k with sent := w64 a, recv := w64 b, notidle := BitVec.ofNat 4 busy, lastsamp := s.tick }
      let put (st : Nat) : State := s.setKernel n.val { k' with kstate := st }
      if k.kstate = 2 then (put (if closed then 3 else 2)).retry (.closureSample n)
      else if closed ∧ same then
        if k.phase + 1 < phases k.desc then launchPhase (put 2) n (k.phase + 1)
        else kernelResolve (kernelClose s n.val { k' with kstate := 4 }) n.val true
      else (put 2).retry (.closureSample n))

end
end Sys2Proof.Machine
end

