-- ==== Sys2Proof/Machine/Scalar.lean ====
section
/-! DEFINITION. Scalar instructions (06 R90 to R104) and the compressed parcels (05 R81). -/
namespace Sys2Proof.Machine
noncomputable section

def sext13 (i : Imm13) : Word := i.signExtend 64
def sext18 (i : Imm18) : Word := i.signExtend 64
def sext6 (n : Sh6) : Word := n.signExtend 64
def flag (b : Bool) : Word := if b then 1 else 0

/-- A register result: g[D] := v, PC to the next instruction (R90). -/
def result (i : Instr) (d : GReg) (v : Word) (s : State) : Out :=
  inControl (encode i) (put d v (instrLen i)) s

/-- Quotient and remainder rounded toward zero, with R92's cases. -/
def divS (a b : Word) : Word := if b = 0 then -1 else wordOf (a.toInt.tdiv b.toInt)
def remS (a b : Word) : Word := if b = 0 then a else wordOf (a.toInt.tmod b.toInt)
def divU (a b : Word) : Word := if b = 0 then -1 else BitVec.ofNat 64 (a.toNat / b.toNat)
def remU (a b : Word) : Word := if b = 0 then a else BitVec.ofNat 64 (a.toNat % b.toNat)
/-- The high 64 bits of an exact product. -/
def high (x : Int) : Word := wordOf (x / 2 ^ 64)
/-- Counts of leading zeros, trailing zeros and ones. -/
def clz64 (a : Word) : Nat := if a = 0 then 64 else 63 - a.toNat.log2
def ctz64 (a : Word) : Nat := ((List.range 64).find? fun i => a.getLsbD i).getD 64
def pop64 (a : Word) : Nat := ((List.range 64).filter fun i => a.getLsbD i).length

/-! Register and register (R91, R92). -/

def execAdd (d x y : GReg) (s : State) : Out :=
  let a := s.r x; let b := s.r y
  result (.add d x y) d (a + b) s
def execSub (d x y : GReg) (s : State) : Out :=
  let a := s.r x; let b := s.r y
  result (.sub d x y) d (a - b) s
def execAnd (d x y : GReg) (s : State) : Out :=
  let a := s.r x; let b := s.r y
  result (.and d x y) d (a &&& b) s
def execOr (d x y : GReg) (s : State) : Out :=
  let a := s.r x; let b := s.r y
  result (.or d x y) d (a ||| b) s
def execXor (d x y : GReg) (s : State) : Out :=
  let a := s.r x; let b := s.r y
  result (.xor d x y) d (a ^^^ b) s
def execAndn (d x y : GReg) (s : State) : Out :=
  let a := s.r x; let b := s.r y
  result (.andn d x y) d (a &&& ~~~b) s
def execSll (d x y : GReg) (s : State) : Out :=
  let a := s.r x; let b := s.r y
  result (.sll d x y) d (a <<< (b.toNat % 64)) s
def execSrl (d x y : GReg) (s : State) : Out :=
  let a := s.r x; let b := s.r y
  result (.srl d x y) d (a >>> (b.toNat % 64)) s
def execSra (d x y : GReg) (s : State) : Out :=
  let a := s.r x; let b := s.r y
  result (.sra d x y) d (a.sshiftRight (b.toNat % 64)) s
def execSlt (d x y : GReg) (s : State) : Out :=
  let a := s.r x; let b := s.r y
  result (.slt d x y) d (flag (a.slt b)) s
def execSltu (d x y : GReg) (s : State) : Out :=
  let a := s.r x; let b := s.r y
  result (.sltu d x y) d (flag (a.ult b)) s
def execMin (d x y : GReg) (s : State) : Out :=
  let a := s.r x; let b := s.r y
  result (.min d x y) d (if a.slt b then a else b) s
def execMax (d x y : GReg) (s : State) : Out :=
  let a := s.r x; let b := s.r y
  result (.max d x y) d (if a.slt b then b else a) s
def execMinu (d x y : GReg) (s : State) : Out :=
  let a := s.r x; let b := s.r y
  result (.minu d x y) d (if a.ult b then a else b) s
def execMaxu (d x y : GReg) (s : State) : Out :=
  let a := s.r x; let b := s.r y
  result (.maxu d x y) d (if a.ult b then b else a) s
def execMul (d x y : GReg) (s : State) : Out :=
  let a := s.r x; let b := s.r y
  result (.mul d x y) d (a * b) s
def execMulh (d x y : GReg) (s : State) : Out :=
  let a := s.r x; let b := s.r y
  result (.mulh d x y) d (high (a.toInt * b.toInt)) s
def execMulhu (d x y : GReg) (s : State) : Out :=
  let a := s.r x; let b := s.r y
  result (.mulhu d x y) d (high ((a.toNat : Int) * (b.toNat : Int))) s
def execMulhsu (d x y : GReg) (s : State) : Out :=
  let a := s.r x; let b := s.r y
  result (.mulhsu d x y) d (high (a.toInt * (b.toNat : Int))) s
def execDiv (d x y : GReg) (s : State) : Out :=
  let a := s.r x; let b := s.r y
  result (.div d x y) d (divS a b) s
def execDivu (d x y : GReg) (s : State) : Out :=
  let a := s.r x; let b := s.r y
  result (.divu d x y) d (divU a b) s
def execRem (d x y : GReg) (s : State) : Out :=
  let a := s.r x; let b := s.r y
  result (.rem d x y) d (remS a b) s
def execRemu (d x y : GReg) (s : State) : Out :=
  let a := s.r x; let b := s.r y
  result (.remu d x y) d (remU a b) s
def execClz (d x : GReg) (s : State) : Out := result (.clz d x) d (BitVec.ofNat 64 (clz64 (s.r x))) s
def execCtz (d x : GReg) (s : State) : Out := result (.ctz d x) d (BitVec.ofNat 64 (ctz64 (s.r x))) s
def execCpop (d x : GReg) (s : State) : Out := result (.cpop d x) d (BitVec.ofNat 64 (pop64 (s.r x))) s

/-! Immediates (R93 to R95). -/

def execAddi (d x : GReg) (i : Imm13) (s : State) : Out := result (.addi d x i) d (s.r x + sext13 i) s
def execAndi (d x : GReg) (i : Imm13) (s : State) : Out := result (.andi d x i) d (s.r x &&& sext13 i) s
def execOri (d x : GReg) (i : Imm13) (s : State) : Out := result (.ori d x i) d (s.r x ||| sext13 i) s
def execXori (d x : GReg) (i : Imm13) (s : State) : Out := result (.xori d x i) d (s.r x ^^^ sext13 i) s
def execSlti (d x : GReg) (i : Imm13) (s : State) : Out := result (.slti d x i) d (flag ((s.r x).slt (sext13 i))) s
def execSltiu (d x : GReg) (i : Imm13) (s : State) : Out := result (.sltiu d x i) d (flag ((s.r x).ult (sext13 i))) s
def execShli (d x : GReg) (n : Sh6) (s : State) : Out := result (.shli d x n) d (s.r x <<< n.toNat) s
def execShri (d x : GReg) (n : Sh6) (s : State) : Out := result (.shri d x n) d (s.r x >>> n.toNat) s
def execSrai (d x : GReg) (n : Sh6) (s : State) : Out := result (.srai d x n) d ((s.r x).sshiftRight n.toNat) s
def execLhi (d : GReg) (i : Imm18) (s : State) : Out := result (.lhi d i) d (sext18 i <<< 13) s
def execLpc (d : GReg) (i : Imm18) (s : State) : Out := result (.lpc d i) d (s.pc + sext18 i <<< 13) s

/-! Jumps and branches (R96, R97). -/

/-- The link and the target (R96): an odd target traps before the link is written. -/
def jumpTo (d : GReg) (len : Nat) (t : Word) : M Unit := do
  if t.toNat % 2 = 1 then trap 0x03 t.toNat
  modify fun s => (retire (s.setG s.me d (s.pc + BitVec.ofNat 64 len)) 0).setPc s.me t
def execJl (d : GReg) (i : Imm18) (s : State) : Out := inControl (encode (.jl d i)) (jumpTo d 4 (s.pc + sext18 i * 2)) s
def execJlr (d x : GReg) (i : Imm13) (s : State) : Out := inControl (encode (.jlr d x i)) (jumpTo d 4 (s.r x + sext13 i)) s

/-- PC := PC + off when the condition holds, else the next instruction (R97). -/
def branchTo (taken : Bool) (off : Word) (len : Nat) : M Unit :=
  modify fun s => if taken then (retire s 0).setPc s.me (s.pc + off) else retire s len
def branch (i : Instr) (taken : Bool) (off : Word) (s : State) : Out :=
  inControl (encode i) (branchTo taken off (instrLen i)) s
def execBeq (x y : GReg) (i : Imm13) (s : State) : Out := branch (.beq x y i) (s.r x == s.r y) (sext13 i * 2) s
def execBne (x y : GReg) (i : Imm13) (s : State) : Out := branch (.bne x y i) (s.r x != s.r y) (sext13 i * 2) s
def execBlt (x y : GReg) (i : Imm13) (s : State) : Out := branch (.blt x y i) ((s.r x).slt (s.r y)) (sext13 i * 2) s
def execBge (x y : GReg) (i : Imm13) (s : State) : Out := branch (.bge x y i) (!(s.r x).slt (s.r y)) (sext13 i * 2) s
def execBltu (x y : GReg) (i : Imm13) (s : State) : Out := branch (.bltu x y i) ((s.r x).ult (s.r y)) (sext13 i * 2) s
def execBgeu (x y : GReg) (i : Imm13) (s : State) : Out := branch (.bgeu x y i) (!(s.r x).ult (s.r y)) (sext13 i * 2) s

/-! Loads and stores (R98, R99). -/

/-- The place and key of a load of the control thread that may be performed later: of a normal page of the module (R53, R354;
log 70). -/
def latePlace (s : State) (d : GReg) (va : Nat) : Option (Nat × Nat) :=
  if (s.hart s.me).lateS && d != 0 && d.val < 24 then
    match xlate s (whoS s s.me) .load va with
    | .ok x => if eKind x.leaf == 0 && (x.region == .hbm || x.region == .store) then some (x.pa, eKey x.leaf) else none
    | .error _ => none
  else none

/-- A scalar load of n bytes: g[D] := x extended, at once or, where the load is performed later, then. -/
def loadTo (d : GReg) (va : Word) (n : Nat) (signed : Bool) (len : Nat) : M Unit := do
  let s ← get
  let x ← loadV (whoS s s.me) va.toNat n
  match latePlace s d va.toNat with
  | some (pa, key) => modify fun s => retire (s.onLive s.me fun l => { l with late := some ⟨d, pa, n, key, signed⟩ }) len
  | none => put d (if signed then wordOf (sgn (8 * n) x) else BitVec.ofNat 64 x) len
def storeFrom (v va : Word) (n len : Nat) : M Unit := do
  let s ← get
  storeV (whoS s s.me) va.toNat n v.toNat true
  modify fun s => retire s len
def execLdb (d x : GReg) (i : Imm13) (s : State) : Out := inControl (encode (.ldb d x i)) (loadTo d (s.r x + sext13 i) 1 true 4) s
def execLdbu (d x : GReg) (i : Imm13) (s : State) : Out := inControl (encode (.ldbu d x i)) (loadTo d (s.r x + sext13 i) 1 false 4) s
def execLdh (d x : GReg) (i : Imm13) (s : State) : Out := inControl (encode (.ldh d x i)) (loadTo d (s.r x + sext13 i) 2 true 4) s
def execLdhu (d x : GReg) (i : Imm13) (s : State) : Out := inControl (encode (.ldhu d x i)) (loadTo d (s.r x + sext13 i) 2 false 4) s
def execLdw (d x : GReg) (i : Imm13) (s : State) : Out := inControl (encode (.ldw d x i)) (loadTo d (s.r x + sext13 i) 4 true 4) s
def execLdwu (d x : GReg) (i : Imm13) (s : State) : Out := inControl (encode (.ldwu d x i)) (loadTo d (s.r x + sext13 i) 4 false 4) s
def execLdd (d x : GReg) (i : Imm13) (s : State) : Out := inControl (encode (.ldd d x i)) (loadTo d (s.r x + sext13 i) 8 false 4) s
def execStb (y x : GReg) (i : Imm13) (s : State) : Out := inControl (encode (.stb y x i)) (storeFrom (s.r y) (s.r x + sext13 i) 1 4) s
def execSth (y x : GReg) (i : Imm13) (s : State) : Out := inControl (encode (.sth y x i)) (storeFrom (s.r y) (s.r x + sext13 i) 2 4) s
def execStw (y x : GReg) (i : Imm13) (s : State) : Out := inControl (encode (.stw y x i)) (storeFrom (s.r y) (s.r x + sext13 i) 4 4) s
def execStd (y x : GReg) (i : Imm13) (s : State) : Out := inControl (encode (.std y x i)) (storeFrom (s.r y) (s.r x + sext13 i) 8 4) s

/-! Atomics (R102 to R104). -/

def hostAtomic : AtomOp → Bool
  | .swap | .add | .cas => true
  | _ => false
/-- The new value of an n-bit word, none for a failed `atcas` (R102). -/
def atomNew (op : AtomOp) (n old x expect : Nat) : Option Nat :=
  match op with
  | .swap => some x
  | .add => some ((old + x) % 2 ^ n)
  | .and => some (old &&& x)
  | .or => some (old ||| x)
  | .xor => some (old ^^^ x)
  | .max => some (if sgn n old < sgn n x then x else old)
  | .min => some (if sgn n x < sgn n old then x else old)
  | .maxu => some (max old x)
  | .minu => some (min old x)
  | .cas => if old = expect then some x else none
/-- One atomic: g[D] := sext(old).  A release performs the S agent's earlier stores first (R60); the acquire bit orders later
accesses, which are performed later (log 7). -/
def atomic (i : Instr) (op : AtomOp) (d y x : GReg) (wd rl : Bool) (s : State) : Out :=
  inControl (encode i) (do
    let n := if wd then 8 else 4
    let m := 2 ^ (8 * n)
    let old ← atomicV (whoS s s.me) (s.r x).toNat n (hostAtomic op)
      (fun old => atomNew op (8 * n) old ((s.r y).toNat % m) ((s.r d).toNat % m)) rl
    put d (wordOf (sgn (8 * n) old)) 4) s
def execAtswap (d y x : GReg) (wd aq rl : Bool) (s : State) : Out := atomic (.atswap d y x wd aq rl) .swap d y x wd rl s
def execAtadd (d y x : GReg) (wd aq rl : Bool) (s : State) : Out := atomic (.atadd d y x wd aq rl) .add d y x wd rl s
def execAtand (d y x : GReg) (wd aq rl : Bool) (s : State) : Out := atomic (.atand d y x wd aq rl) .and d y x wd rl s
def execAtor (d y x : GReg) (wd aq rl : Bool) (s : State) : Out := atomic (.ator d y x wd aq rl) .or d y x wd rl s
def execAtxor (d y x : GReg) (wd aq rl : Bool) (s : State) : Out := atomic (.atxor d y x wd aq rl) .xor d y x wd rl s
def execAtmax (d y x : GReg) (wd aq rl : Bool) (s : State) : Out := atomic (.atmax d y x wd aq rl) .max d y x wd rl s
def execAtmin (d y x : GReg) (wd aq rl : Bool) (s : State) : Out := atomic (.atmin d y x wd aq rl) .min d y x wd rl s
def execAtmaxu (d y x : GReg) (wd aq rl : Bool) (s : State) : Out := atomic (.atmaxu d y x wd aq rl) .maxu d y x wd rl s
def execAtminu (d y x : GReg) (wd aq rl : Bool) (s : State) : Out := atomic (.atminu d y x wd aq rl) .minu d y x wd rl s
def execAtcas (d y x : GReg) (wd aq rl : Bool) (s : State) : Out := atomic (.atcas d y x wd aq rl) .cas d y x wd rl s

/-! Compressed parcels: each acts as the base instruction R81 names, with length 2. -/

def parcelWord (a : GReg) (n : Sh6) (s : State) : Word := s.r a + (BitVec.ofNat 64 n.toNat) * 8
def cOff11 (o : BitVec 11) : Word := o.signExtend 64 * 2
def execCAddi (x : GReg) (n : Sh6) (s : State) : Out := result (.cAddi x n) x (s.r x + sext6 n) s
def execCLi (x : GReg) (n : Sh6) (s : State) : Out := result (.cLi x n) x (sext6 n) s
def execCMv (x y : GReg) (s : State) : Out := result (.cMv x y) x (s.r y) s
def execCAdd (x y : GReg) (s : State) : Out := result (.cAdd x y) x (s.r x + s.r y) s
def execCSub (x y : GReg) (s : State) : Out := result (.cSub x y) x (s.r x - s.r y) s
def execCAnd (x y : GReg) (s : State) : Out := result (.cAnd x y) x (s.r x &&& s.r y) s
def execCShli (x : GReg) (n : Sh6) (s : State) : Out := result (.cShli x n) x (s.r x <<< n.toNat) s
def execCLdd (x : GReg) (n : Sh6) (s : State) : Out := inControl (encode (.cLdd x n)) (loadTo x (parcelWord 2 n s) 8 false 2) s
def execCStd (x : GReg) (n : Sh6) (s : State) : Out := inControl (encode (.cStd x n)) (storeFrom (s.r x) (parcelWord 2 n s) 8 2) s
def execCBeqz (x : GReg) (n : Sh6) (s : State) : Out := branch (.cBeqz x n) (s.r x == 0) (sext6 n * 2) s
def execCBnez (x : GReg) (n : Sh6) (s : State) : Out := branch (.cBnez x n) (s.r x != 0) (sext6 n * 2) s
def execCJ (o : BitVec 11) (s : State) : Out := inControl (encode (.cJ o)) (jumpTo 0 2 (s.pc + cOff11 o)) s
def execCJlr (x : GReg) (z : Bool) (s : State) : Out := inControl (encode (.cJlr x z)) (jumpTo (if z then 1 else 0) 2 (s.r x)) s

end
end Sys2Proof.Machine
end

