-- ==== Sys2Proof/Machine/Links.lean ====
section
/-! DEFINITION. The host link and the Flaod link: BAR0 and BAR2, completions that fail, Function Level Reset, accesses of
peers, ports and TICK (20 R316 to R327). -/
namespace Sys2Proof.Machine
noncomputable section

/-! BAR0, BAR2 and the MSI-X table (R253, R317, R318, R320). -/

/-- What the host reads, 8 bytes at offset off of function f's BAR0: the notify latches, the MSI-X table, its pending bits. -/
def bar0Read (s : State) (f : FuncId) (off : Nat) : Word :=
  let x := s.func f.val
  if barsDown s f.val then 0xFFFFFFFFFFFFFFFF
  else if off < 0x200 then (x.latch[off / 8]!).setWidth 64
  else if 0x1000 ≤ off ∧ off < 0x1400 then x.msix[(off - 0x1000) / 8]!
  else if off = 0x1800 then x.msixPend
  else 0

/-- AER logs an Unsupported Request of the host to function f (R318; log 69). -/
def logUnsupported (s : State) (f : Nat) : State := s.onFunc f fun x => { x with aer := x.aer ||| 0x100000#32 }

/-- An access of the host through BAR2.  An AtomicOp aims at a control page, where no atomic is executed (R61): like a read that
cannot be made, it is an Unsupported Request (log 69). -/
def execHostBar2Access (f : FuncId) (off : BitVec 30) (len : Fin 16) (w : Option HostPut) (s : State) : Out :=
  let p := off.toNat / 0x4000
  let e := bar2Entry s f.val p
  let pa := bar2Frame e + off.toNat % 0x4000
  let whole := off.toNat % 8 = 0 ∧ len.val = 8
  let refused (s : State) : State := (logUnsupported s f.val).send (.completion f false 0)
  .next (if barsDown s f.val then
      (match w with
        | none => s.send (.completion f true 0xFFFFFFFFFFFFFFFF)
        | some x => hostAnswer x f 0xFFFFFFFFFFFFFFFF s)
    else match w with
    | none => if e % 2 = 1 ∧ whole ∧ !quarantined s pa then s.send (.completion f true (ctlRead s pa)) else refused s
    | some (.write v) =>
      if e % 4 = 3 ∧ whole then hostStore s f.val p (off.toNat % 0x4000) pa v
      else postEvent s f.val 0x41 0 0 off.toNat
    | some _ => refused s)

/-- A write to word w (0 address, 1 data and control) of vector i, or an AtomicOp on it; a vector unmasked with its bit pending
sends its message. -/
def execMsixTableWrite (f : FuncId) (i : Fin 64) (w : Fin 2) (y : HostPut) (s : State) : Out :=
  let x := s.func f.val
  let old := x.msix[2 * i.val + w.val]!
  .next (if barsDown s f.val then hostAnswer y f 0xFFFFFFFFFFFFFFFF s
    else match hostValue y old with
      | none => hostAnswer y f old s
      | some v =>
        let x := { x with msix := x.msix.set! (2 * i.val + w.val) v }
        let masked := (x.msix[2 * i.val + 1]!).toNat / 2 ^ 32 % 2 = 1
        hostAnswer y f old (if w.val = 1 ∧ !masked ∧ x.msixPend.toNat / 2 ^ i.val % 2 = 1 then
            (s.setFunc f.val { x with msixPend := x.msixPend &&& ~~~(BitVec.ofNat 64 (2 ^ i.val)) }).send (.msix f i)
          else s.setFunc f.val x))

/-! Requests that are not completed, and posted writes that are lost (R319, R324, R326). -/

/-- The outstanding load or atomic of hart h faults by the step i (R319, R326): in a gear change, after it (R297). -/
def outsideFault (h : HartId) (peer : Bool) (i : Instr) (s : State) : State :=
  match (s.hart h).live.wait with
  | .outside va p _ =>
    if p = peer ∧ (s.hart h).onCore then
      if standsStill s h then s.retry i else trapEntry h { cause := 0x04, tval := va } (s.hart h).c.pc s
    else s
  | _ => s
def execPcieCompletionTimeout (h : HartId) (s : State) : Out := .next (outsideFault h false (.pcieCompletionTimeout h) s)
def execFlaodRequestTimeout (h : HartId) (s : State) : Out := .next (outsideFault h true (.flaodRequestTimeout h) s)
def execPciePostedWriteLoss (f : FuncId) (h : BitVec 44) (s : State) : Out := .next (postEvent s f.val 0x42 0 0 (h.toNat % 2 ^ 24))
/-- A posted store through outbound window n is lost: OERR counts it (R324). -/
def execFlaodPostedStoreError (n : Fin 64) (f : FuncId) (s : State) : Out :=
  let w := s.hub.outw[n]
  let c := min (2 ^ 32 - 1) (w.toNat / 2 ^ 32 + 1)
  .next (postEvent { s with hub := { s.hub with outw := s.hub.outw.set n (w64 (w.toNat % 2 ^ 32 + c * 2 ^ 32)) } } f.val 0x43 0 0
    (Config.openField s.now 2).toNat)

/-! Function Level Reset (R321). -/

/-- A copy is abandoned at its next strip boundary; its future is resolved POISONED. -/
def abandonCopy (s : State) (n : Nat) : State :=
  let c := mget s.copies n noCopy
  let c := { c with untaken := [], failed := true, kind := if c.kind = 1 then 2 else c.kind }
  if c.running = 0 then
    let (s, k) := copyEnd { s with copies := mdel s.copies n } c false
    recordErr s (4 * c.tile.val) k c.obj
  else { s with copies := mset s.copies n c }
def abandonCopies (s : State) (f : Nat) : State :=
  ((s.copies.filter fun p => p.2.iss.func == f).map (·.1)).foldl abandonCopy s

/-- A queue page, disabled and reset; its owner stands. -/
def Queue.cleared (q : Queue) : Queue := { w := (Vector.replicate 9 0).set 7 q.w[7] }
/-- A kernel page after a RESET, which leaves the words that software wrote (R266). -/
def Kernel.cleared (k : Kernel) : Kernel := { own := k.own, kdesc := k.kdesc, kspace := k.kspace, tset := k.tset }
/-- f's queues and kernels, reset; another function's `tget` that is blocked on one of the queues returns 0. -/
def resetPages (s : State) (f : Nat) : State :=
  let s := tgetNews s (fun q x => qOwner (s.queue q) == f && x.func.toNat != f) .gone
  { s with
    queues := s.queues.map fun (n, q) => (n, if qOwner q = f then q.cleared else q)
    kernels := s.kernels.map fun (n, k) => (n, if k.func = f then k.cleared else k) }

/-- The function core of f starts again from the ROM image, or from one verified for the lease (R321, R336): the choice is free. -/
def Func.restarted (x : Func) (now f : Nat) : Func :=
  let bank : Option (Fin 2) := if Config.keepsImage now f then x.verified else none
  let img : Nat := match bank with | some b => 1 + 2 * b.val | none => 0
  { x with waits := [], handOver := none, blockAt := none, w := x.w.set 8 (w64 (img + (Config.openField now 3).toNat % 256 * 256)) }

/-- One part of the reset: latches and stops; when every hart has stopped, the clears and the copies; when the last strip has
ended, the rest. -/
def functionReset (s : State) (f : FuncId) : State :=
  let s := s.onFunc f.val fun x => { x with inReset := true, latch := Vector.replicate 64 0, pending := 0 }
  if (hartsOf s f.val).any fun h => (s.hart h).onCore then ((hartsOf s f.val).foldl switchStop s).later (.functionLevelReset f)
  else
    let s := abandonCopies ((hartsOf s f.val).foldl cmdClear s) f.val
    if s.copies.any fun p => p.2.iss.func == f.val then s.later (.functionLevelReset f)
    else
      let s := resetPages s f.val
      s.onFunc f.val fun x => { x.restarted s.now f.val with inReset := false }
def execFunctionLevelReset (f : FuncId) (s : State) : Out := .next (functionReset s f)

/-! Accesses that arrive from a peer (R324, R325). -/

/-- A barrier's word at its home, changed by f. -/
def peerBarrier (w : Who) (va : Nat) (f : Nat → M (Option Nat)) : M Nat := do
  let x ← targetCheck w .atomic va
  if underScrub (← get) x then trap 0x11 va
  let old ← physRead w x.pa 8 (eKey x.leaf)
  match ← f old with
  | some v => physWrite w false x.pa 8 v (eKey x.leaf)
  | none => pure ()
  return old

/-- A future or barrier word as `fpoll` or `barw` of a peer reads it; under a reset it answers that (R243). -/
def peerWord (w : Who) (va : Nat) : M Nat := do
  let x ← targetCheck w .load va
  if underScrub (← get) x then trap 0x11 va
  physRead w x.pa 8 (eKey x.leaf)

/-- A future resolved by a peer's `fres` or engine (R231, R232): a double resolution answers its cause. -/
def peerResolve (w : Who) (va : Nat) (ok : Bool) : M Nat := do
  let (x, v) ← engineTarget w va
  let (s, c) := resolveAt (← get) w x v (w64 va) ok
  set s
  match c with
  | some k => trap k va
  | none => return 0

/-- An operation on memory under scrub is discarded, and answered so (R243, R342). -/
def peerLive (w : Who) (va n : Nat) (acc : Acc) : M Unit := do
  if va % n = 0 then
    match xlate (← get) w acc va with
    | .ok x => if underScrub (← get) x then trap 0x11 va
    | .error _ => pure ()

/-- A peer's `barw` reads the word; where that does not end its wait, it hears of each change (R240, R325). -/
def peerWait (n : Fin 64) (w : Who) (va : Nat) : M Nat := do
  let x ← targetCheck w .load va
  if underScrub (← get) x then trap 0x11 va
  let v ← physRead w x.pa 8 (eKey x.leaf)
  let gen := v / 2 ^ 32 % 2 ^ 16
  if !barMet gen v then
    modify fun s => { s with hub := { s.hub with peerWaits := s.hub.peerWaits ++ [⟨n, w64 va, x.pa, eKey x.leaf, gen⟩] } }
  return v

def peerOp (n : Fin 64) (w : Who) (va : Nat) : PeerOp → M Nat
  | .load lg => loadV w va (2 ^ min 3 lg.val)
  | .store lg v => do
    peerLive w va (2 ^ min 3 lg.val) .store
    storeV w va (2 ^ min 3 lg.val) v.toNat
    return 0
  | .atomic op wide x expect => do
    let n := if wide then 8 else 4
    peerLive w va n .atomic
    atomicV w va n false fun old => atomNew op (8 * n) old (x.toNat % 2 ^ (8 * n)) (expect.toNat % 2 ^ (8 * n))
  | .fadd wide x mode => do
    let f := if wide then 9 else 8
    peerLive w va (if wide then 8 else 4) .atomic
    atomicV w va (if wide then 8 else 4) false fun old => some (fpAdd f mode.toNat old (x.toNat % 2 ^ fmtWidth f)).1
  | .fres => peerResolve w va true
  | .resolve ok => peerResolve w va ok
  | .fpoll => do
    let v ← peerWord w va
    return futState v
  | .bara => peerBarrier w va fun v => do
    if barStage v then trap 0x01 va
    return some (arrive v)
  | .barx n => peerBarrier w va fun v => do
    if !barStage v then trap 0x01 va
    return some (stageAdd v n.toInt)
  | .barw => peerWait n w va

/-- An access at offset `off` of inbound window n: performed, or completed with an error; an address of 2^52 or more is of no page
(R299). -/
def execFlaodInboundAccess (n : Fin 64) (off : BitVec 52) (op : PeerOp) (s : State) : Out :=
  let e := (s.hub.inw[2 * n.val]!).toNat
  let va := (s.hub.inw[2 * n.val + 1]!).toNat + off.toNat
  .next (if e % 2 = 0 ∨ 2 ^ 52 ≤ va then s.send (.reply n 0x04 0)
    else match (peerOp n ((peerIssuer s n).eng 0) va op).run.run s with
      | (.ok v, s') => s'.send (.reply n 0 (w64 v))
      | (.error t, s') => s'.send (.reply n t.cause 0))

/-! Ports and TICK (R326, R327). -/

def setPort (x : Hub) (p : PortId) (up : Bool) : Hub := { x with portUp := BitVec.ofNat 24 (putBits x.portUp.toNat p.val p.val up.toNat) }
def execPortDown (p : PortId) (s : State) : Out := .next { s with hub := setPort s.hub p false }
/-- A device that joins, and does not supply TICK itself, holds its TICK. -/
def execFlaodPortUp (p : PortId) (s : State) : Out :=
  let join := s.hub.portUp == 0 && !s.hub.master
  let h := setPort s.hub p true
  .next { s with hub := if join then { h with tickHeld := true, tickBase := s.tick, tickSince := s.now } else h }
/-- An exchange of sync flits: the offset from the master, the lock, and the end of a hold once TICK is not ahead of the
master's. -/
def execSyncFlit (p : PortId) (offs : BitVec 8) (s : State) : Out :=
  .next (if s.hub.portUp.toNat / 2 ^ p.val % 2 = 0 then s
    else
      let good := if offs.toInt.natAbs ≤ 2 then min 16 (s.hub.syncGood + 1) else 0
      let h := { s.hub with offs := offs, syncGood := good, tlock := good == 16 }
      { s with hub := if h.tickHeld ∧ offs.toInt ≤ 0 then { h with tickHeld := false, tickSince := s.now } else h })

end
end Sys2Proof.Machine
end

