-- ==== Sys2Proof/Machine/Tenancy.lean ====
section
/-! DEFINITION. Functions, hand-over, boot, SPDM and the lease (21 R328, R336 to R343). -/
namespace Sys2Proof.Machine
noncomputable section

/-! Enabling a function (R328). -/

/-- A hart slot on the tile set of a function. -/
def onTileSet (x : Func) (t : Nat) : Bool := funcDies x / 2 ^ (t / 128) % 2 == 1 && funcFirst x ≤ t % 128 && t % 128 < funcFirst x + funcCount x
/-- PFIRST and PNGRP go into a slot word, as a store of the root core (R220, R221). -/
def partitionSlot (x : Func) (s : State) (h : HartId) : State :=
  let v := w64 (putBits (putBits (s.slotWord h).toNat 19 16 (funcPngrp x)) 22 20 (funcPfirst x))
  agentStore .root (tilePage (tileOf h) + 8 * (slotOf h).val) v s
def enableHart (f : Nat) (x : Func) (s : State) (h : HartId) : State :=
  if onTileSet x (tileOf h).val && Config.allotted s.now f 0 h.val then
    partitionSlot x (s.onHart h fun a => { a with func := BitVec.ofNat 5 f, world := x.w[0].toNat / 256 % 2 == 1, prio := BitVec.ofNat 4 (funcPrio x) }) h
  else s
def ownerWord (f : Nat) (x : Func) : Word := w64 (f + 256 * (x.w[0].toNat / 256 % 2))
def enableQueue (f : Nat) (x : Func) (s : State) (n : Nat) : State :=
  if Config.allotted s.now f 1 n then s.setQueue n { s.queue n with w := (s.queue n).w.set 7 (ownerWord f x) } else s
def enableKernel (f : Nat) (x : Func) (s : State) (n : Nat) : State :=
  if Config.allotted s.now f 2 n then s.setKernel n { s.kernel n with own := ownerWord f x } else s
def enableSlot (f : Nat) (x : Func) (s : State) (n : Nat) : State :=
  if onTileSet x (n / 4) && Config.allotted s.now f 3 n then
    s.setTslot n { s.tslot n with owner := w64 (putBits (s.tslot n).owner.toNat 20 16 f) }
  else s

/-- The keys that function f's windows may carry: KEYLO to KEYHI, and slot 0 for secure memory alone (R328, R334). -/
def keyLow (x : Func) : Nat := if x.w[0].toNat / 256 % 2 = 1 then x.w[6].toNat % 4096 else max 1 (x.w[6].toNat % 4096)
def keyHigh (x : Func) : Nat := x.w[6].toNat / 65536 % 4096
/-- Word i of window n of an L0 frame of the function.  Which ranges it grants is free; a function without a key has no valid
window (log 25). -/
def givenWindow (now : Nat) (x : Func) (frame n i : Nat) : Word :=
  let v := Config.windowGiven now frame n i
  match i with
  | 0 => if keyHigh x < keyLow x then 0 else v &&& 0xFFFFFFFFC001#64
  | 1 => v &&& 0xFFFFFFFFC000#64
  | 2 => v &&& 0x1FF#64
  | _ => w64 (keyLow x + v.toNat % (keyHigh x + 1 - keyLow x))
/-- The reach windows of one L0 frame, where it is the function's (R305). -/
def enableFrame (f : Nat) (x : Func) (s : State) (p : Nat × Word) : State :=
  if tagUse p.2.toNat && tagLevel p.2.toNat == 0 && p.2.toNat / 65536 % 32 == f then
    { s with hub := { s.hub with reach := (List.range 32).foldl (fun r k => mset r (32 * p.1 + k) (givenWindow s.now x p.1 (k / 4) (k % 4))) s.hub.reach } }
  else s

/-- FEN is set: the function's pages are given to it, and its spaces their reach windows.  A device whose configuration block failed has the physical function
alone (R339).  The physical function's EVENT queue then hears of a lease reset (R341). -/
def execFunctionEnable (f : FuncId) (s : State) : Out :=
  let s1 := s.onFunc f.val fun x => { x with
    w := x.w.set 0 (x.w[0] ||| 1#64), inSlice := if funcEnabled x then x.inSlice else !tilesTaken s f.val }
  let x := s1.func f.val
  .next (if s.hub.pfOnly && f != 0 then s
    else
      let s := allHarts.foldl (enableHart f.val x) s1
      let s := (List.range 65536).foldl (enableQueue f.val x) s
      let s := (List.range 4096).foldl (enableKernel f.val x) s
      let s := (List.range 2048).foldl (enableSlot f.val x) s
      let s := s.hub.tags.foldl (enableFrame f.val x) s
      if f = 0 ∧ s.hub.lease.due then
        postEvent { s with hub := { s.hub with lease := { s.hub.lease with due := false } } } 0 0x50 0 (Config.openField s.now 4).toNat (Config.openField s.now 5).toNat
      else s)

/-! MX registers (R339). -/

def extendMx (x : Hub) (i : Fin 8) (d : BitVec 384) : Hub :=
  { x with mx := x.mx.set i (Config.sha384 96 (x.mx[i].toNat * 2 ^ 384 + d.toNat)) }

/-! Hand-over (R337, R338). -/

def pfEvent (s : State) (code : Nat) : State := postEvent s 0 code 0 (Config.openField s.now 6).toNat (Config.openField s.now 7).toNat

/-- The cursors that an image passes on: HEAD, and TAIL in the upper half, of each HOSTCMD queue of f.  DESIGN CHOICE: which, and
where in the block (log 24). -/
def cursors (s : State) (f : Nat) : List Word :=
  ((s.queues.filter fun p => qKind p.2 == 3 && qOwner p.2 == f).map fun p => w64 (qHead p.2 + 2 ^ 32 * qTail p.2)).take 511
def activeBank (x : Func) : Nat := x.w[8].toNat / 2 % 2
/-- The state block of the running image, the top 4 KiB of the active bank: its version, then the cursors (R338). -/
def stateBlock (s : State) (f v : Nat) : List (Nat × Word) :=
  let x := s.func f
  let at_ := 0x3E00 + 0x4000 * activeBank x
  (cursors s f).zipIdx.foldl (fun p c => mset p (at_ + 1 + c.2) c.1) (mset x.priv at_ (w64 v))

/-- A request for hand-over: the signature, the image's digest, and the versions of the state block that it accepts.  The image
stands in the inactive bank and the block is written before it.  A device whose configuration block failed runs ROM images
only (R339). -/
def execHandOver (f : FuncId) (sigOk : Bool) (digest : BitVec 384) (lo hi : BitVec 8) (s : State) : Out :=
  let v := (s.func f.val).w[8].toNat / 256 % 256
  .next (if f = 0 then pfEvent s 0x52
    else
      let s := s.onFunc f.val fun x => { x with
        images := x.images.set! (1 - activeBank x) (some digest), priv := stateBlock s f.val v }
      if !sigOk ∨ s.hub.pfOnly then pfEvent s 0x52
      else
        let s := { s with hub := extendMx s.hub 3 digest }
        if lo.toNat ≤ v ∧ v ≤ hi.toNat then (s.onFunc f.val fun x => { x with handOver := some (BitVec.ofNat 8 v) }).later (.handOverSwitch f)
        else pfEvent s 0x52)

/-- The cores switch at a packet boundary: BANK flips, and the new image runs, with the state block's address. -/
def execHandOverSwitch (f : FuncId) (s : State) : Out :=
  let x := s.func f.val
  .next (match x.handOver with
    | none => s
    | some _ =>
      if !x.waits.isEmpty then s.retry (.handOverSwitch f)
      else
        let bank := 1 - activeBank x
        pfEvent (s.setFunc f.val { x with
          handOver := none, verified := some (Fin.ofNat 2 bank), blockAt := some (0x1F000 + 0x20000 * activeBank x)
          w := x.w.set 8 (w64 (1 + 2 * bank + 256 * ((Config.openField s.now 3).toNat % 256))) }) 0x51)

/-! Power-on (R339). -/

/-- The tiles after power-on at step `now`: CYCLE counts from there (R205). -/
def freshTiles (now : Nat) : List (Nat × Tile) := (List.range 512).map fun t => (t, { Tile.reset with cycSince := now })
/-- The module stands as after power-on reset; what the model's own choices are, and the lease, stay. -/
def powered (s : State) : State :=
  { State.reset with
    now := s.now, tiles := freshTiles s.now, agenda := s.agenda, sent := s.sent, staleXlat := s.staleXlat, hostStall := s.hostStall, peerStall := s.peerStall, outsideErr := s.outsideErr, storeNo := s.storeNo
    hub := { State.reset.hub with lease := s.hub.lease } }

/-- The boot ROM: the block's signature, and its digest. -/
def execPowerOn (blockOk : Bool) (block : BitVec 384) (s : State) : Out :=
  let t := powered s
  let h := extendMx (extendMx (extendMx t.hub 0 block) 1 (Config.romDigest false)) 2 (Config.romDigest true)
  let h := { h with pfOnly := !blockOk, keys := [(0, Config.slot0Key)], tickSince := s.now }
  .next (if s.hub.lease.state = 0 then { t with hub := h }
    else ({ t with hub := { h with lease := { h.lease with state := 2, keyHash := 0, mx4 := h.mx[4] } } }).later .leaseResetComplete)

/-! SPDM (R340). -/

def spdmAnswer (s : State) (req : Nat) (ok : Bool) (body : List (BitVec 8)) : State := s.send (.spdm req ok (body.map (·.toNat)))
/-- A response whose contents the spec leaves to SPDM (log 15). -/
def spdmOpen (s : State) (req : Nat) (ok : Bool) : State := spdmAnswer s req ok (if ok then Config.spdmBody req s.now else [])
/-- The n bytes of x, lowest first. -/
def leBytes (n x : Nat) : List (BitVec 8) := (List.range n).map fun i => BitVec.ofNat 8 (x / 256 ^ i)

def execGetVersion (s : State) : Out := .next (spdmOpen s 0 true)
def execGetCapabilities (s : State) : Out := .next (spdmOpen s 1 true)
/-- ECDSA P-384 and SHA-384 only. -/
def execNegotiateAlgorithms (p384 sha384 : Bool) (s : State) : Out := .next (spdmOpen s 2 (p384 && sha384))
def execGetDigests (s : State) : Out := .next (spdmOpen s 3 true)
/-- The certificate slot is slot 0: a chain that ends in the device identity key. -/
def execGetCertificate (slot : BitVec 8) (s : State) : Out :=
  .next (if slot = 0 then spdmAnswer s 4 true (Config.certChain ++ leBytes 96 Config.deviceKey.toNat) else spdmAnswer s 4 false [])
def execChallenge (_nonce : BitVec 256) (s : State) : Out := .next (spdmOpen s 5 true)
def recordBytes (s : State) : Option (List (BitVec 8)) := s.hub.lease.record.map fun l => l.map fun b => BitVec.ofNat 8 b
/-- Blocks 1 to 8 are MX0 to MX7, block 0x10 the completion record; 0 and 0xFF ask for the number and for all. -/
def execGetMeasurements (block : BitVec 8) (s : State) : Out :=
  let b := block.toNat
  .next (if 1 ≤ b ∧ b ≤ 8 then spdmAnswer s 6 true (leBytes 48 (s.hub.mx[b - 1]!).toNat)
    else if b = 0x10 then (match recordBytes s with | some r => spdmAnswer s 6 true r | none => spdmAnswer s 6 false [])
    else spdmOpen s 6 (b == 0 || b == 255))
def execGetRecord (s : State) : Out :=
  .next (match recordBytes s with | some r => spdmAnswer s 9 true r | none => spdmAnswer s 9 false [])

/-! The lease (R341 to R343). -/

def execLeaseBegin (sigOk : Bool) (id : BitVec 128) (key : BitVec 384) (mask : BitVec 32) (s : State) : Out :=
  .next (if !sigOk ∨ s.hub.lease.state ≠ 0 ∨ s.hub.pfOnly then spdmAnswer s 7 false []
    else
      let h := extendMx s.hub 4 (Config.enrolDigest id key mask)
      spdmOpen { s with hub := { h with lease := { h.lease with state := 1, id := id, keyHash := key, mask := mask, start := s.tick, begun := true } } } 7 true)

/-- A hart that a lease reset stops and clears. -/
def Hart.leaseCleared (x : Hart) : Hart :=
  { func := x.func, world := x.world, prio := x.prio, nstop := x.nstop, lazyV := x.lazyV, lateS := x.lateS }
/-- An engine that carries nothing. -/
def Engine.emptied (x : Engine) : Engine := { x with strip := none, w := ((((x.w.set 0 0).set 1 0).set 2 0).set 3 0).set 4 0 }
/-- Copies end, their futures POISONED (R321). -/
def dropCopies (s : State) : State :=
  (s.copies.map (·.1)).foldl (fun s n => abandonCopy { s with copies := mset s.copies n { mget s.copies n noCopy with running := 0 } } n) s
/-- Steps 1 to 3 of R342: what harts have stored is performed, functions are reset, clusters are in recovery mode, function
cores on their ROM images.  Tiles without a hart that requests go to the near gear (R293). -/
def leaseStart (s : State) : State :=
  let s := writeBack (performV s fun _ _ => true) fun _ _ => true
  let s : State := dropCopies { s with harts := s.harts.map fun (n, x) => (n, x.leaseCleared) }
  let s : State := { s with
    engines := s.engines.map fun (n, x) => (n, x.emptied)
    queues := s.queues.map fun (n, q) => (n, q.cleared)
    kernels := s.kernels.map fun (n, k) => (n, k.cleared)
    funcs := s.funcs.map fun (n, x) => (n, { ({ x with verified := none } : Func).restarted s.now n with
      inReset := true, latch := Vector.replicate 64 0, pending := 0, inSlice := true, passed := 0, charged := [] })
    hub := { s.hub with cluster := 0xFFFFFFFFFFFFFFFF
                        lease := { s.hub.lease with state := 2, keyHash := 0, mx4 := s.hub.mx[4] } } }
  s.tiles.foldl (fun s p => gearCheck s (Fin.ofNat 512 p.1)) s

def execLeaseReset (sigOk : Bool) (s : State) : Out :=
  .next (if !sigOk then spdmAnswer s 8 false []
    else if s.hub.lease.state = 2 then spdmOpen s 8 true
    else spdmOpen ((leaseStart s).later .leaseResetComplete) 8 true)

/-- Bytes that the scrub does not reach: secure ranges, secure table frames, a quarantined tile's store, and what is not
the module's. -/
def scrubKeeps (s : State) (a : Nat) : Bool :=
  if inBacking s a then tagWorld (mget s.hub.tags ((a - s.hub.aback.toNat) / 0x4000) 0).toNat
  else match regionOf a with
    | some .hbm => Config.secureHbm a
    | some .store => (mget s.tiles ((a - 0x100000000000) / 0x200000) Tile.reset).quar
    | _ => true

/-- A tile after the scrub at step `now`: CYCLE counts from there (R205), and a quarantine is recorded again (R21). -/
def Tile.scrubbed (x : Tile) (now : Nat) (tick : Word) : Tile :=
  let y := { Tile.reset with quar := x.quar, cycSince := now, lazyWb := x.lazyWb, icFill := x.icFill }
  if x.quar then y.logError #v[1, 0, tick] else y

/-- Bytes zeroed of class i (R343): arena frames and tile stores as counted; memory-side caches (R12), tangent pages (R44),
function core memories (R336) and key slots (R334) as they are; the sizes of the other classes the spec does not give. -/
def zeroedBytes (s : State) (i : Nat) : Nat :=
  if i = 1 then 0x4000 * ((List.range s.hub.aframes.toNat).filter fun f => !tagWorld (mget s.hub.tags f 0).toNat).length
  else if i = 2 then 0x200000 * (512 - (s.tiles.filter fun p => p.2.quar).length)
  else if i = 6 then 4 * 0x4000000
  else if i = 8 then 2048 * 0x4000
  else if i = 9 then 16 * 0x40000
  else if i = 10 then 64 * 4095
  else if i = 11 then 0
  else (Config.openField s.now (16 + i)).toNat

/-- The completion record before its signature: bytes 0x000 to 0x19F. -/
def recordBody (s : State) : List (BitVec 8) :=
  let l := s.hub.lease
  leBytes 8 0x44524345534C5647 ++ leBytes 4 1 ++ leBytes 4 (if s.tiles.any fun p => p.2.quar then 3 else 0)
    ++ leBytes 16 (if l.begun then l.id.toNat else 0) ++ leBytes 4 l.mask.toNat ++ leBytes 4 0 ++ leBytes 8 l.start.toNat ++ leBytes 8 s.tick.toNat
    ++ leBytes 48 l.mx4.toNat ++ (List.range 12).flatMap (fun i => leBytes 8 (zeroedBytes s i)) ++ leBytes 216 0
def leNat : List (BitVec 8) → Nat
  | [] => 0
  | b :: r => b.toNat + 256 * leNat r
/-- The record, signed. -/
def signedRecord (s : State) : List (BitVec 8) :=
  let b := recordBody s
  let (r, t) := Config.sign (Config.sha384 416 (leNat b))
  b ++ leBytes 48 r.toNat ++ leBytes 48 t.toNat

/-- The hub's pages as after reset, and TICK (R4, R205); the measurements, key slot 0, the lease and what configures the boot
stay. -/
def Hub.scrubbed (x : Hub) (now : Nat) : Hub :=
  { keys := x.keys.filter fun p => p.1 == 0
    tickSince := now
    mx := x.mx, pfOnly := x.pfOnly, lease := x.lease }

/-- A function's page as after reset (R4), its core's own memory zeroed (R342); its BAR0 stays. -/
def Func.scrubbed (x : Func) : Func := { latch := x.latch, msix := x.msix, msixPend := x.msixPend, pending := x.pending, aer := x.aer }

/-- Steps 4 to 6 of R342: memory and pages are zeroed, the record is signed, the module reports READY. -/
def scrubbed (s : State) : State :=
  { s with
    mem := s.mem.filter fun c => scrubKeeps s c.1
    poison := s.poison.filter fun q => scrubKeeps s (8 * q)
    lineKey := s.lineKey.filter fun p => scrubKeeps s (64 * p.1)
    dcache := [], icache := [], fcache := [], vbuf := []
    harts := [], engines := [], tslots := [], queues := [], kernels := [], copies := [], walks := []
    tiles := (List.finRange 512).map fun t => (t.val, (s.tile t).scrubbed s.now 0)
    funcs := s.funcs.map fun (n, x) => (n, x.scrubbed)
    hub := s.hub.scrubbed s.now }

def execLeaseResetComplete (s : State) : Out :=
  .next (if s.hub.lease.state ≠ 2 then s
    else
      let rec_ := (signedRecord s).map (·.toNat)
      let t := scrubbed s
      { t with hub := { t.hub with lease := { state := 0, record := some rec_, due := true } } })

end
end Sys2Proof.Machine
end

