-- ==== Sys2Proof/Machine/Vector.lean ====
section
/-! DEFINITION. The meanings of the vector instructions (07, 08, 10): each is issued by the control thread, run by a
stream, or run for one threaded virtual processor, with the operation that VArith, VPerm, VMem or Matrix gives it. -/
namespace Sys2Proof.Machine
noncomputable section

def execVld (d : VReg) (a : GReg) (m : Option MReg) (c : Bool) (s : State) : Out := issue (.vld d a m c) (opVld d a m) c s
def execVlds (d : VReg) (a : GReg) (b : GReg) (m : Option MReg) (c : Bool) (s : State) : Out := issue (.vlds d a b m c) (opVlds d a b m) c s
def execVldx (d : VReg) (a : GReg) (b : VReg) (m : Option MReg) (c : Bool) (s : State) : Out := issue (.vldx d a b m c) (opVldx d a b m) c s
def execVldff (d : VReg) (a : GReg) (m : Option MReg) (c : Bool) (s : State) : Out := issue (.vldff d a m c) (opVldff d a m) c s
def execVlseg2 (d : VReg) (a : GReg) (m : Option MReg) (c : Bool) (s : State) : Out := issue (.vlseg2 d a m c) (opVlseg2 d a m) c s
def execVlseg3 (d : VReg) (a : GReg) (m : Option MReg) (c : Bool) (s : State) : Out := issue (.vlseg3 d a m c) (opVlseg3 d a m) c s
def execVlseg4 (d : VReg) (a : GReg) (m : Option MReg) (c : Bool) (s : State) : Out := issue (.vlseg4 d a m c) (opVlseg4 d a m) c s
def execVlseg8 (d : VReg) (a : GReg) (m : Option MReg) (c : Bool) (s : State) : Out := issue (.vlseg8 d a m c) (opVlseg8 d a m) c s
def execMld (d : MReg) (a : GReg) (c : Bool) (s : State) : Out := issue (.mld d a c) (opMld d a) c s
def execKld (d : KReg) (a : GReg) (c : Bool) (s : State) : Out := issue (.kld d a c) (opKld d a) c s
def execVst (d : VReg) (a : GReg) (m : Option MReg) (c : Bool) (s : State) : Out := issue (.vst d a m c) (opVst d a m) c s
def execVsts (d : VReg) (a : GReg) (b : GReg) (m : Option MReg) (c : Bool) (s : State) : Out := issue (.vsts d a b m c) (opVsts d a b m) c s
def execVstx (d : VReg) (a : GReg) (b : VReg) (m : Option MReg) (c : Bool) (s : State) : Out := issue (.vstx d a b m c) (opVstx d a b m) c s
def execVstxo (d : VReg) (a : GReg) (b : VReg) (m : Option MReg) (c : Bool) (s : State) : Out := issue (.vstxo d a b m c) (opVstxo d a b m) c s
def execVsseg2 (d : VReg) (a : GReg) (m : Option MReg) (c : Bool) (s : State) : Out := issue (.vsseg2 d a m c) (opVsseg2 d a m) c s
def execVsseg3 (d : VReg) (a : GReg) (m : Option MReg) (c : Bool) (s : State) : Out := issue (.vsseg3 d a m c) (opVsseg3 d a m) c s
def execVsseg4 (d : VReg) (a : GReg) (m : Option MReg) (c : Bool) (s : State) : Out := issue (.vsseg4 d a m c) (opVsseg4 d a m) c s
def execVsseg8 (d : VReg) (a : GReg) (m : Option MReg) (c : Bool) (s : State) : Out := issue (.vsseg8 d a m c) (opVsseg8 d a m) c s
def execMst (d : MReg) (a : GReg) (c : Bool) (s : State) : Out := issue (.mst d a c) (opMst d a) c s
def execKst (d : KReg) (a : GReg) (c : Bool) (s : State) : Out := issue (.kst d a c) (opKst d a) c s
def execVaddVv (d : VReg) (a : VReg) (b : VReg) (m : Option MReg) (c : Bool) (s : State) : Out := issue (.vaddVv d a b m c) (opVaddVv d a b m) c s
def execVsubVv (d : VReg) (a : VReg) (b : VReg) (m : Option MReg) (c : Bool) (s : State) : Out := issue (.vsubVv d a b m c) (opVsubVv d a b m) c s
def execVrsubVv (d : VReg) (a : VReg) (b : VReg) (m : Option MReg) (c : Bool) (s : State) : Out := issue (.vrsubVv d a b m c) (opVrsubVv d a b m) c s
def execVandVv (d : VReg) (a : VReg) (b : VReg) (m : Option MReg) (c : Bool) (s : State) : Out := issue (.vandVv d a b m c) (opVandVv d a b m) c s
def execVorVv (d : VReg) (a : VReg) (b : VReg) (m : Option MReg) (c : Bool) (s : State) : Out := issue (.vorVv d a b m c) (opVorVv d a b m) c s
def execVxorVv (d : VReg) (a : VReg) (b : VReg) (m : Option MReg) (c : Bool) (s : State) : Out := issue (.vxorVv d a b m c) (opVxorVv d a b m) c s
def execVsllVv (d : VReg) (a : VReg) (b : VReg) (m : Option MReg) (c : Bool) (s : State) : Out := issue (.vsllVv d a b m c) (opVsllVv d a b m) c s
def execVsrlVv (d : VReg) (a : VReg) (b : VReg) (m : Option MReg) (c : Bool) (s : State) : Out := issue (.vsrlVv d a b m c) (opVsrlVv d a b m) c s
def execVsraVv (d : VReg) (a : VReg) (b : VReg) (m : Option MReg) (c : Bool) (s : State) : Out := issue (.vsraVv d a b m c) (opVsraVv d a b m) c s
def execVminVv (d : VReg) (a : VReg) (b : VReg) (m : Option MReg) (c : Bool) (s : State) : Out := issue (.vminVv d a b m c) (opVminVv d a b m) c s
def execVmaxVv (d : VReg) (a : VReg) (b : VReg) (m : Option MReg) (c : Bool) (s : State) : Out := issue (.vmaxVv d a b m c) (opVmaxVv d a b m) c s
def execVminuVv (d : VReg) (a : VReg) (b : VReg) (m : Option MReg) (c : Bool) (s : State) : Out := issue (.vminuVv d a b m c) (opVminuVv d a b m) c s
def execVmaxuVv (d : VReg) (a : VReg) (b : VReg) (m : Option MReg) (c : Bool) (s : State) : Out := issue (.vmaxuVv d a b m c) (opVmaxuVv d a b m) c s
def execVmulVv (d : VReg) (a : VReg) (b : VReg) (m : Option MReg) (c : Bool) (s : State) : Out := issue (.vmulVv d a b m c) (opVmulVv d a b m) c s
def execVmulhVv (d : VReg) (a : VReg) (b : VReg) (m : Option MReg) (c : Bool) (s : State) : Out := issue (.vmulhVv d a b m c) (opVmulhVv d a b m) c s
def execVmergeVv (d : VReg) (a : VReg) (b : VReg) (m : MReg) (c : Bool) (s : State) : Out := issue (.vmergeVv d a b m c) (opVmergeVv d a b m) c s
def execVaddVx (d : VReg) (a : VReg) (b : GReg) (m : Option MReg) (c : Bool) (s : State) : Out := issue (.vaddVx d a b m c) (opVaddVx d a b m) c s
def execVsubVx (d : VReg) (a : VReg) (b : GReg) (m : Option MReg) (c : Bool) (s : State) : Out := issue (.vsubVx d a b m c) (opVsubVx d a b m) c s
def execVrsubVx (d : VReg) (a : VReg) (b : GReg) (m : Option MReg) (c : Bool) (s : State) : Out := issue (.vrsubVx d a b m c) (opVrsubVx d a b m) c s
def execVandVx (d : VReg) (a : VReg) (b : GReg) (m : Option MReg) (c : Bool) (s : State) : Out := issue (.vandVx d a b m c) (opVandVx d a b m) c s
def execVorVx (d : VReg) (a : VReg) (b : GReg) (m : Option MReg) (c : Bool) (s : State) : Out := issue (.vorVx d a b m c) (opVorVx d a b m) c s
def execVxorVx (d : VReg) (a : VReg) (b : GReg) (m : Option MReg) (c : Bool) (s : State) : Out := issue (.vxorVx d a b m c) (opVxorVx d a b m) c s
def execVsllVx (d : VReg) (a : VReg) (b : GReg) (m : Option MReg) (c : Bool) (s : State) : Out := issue (.vsllVx d a b m c) (opVsllVx d a b m) c s
def execVsrlVx (d : VReg) (a : VReg) (b : GReg) (m : Option MReg) (c : Bool) (s : State) : Out := issue (.vsrlVx d a b m c) (opVsrlVx d a b m) c s
def execVsraVx (d : VReg) (a : VReg) (b : GReg) (m : Option MReg) (c : Bool) (s : State) : Out := issue (.vsraVx d a b m c) (opVsraVx d a b m) c s
def execVminVx (d : VReg) (a : VReg) (b : GReg) (m : Option MReg) (c : Bool) (s : State) : Out := issue (.vminVx d a b m c) (opVminVx d a b m) c s
def execVmaxVx (d : VReg) (a : VReg) (b : GReg) (m : Option MReg) (c : Bool) (s : State) : Out := issue (.vmaxVx d a b m c) (opVmaxVx d a b m) c s
def execVminuVx (d : VReg) (a : VReg) (b : GReg) (m : Option MReg) (c : Bool) (s : State) : Out := issue (.vminuVx d a b m c) (opVminuVx d a b m) c s
def execVmaxuVx (d : VReg) (a : VReg) (b : GReg) (m : Option MReg) (c : Bool) (s : State) : Out := issue (.vmaxuVx d a b m c) (opVmaxuVx d a b m) c s
def execVmulVx (d : VReg) (a : VReg) (b : GReg) (m : Option MReg) (c : Bool) (s : State) : Out := issue (.vmulVx d a b m c) (opVmulVx d a b m) c s
def execVmulhVx (d : VReg) (a : VReg) (b : GReg) (m : Option MReg) (c : Bool) (s : State) : Out := issue (.vmulhVx d a b m c) (opVmulhVx d a b m) c s
def execVmergeVx (d : VReg) (a : VReg) (b : GReg) (m : MReg) (c : Bool) (s : State) : Out := issue (.vmergeVx d a b m c) (opVmergeVx d a b m) c s
def execVaddVi (d : VReg) (a : VReg) (i : Imm5) (m : Option MReg) (c : Bool) (s : State) : Out := issue (.vaddVi d a i m c) (opVaddVi d a i m) c s
def execVsubVi (d : VReg) (a : VReg) (i : Imm5) (m : Option MReg) (c : Bool) (s : State) : Out := issue (.vsubVi d a i m c) (opVsubVi d a i m) c s
def execVrsubVi (d : VReg) (a : VReg) (i : Imm5) (m : Option MReg) (c : Bool) (s : State) : Out := issue (.vrsubVi d a i m c) (opVrsubVi d a i m) c s
def execVandVi (d : VReg) (a : VReg) (i : Imm5) (m : Option MReg) (c : Bool) (s : State) : Out := issue (.vandVi d a i m c) (opVandVi d a i m) c s
def execVorVi (d : VReg) (a : VReg) (i : Imm5) (m : Option MReg) (c : Bool) (s : State) : Out := issue (.vorVi d a i m c) (opVorVi d a i m) c s
def execVxorVi (d : VReg) (a : VReg) (i : Imm5) (m : Option MReg) (c : Bool) (s : State) : Out := issue (.vxorVi d a i m c) (opVxorVi d a i m) c s
def execVsllVi (d : VReg) (a : VReg) (i : Imm5) (m : Option MReg) (c : Bool) (s : State) : Out := issue (.vsllVi d a i m c) (opVsllVi d a i m) c s
def execVsrlVi (d : VReg) (a : VReg) (i : Imm5) (m : Option MReg) (c : Bool) (s : State) : Out := issue (.vsrlVi d a i m c) (opVsrlVi d a i m) c s
def execVsraVi (d : VReg) (a : VReg) (i : Imm5) (m : Option MReg) (c : Bool) (s : State) : Out := issue (.vsraVi d a i m c) (opVsraVi d a i m) c s
def execVminVi (d : VReg) (a : VReg) (i : Imm5) (m : Option MReg) (c : Bool) (s : State) : Out := issue (.vminVi d a i m c) (opVminVi d a i m) c s
def execVmaxVi (d : VReg) (a : VReg) (i : Imm5) (m : Option MReg) (c : Bool) (s : State) : Out := issue (.vmaxVi d a i m c) (opVmaxVi d a i m) c s
def execVminuVi (d : VReg) (a : VReg) (i : Imm5) (m : Option MReg) (c : Bool) (s : State) : Out := issue (.vminuVi d a i m c) (opVminuVi d a i m) c s
def execVmaxuVi (d : VReg) (a : VReg) (i : Imm5) (m : Option MReg) (c : Bool) (s : State) : Out := issue (.vmaxuVi d a i m c) (opVmaxuVi d a i m) c s
def execVmulVi (d : VReg) (a : VReg) (i : Imm5) (m : Option MReg) (c : Bool) (s : State) : Out := issue (.vmulVi d a i m c) (opVmulVi d a i m) c s
def execVmulhVi (d : VReg) (a : VReg) (i : Imm5) (m : Option MReg) (c : Bool) (s : State) : Out := issue (.vmulhVi d a i m c) (opVmulhVi d a i m) c s
def execVmergeVi (d : VReg) (a : VReg) (i : Imm5) (m : MReg) (c : Bool) (s : State) : Out := issue (.vmergeVi d a i m c) (opVmergeVi d a i m) c s
def execVsadd (d : VReg) (a : VReg) (b : VReg) (m : Option MReg) (c : Bool) (s : State) : Out := issue (.vsadd d a b m c) (opVsadd d a b m) c s
def execVsaddu (d : VReg) (a : VReg) (b : VReg) (m : Option MReg) (c : Bool) (s : State) : Out := issue (.vsaddu d a b m c) (opVsaddu d a b m) c s
def execVssub (d : VReg) (a : VReg) (b : VReg) (m : Option MReg) (c : Bool) (s : State) : Out := issue (.vssub d a b m c) (opVssub d a b m) c s
def execVssubu (d : VReg) (a : VReg) (b : VReg) (m : Option MReg) (c : Bool) (s : State) : Out := issue (.vssubu d a b m c) (opVssubu d a b m) c s
def execVaadd (d : VReg) (a : VReg) (b : VReg) (m : Option MReg) (c : Bool) (s : State) : Out := issue (.vaadd d a b m c) (opVaadd d a b m) c s
def execVaaddu (d : VReg) (a : VReg) (b : VReg) (m : Option MReg) (c : Bool) (s : State) : Out := issue (.vaaddu d a b m c) (opVaaddu d a b m) c s
def execVsmul (d : VReg) (a : VReg) (b : VReg) (m : Option MReg) (c : Bool) (s : State) : Out := issue (.vsmul d a b m c) (opVsmul d a b m) c s
def execVssrl (d : VReg) (a : VReg) (n : Imm5) (m : Option MReg) (c : Bool) (s : State) : Out := issue (.vssrl d a n m c) (opVssrl d a n m) c s
def execVssra (d : VReg) (a : VReg) (n : Imm5) (m : Option MReg) (c : Bool) (s : State) : Out := issue (.vssra d a n m c) (opVssra d a n m) c s
def execVnsrl (d : VReg) (a : VReg) (n : Imm5) (m : Option MReg) (c : Bool) (s : State) : Out := issue (.vnsrl d a n m c) (opVnsrl d a n m) c s
def execVnsra (d : VReg) (a : VReg) (n : Imm5) (m : Option MReg) (c : Bool) (s : State) : Out := issue (.vnsra d a n m c) (opVnsra d a n m) c s
def execVnclip (d : VReg) (a : VReg) (n : Imm5) (m : Option MReg) (c : Bool) (s : State) : Out := issue (.vnclip d a n m c) (opVnclip d a n m) c s
def execVnclipu (d : VReg) (a : VReg) (n : Imm5) (m : Option MReg) (c : Bool) (s : State) : Out := issue (.vnclipu d a n m c) (opVnclipu d a n m) c s
def execVwadd (d : VReg) (a : VReg) (b : VReg) (m : Option MReg) (c : Bool) (s : State) : Out := issue (.vwadd d a b m c) (opVwadd d a b m) c s
def execVwaddu (d : VReg) (a : VReg) (b : VReg) (m : Option MReg) (c : Bool) (s : State) : Out := issue (.vwaddu d a b m c) (opVwaddu d a b m) c s
def execVwsub (d : VReg) (a : VReg) (b : VReg) (m : Option MReg) (c : Bool) (s : State) : Out := issue (.vwsub d a b m c) (opVwsub d a b m) c s
def execVwsubu (d : VReg) (a : VReg) (b : VReg) (m : Option MReg) (c : Bool) (s : State) : Out := issue (.vwsubu d a b m c) (opVwsubu d a b m) c s
def execVwmul (d : VReg) (a : VReg) (b : VReg) (m : Option MReg) (c : Bool) (s : State) : Out := issue (.vwmul d a b m c) (opVwmul d a b m) c s
def execVwmulu (d : VReg) (a : VReg) (b : VReg) (m : Option MReg) (c : Bool) (s : State) : Out := issue (.vwmulu d a b m c) (opVwmulu d a b m) c s
def execVwmulsu (d : VReg) (a : VReg) (b : VReg) (m : Option MReg) (c : Bool) (s : State) : Out := issue (.vwmulsu d a b m c) (opVwmulsu d a b m) c s
def execVwmacc (d : VReg) (a : VReg) (b : VReg) (m : Option MReg) (c : Bool) (s : State) : Out := issue (.vwmacc d a b m c) (opVwmacc d a b m) c s
def execVwmaccu (d : VReg) (a : VReg) (b : VReg) (m : Option MReg) (c : Bool) (s : State) : Out := issue (.vwmaccu d a b m c) (opVwmaccu d a b m) c s
def execVwmaccsu (d : VReg) (a : VReg) (b : VReg) (m : Option MReg) (c : Bool) (s : State) : Out := issue (.vwmaccsu d a b m c) (opVwmaccsu d a b m) c s
def execVqmacc (d : VReg) (a : VReg) (b : VReg) (m : Option MReg) (c : Bool) (s : State) : Out := issue (.vqmacc d a b m c) (opVqmacc d a b m) c s
def execVseq (d : MReg) (a : VReg) (b : VReg) (m : Option MReg) (c : Bool) (s : State) : Out := issue (.vseq d a b m c) (opVseq d a b m) c s
def execVsne (d : MReg) (a : VReg) (b : VReg) (m : Option MReg) (c : Bool) (s : State) : Out := issue (.vsne d a b m c) (opVsne d a b m) c s
def execVslt (d : MReg) (a : VReg) (b : VReg) (m : Option MReg) (c : Bool) (s : State) : Out := issue (.vslt d a b m c) (opVslt d a b m) c s
def execVsltu (d : MReg) (a : VReg) (b : VReg) (m : Option MReg) (c : Bool) (s : State) : Out := issue (.vsltu d a b m c) (opVsltu d a b m) c s
def execVsle (d : MReg) (a : VReg) (b : VReg) (m : Option MReg) (c : Bool) (s : State) : Out := issue (.vsle d a b m c) (opVsle d a b m) c s
def execVsleu (d : MReg) (a : VReg) (b : VReg) (m : Option MReg) (c : Bool) (s : State) : Out := issue (.vsleu d a b m c) (opVsleu d a b m) c s
def execVsgt (d : MReg) (a : VReg) (b : VReg) (m : Option MReg) (c : Bool) (s : State) : Out := issue (.vsgt d a b m c) (opVsgt d a b m) c s
def execVsgtu (d : MReg) (a : VReg) (b : VReg) (m : Option MReg) (c : Bool) (s : State) : Out := issue (.vsgtu d a b m c) (opVsgtu d a b m) c s
def execVadc (d : VReg) (a : VReg) (b : VReg) (m : Option MReg) (c : Bool) (s : State) : Out := issue (.vadc d a b m c) (opVadc d a b m) c s
def execVmadc (d : MReg) (a : VReg) (b : VReg) (m : Option MReg) (c : Bool) (s : State) : Out := issue (.vmadc d a b m c) (opVmadc d a b m) c s
def execVsbc (d : VReg) (a : VReg) (b : VReg) (m : Option MReg) (c : Bool) (s : State) : Out := issue (.vsbc d a b m c) (opVsbc d a b m) c s
def execVmsbc (d : MReg) (a : VReg) (b : VReg) (m : Option MReg) (c : Bool) (s : State) : Out := issue (.vmsbc d a b m c) (opVmsbc d a b m) c s
def execMand (d : MReg) (a : MReg) (b : MReg) (c : Bool) (s : State) : Out := issue (.mand d a b c) (opMand d a b) c s
def execMor (d : MReg) (a : MReg) (b : MReg) (c : Bool) (s : State) : Out := issue (.mor d a b c) (opMor d a b) c s
def execMxor (d : MReg) (a : MReg) (b : MReg) (c : Bool) (s : State) : Out := issue (.mxor d a b c) (opMxor d a b) c s
def execMandn (d : MReg) (a : MReg) (b : MReg) (c : Bool) (s : State) : Out := issue (.mandn d a b c) (opMandn d a b) c s
def execMnot (d : MReg) (a : MReg) (c : Bool) (s : State) : Out := issue (.mnot d a c) (opMnot d a) c s
def execMshl (d : MReg) (a : MReg) (b : GReg) (c : Bool) (s : State) : Out := issue (.mshl d a b c) (opMshl d a b) c s
def execMpop (d : GReg) (a : MReg) (c : Bool) (s : State) : Out := issue (.mpop d a c) (opMpop d a) c s
def execMfirst (d : GReg) (a : MReg) (c : Bool) (s : State) : Out := issue (.mfirst d a c) (opMfirst d a) c s
def execMlast (d : GReg) (a : MReg) (c : Bool) (s : State) : Out := issue (.mlast d a c) (opMlast d a) c s
def execMset (d : MReg) (c : Bool) (s : State) : Out := issue (.mset d c) (opMset d) c s
def execMclr (d : MReg) (c : Bool) (s : State) : Out := issue (.mclr d c) (opMclr d) c s
def execMmv (d : MReg) (a : MReg) (c : Bool) (s : State) : Out := issue (.mmv d a c) (opMmv d a) c s
def execMtop (d : GReg) (a : MReg) (c : Bool) (s : State) : Out := issue (.mtop d a c) (opMtop d a) c s
def execMfromv (d : MReg) (a : VReg) (c : Bool) (s : State) : Out := issue (.mfromv d a c) (opMfromv d a) c s
def execMtov (d : VReg) (a : MReg) (c : Bool) (s : State) : Out := issue (.mtov d a c) (opMtov d a) c s
def execVfadd (d : VReg) (a : VReg) (b : VReg) (m : Option MReg) (c : Bool) (s : State) : Out := issue (.vfadd d a b m c) (opVfadd d a b m) c s
def execVfsub (d : VReg) (a : VReg) (b : VReg) (m : Option MReg) (c : Bool) (s : State) : Out := issue (.vfsub d a b m c) (opVfsub d a b m) c s
def execVfmul (d : VReg) (a : VReg) (b : VReg) (m : Option MReg) (c : Bool) (s : State) : Out := issue (.vfmul d a b m c) (opVfmul d a b m) c s
def execVfdiv (d : VReg) (a : VReg) (b : VReg) (m : Option MReg) (c : Bool) (s : State) : Out := issue (.vfdiv d a b m c) (opVfdiv d a b m) c s
def execVfmin (d : VReg) (a : VReg) (b : VReg) (m : Option MReg) (c : Bool) (s : State) : Out := issue (.vfmin d a b m c) (opVfmin d a b m) c s
def execVfmax (d : VReg) (a : VReg) (b : VReg) (m : Option MReg) (c : Bool) (s : State) : Out := issue (.vfmax d a b m c) (opVfmax d a b m) c s
def execVfsqrt (d : VReg) (a : VReg) (m : Option MReg) (c : Bool) (s : State) : Out := issue (.vfsqrt d a m c) (opVfsqrt d a m) c s
def execVfmacc (d : VReg) (a : VReg) (b : VReg) (m : Option MReg) (c : Bool) (s : State) : Out := issue (.vfmacc d a b m c) (opVfmacc d a b m) c s
def execVfnmacc (d : VReg) (a : VReg) (b : VReg) (m : Option MReg) (c : Bool) (s : State) : Out := issue (.vfnmacc d a b m c) (opVfnmacc d a b m) c s
def execVfmsac (d : VReg) (a : VReg) (b : VReg) (m : Option MReg) (c : Bool) (s : State) : Out := issue (.vfmsac d a b m c) (opVfmsac d a b m) c s
def execVfeq (d : MReg) (a : VReg) (b : VReg) (m : Option MReg) (c : Bool) (s : State) : Out := issue (.vfeq d a b m c) (opVfeq d a b m) c s
def execVflt (d : MReg) (a : VReg) (b : VReg) (m : Option MReg) (c : Bool) (s : State) : Out := issue (.vflt d a b m c) (opVflt d a b m) c s
def execVfle (d : MReg) (a : VReg) (b : VReg) (m : Option MReg) (c : Bool) (s : State) : Out := issue (.vfle d a b m c) (opVfle d a b m) c s
def execVfsgnj (d : VReg) (a : VReg) (b : VReg) (m : Option MReg) (c : Bool) (s : State) : Out := issue (.vfsgnj d a b m c) (opVfsgnj d a b m) c s
def execVfsgnjn (d : VReg) (a : VReg) (b : VReg) (m : Option MReg) (c : Bool) (s : State) : Out := issue (.vfsgnjn d a b m c) (opVfsgnjn d a b m) c s
def execVfabs (d : VReg) (a : VReg) (m : Option MReg) (c : Bool) (s : State) : Out := issue (.vfabs d a m c) (opVfabs d a m) c s
def execVexp2 (d : VReg) (a : VReg) (m : Option MReg) (c : Bool) (s : State) : Out := issue (.vexp2 d a m c) (opVexp2 d a m) c s
def execVlog2 (d : VReg) (a : VReg) (m : Option MReg) (c : Bool) (s : State) : Out := issue (.vlog2 d a m c) (opVlog2 d a m) c s
def execVrcp (d : VReg) (a : VReg) (m : Option MReg) (c : Bool) (s : State) : Out := issue (.vrcp d a m c) (opVrcp d a m) c s
def execVrsqrt (d : VReg) (a : VReg) (m : Option MReg) (c : Bool) (s : State) : Out := issue (.vrsqrt d a m c) (opVrsqrt d a m) c s
def execVtanh (d : VReg) (a : VReg) (m : Option MReg) (c : Bool) (s : State) : Out := issue (.vtanh d a m c) (opVtanh d a m) c s
def execVsigm (d : VReg) (a : VReg) (m : Option MReg) (c : Bool) (s : State) : Out := issue (.vsigm d a m c) (opVsigm d a m) c s
def execVslup (d : VReg) (a : VReg) (b : GReg) (m : Option MReg) (c : Bool) (s : State) : Out := issue (.vslup d a b m c) (opVslup d a b m) c s
def execVsldn (d : VReg) (a : VReg) (b : GReg) (m : Option MReg) (c : Bool) (s : State) : Out := issue (.vsldn d a b m c) (opVsldn d a b m) c s
def execVrgat (d : VReg) (a : VReg) (b : VReg) (m : Option MReg) (c : Bool) (s : State) : Out := issue (.vrgat d a b m c) (opVrgat d a b m) c s
def execVscat (d : VReg) (a : VReg) (b : VReg) (m : Option MReg) (c : Bool) (s : State) : Out := issue (.vscat d a b m c) (opVscat d a b m) c s
def execVcomp (d : VReg) (a : VReg) (m : MReg) (c : Bool) (s : State) : Out := issue (.vcomp d a m c) (opVcomp d a m) c s
def execVcapp (a : GReg) (b : GReg) (m : MReg) (c : Bool) (s : State) : Out := issue (.vcapp a b m c) (opVcapp a b m) c s
def execVredsum (d : VReg) (a : VReg) (b : VReg) (m : Option MReg) (c : Bool) (s : State) : Out := issue (.vredsum d a b m c) (opVredsum d a b m) c s
def execVredmax (d : VReg) (a : VReg) (b : VReg) (m : Option MReg) (c : Bool) (s : State) : Out := issue (.vredmax d a b m c) (opVredmax d a b m) c s
def execVredmin (d : VReg) (a : VReg) (b : VReg) (m : Option MReg) (c : Bool) (s : State) : Out := issue (.vredmin d a b m c) (opVredmin d a b m) c s
def execVfredsum (d : VReg) (a : VReg) (b : VReg) (m : Option MReg) (c : Bool) (s : State) : Out := issue (.vfredsum d a b m c) (opVfredsum d a b m) c s
def execVid (d : VReg) (m : Option MReg) (c : Bool) (s : State) : Out := issue (.vid d m c) (opVid d m) c s
def execViota (d : VReg) (a : MReg) (m : Option MReg) (c : Bool) (s : State) : Out := issue (.viota d a m c) (opViota d a m) c s
def execVmvsg (d : GReg) (a : VReg) (m : Option MReg) (c : Bool) (s : State) : Out := issue (.vmvsg d a m c) (opVmvsg d a m) c s
def execVmvgs (d : VReg) (a : GReg) (m : Option MReg) (c : Bool) (s : State) : Out := issue (.vmvgs d a m c) (opVmvgs d a m) c s
def execVbcast (d : VReg) (a : GReg) (m : Option MReg) (c : Bool) (s : State) : Out := issue (.vbcast d a m c) (opVbcast d a m) c s
def execVfredmax (d : VReg) (a : VReg) (b : VReg) (m : Option MReg) (c : Bool) (s : State) : Out := issue (.vfredmax d a b m c) (opVfredmax d a b m) c s
def execVxadd (d : VReg) (a : GReg) (b : VReg) (m : Option MReg) (c : Bool) (s : State) : Out := issue (.vxadd d a b m c) (opVxadd d a b m) c s
def execVxfadd (d : VReg) (a : GReg) (b : VReg) (m : Option MReg) (c : Bool) (s : State) : Out := issue (.vxfadd d a b m c) (opVxfadd d a b m) c s
def execVxmax (d : VReg) (a : GReg) (b : VReg) (m : Option MReg) (c : Bool) (s : State) : Out := issue (.vxmax d a b m c) (opVxmax d a b m) c s
def execVxmin (d : VReg) (a : GReg) (b : VReg) (m : Option MReg) (c : Bool) (s : State) : Out := issue (.vxmin d a b m c) (opVxmin d a b m) c s
def execVxand (d : VReg) (a : GReg) (b : VReg) (m : Option MReg) (c : Bool) (s : State) : Out := issue (.vxand d a b m c) (opVxand d a b m) c s
def execVxorAtomic (d : VReg) (a : GReg) (b : VReg) (m : Option MReg) (c : Bool) (s : State) : Out := issue (.vxorAtomic d a b m c) (opVxorAtomic d a b m) c s
def execVxmaxu (d : VReg) (a : GReg) (b : VReg) (m : Option MReg) (c : Bool) (s : State) : Out := issue (.vxmaxu d a b m c) (opVxmaxu d a b m) c s
def execVxminu (d : VReg) (a : GReg) (b : VReg) (m : Option MReg) (c : Bool) (s : State) : Out := issue (.vxminu d a b m c) (opVxminu d a b m) c s
def execVcvtf (d : VReg) (a : VReg) (m : Option MReg) (c : Bool) (s : State) : Out := issue (.vcvtf d a m c) (opVcvtf d a m) c s
def execVcvtfi (d : VReg) (a : VReg) (m : Option MReg) (c : Bool) (s : State) : Out := issue (.vcvtfi d a m c) (opVcvtfi d a m) c s
def execVcvtif (d : VReg) (a : VReg) (m : Option MReg) (c : Bool) (s : State) : Out := issue (.vcvtif d a m c) (opVcvtif d a m) c s
def execVdenc (d : VReg) (a : VReg) (m : Option MReg) (c : Bool) (s : State) : Out := issue (.vdenc d a m c) (opVdenc d a m) c s
def execVddec (d : VReg) (a : VReg) (m : Option MReg) (c : Bool) (s : State) : Out := issue (.vddec d a m c) (opVddec d a m) c s
def execVscl (d : VReg) (a : VReg) (m : Option MReg) (c : Bool) (s : State) : Out := issue (.vscl d a m c) (opVscl d a m) c s
def execVqnt (d : VReg) (a : VReg) (m : Option MReg) (c : Bool) (s : State) : Out := issue (.vqnt d a m c) (opVqnt d a m) c s
def execMma (t : AReg) (b : VReg) (a : Fin 32) (asrc tr i32 accum : Bool) (mm1 : Fin 32) (c : Bool) (s : State) : Out := issue (.mma t b a asrc tr i32 accum mm1 c) (opMma t b a asrc tr i32 accum mm1) c s
def execMzero (t : AReg) (c : Bool) (s : State) : Out := issue (.mzero t c) (opMzero t) c s
def execMrow (d : VReg) (t : AReg) (row : Fin 32) (fmt : Fin 8) (m : Option MReg) (c : Bool) (s : State) : Out := issue (.mrow d t row fmt m c) (opMrow d t row fmt m) c s
def execMstr (t : AReg) (d a b : GReg) (fmt : Fin 8) (m : Option MReg) (c : Bool) (s : State) : Out := issue (.mstr t d a b fmt m c) (opMstr t d a b fmt m) c s
def execMstx (t : AReg) (d a : GReg) (b : VReg) (fmt : Fin 8) (m : Option MReg) (c : Bool) (s : State) : Out := issue (.mstx t d a b fmt m c) (opMstx t d a b fmt m) c s

end
end Sys2Proof.Machine
end

