-- ==== Sys2Proof/Machine/Dispatch.lean ====
section
/-! DEFINITION. One arm per constructor: each instruction and each step of the device calls its meaning. -/
namespace Sys2Proof.Machine noncomputable section

def exec (i : Instr) (s : State) : Host.Outcome State Fault Refusal :=
  match i with
  | .add d a b => Sys2Proof.Machine.execAdd d a b s
  | .sub d a b => Sys2Proof.Machine.execSub d a b s
  | .and d a b => Sys2Proof.Machine.execAnd d a b s
  | .or d a b => Sys2Proof.Machine.execOr d a b s
  | .xor d a b => Sys2Proof.Machine.execXor d a b s
  | .andn d a b => Sys2Proof.Machine.execAndn d a b s
  | .sll d a b => Sys2Proof.Machine.execSll d a b s
  | .srl d a b => Sys2Proof.Machine.execSrl d a b s
  | .sra d a b => Sys2Proof.Machine.execSra d a b s
  | .slt d a b => Sys2Proof.Machine.execSlt d a b s
  | .sltu d a b => Sys2Proof.Machine.execSltu d a b s
  | .min d a b => Sys2Proof.Machine.execMin d a b s
  | .max d a b => Sys2Proof.Machine.execMax d a b s
  | .minu d a b => Sys2Proof.Machine.execMinu d a b s
  | .maxu d a b => Sys2Proof.Machine.execMaxu d a b s
  | .mul d a b => Sys2Proof.Machine.execMul d a b s
  | .mulh d a b => Sys2Proof.Machine.execMulh d a b s
  | .mulhu d a b => Sys2Proof.Machine.execMulhu d a b s
  | .mulhsu d a b => Sys2Proof.Machine.execMulhsu d a b s
  | .div d a b => Sys2Proof.Machine.execDiv d a b s
  | .divu d a b => Sys2Proof.Machine.execDivu d a b s
  | .rem d a b => Sys2Proof.Machine.execRem d a b s
  | .remu d a b => Sys2Proof.Machine.execRemu d a b s
  | .clz d a => Sys2Proof.Machine.execClz d a s
  | .ctz d a => Sys2Proof.Machine.execCtz d a s
  | .cpop d a => Sys2Proof.Machine.execCpop d a s
  | .addi d a imm => Sys2Proof.Machine.execAddi d a imm s
  | .andi d a imm => Sys2Proof.Machine.execAndi d a imm s
  | .ori d a imm => Sys2Proof.Machine.execOri d a imm s
  | .xori d a imm => Sys2Proof.Machine.execXori d a imm s
  | .slti d a imm => Sys2Proof.Machine.execSlti d a imm s
  | .sltiu d a imm => Sys2Proof.Machine.execSltiu d a imm s
  | .shli d a n => Sys2Proof.Machine.execShli d a n s
  | .shri d a n => Sys2Proof.Machine.execShri d a n s
  | .srai d a n => Sys2Proof.Machine.execSrai d a n s
  | .lhi d imm => Sys2Proof.Machine.execLhi d imm s
  | .lpc d imm => Sys2Proof.Machine.execLpc d imm s
  | .jl d imm => Sys2Proof.Machine.execJl d imm s
  | .jlr d a imm => Sys2Proof.Machine.execJlr d a imm s
  | .beq a b imm => Sys2Proof.Machine.execBeq a b imm s
  | .bne a b imm => Sys2Proof.Machine.execBne a b imm s
  | .blt a b imm => Sys2Proof.Machine.execBlt a b imm s
  | .bge a b imm => Sys2Proof.Machine.execBge a b imm s
  | .bltu a b imm => Sys2Proof.Machine.execBltu a b imm s
  | .bgeu a b imm => Sys2Proof.Machine.execBgeu a b imm s
  | .ldb d a imm => Sys2Proof.Machine.execLdb d a imm s
  | .ldbu d a imm => Sys2Proof.Machine.execLdbu d a imm s
  | .ldh d a imm => Sys2Proof.Machine.execLdh d a imm s
  | .ldhu d a imm => Sys2Proof.Machine.execLdhu d a imm s
  | .ldw d a imm => Sys2Proof.Machine.execLdw d a imm s
  | .ldwu d a imm => Sys2Proof.Machine.execLdwu d a imm s
  | .ldd d a imm => Sys2Proof.Machine.execLdd d a imm s
  | .stb b a imm => Sys2Proof.Machine.execStb b a imm s
  | .sth b a imm => Sys2Proof.Machine.execSth b a imm s
  | .stw b a imm => Sys2Proof.Machine.execStw b a imm s
  | .std b a imm => Sys2Proof.Machine.execStd b a imm s
  | .atswap d b a wd aq rl => Sys2Proof.Machine.execAtswap d b a wd aq rl s
  | .atadd d b a wd aq rl => Sys2Proof.Machine.execAtadd d b a wd aq rl s
  | .atand d b a wd aq rl => Sys2Proof.Machine.execAtand d b a wd aq rl s
  | .ator d b a wd aq rl => Sys2Proof.Machine.execAtor d b a wd aq rl s
  | .atxor d b a wd aq rl => Sys2Proof.Machine.execAtxor d b a wd aq rl s
  | .atmax d b a wd aq rl => Sys2Proof.Machine.execAtmax d b a wd aq rl s
  | .atmin d b a wd aq rl => Sys2Proof.Machine.execAtmin d b a wd aq rl s
  | .atmaxu d b a wd aq rl => Sys2Proof.Machine.execAtmaxu d b a wd aq rl s
  | .atminu d b a wd aq rl => Sys2Proof.Machine.execAtminu d b a wd aq rl s
  | .atcas d b a wd aq rl => Sys2Proof.Machine.execAtcas d b a wd aq rl s
  | .fencesv x => Sys2Proof.Machine.execFencesv x s
  | .fencevs x => Sys2Proof.Machine.execFencevs x s
  | .fencevv x => Sys2Proof.Machine.execFencevv x s
  | .fenceall x => Sys2Proof.Machine.execFenceall x s
  | .fenceComplete h => Sys2Proof.Machine.execFenceComplete h s
  | .tfence => Sys2Proof.Machine.execTfence s
  | .tfenceComplete h => Sys2Proof.Machine.execTfenceComplete h s
  | .getst d x => Sys2Proof.Machine.execGetst d x s
  | .setst x a => Sys2Proof.Machine.execSetst x a s
  | .trap x => Sys2Proof.Machine.execTrap x s
  | .tret => Sys2Proof.Machine.execTret s
  | .exit => Sys2Proof.Machine.execExit s
  | .wait a => Sys2Proof.Machine.execWait a s
  | .waitWake h => Sys2Proof.Machine.execWaitWake h s
  | .gear x => Sys2Proof.Machine.execGear x s
  | .qrecv d => Sys2Proof.Machine.execQrecv d s
  | .qrecvWake h => Sys2Proof.Machine.execQrecvWake h s
  | .spawn d a b => Sys2Proof.Machine.execSpawn d a b s
  | .tget d a => Sys2Proof.Machine.execTget d a s
  | .tgetWake h => Sys2Proof.Machine.execTgetWake h s
  | .fjoin a b => Sys2Proof.Machine.execFjoin a b s
  | .fres a => Sys2Proof.Machine.execFres a s
  | .fpoll d a => Sys2Proof.Machine.execFpoll d a s
  | .bara a => Sys2Proof.Machine.execBara a s
  | .barx a b => Sys2Proof.Machine.execBarx a b s
  | .barw a => Sys2Proof.Machine.execBarw a s
  | .barwReturn h => Sys2Proof.Machine.execBarwReturn h s
  | .sbind v a => Sys2Proof.Machine.execSbind v a s
  | .sbindStart h => Sys2Proof.Machine.execSbindStart h s
  | .sfree v => Sys2Proof.Machine.execSfree v s
  | .sfreeAct h => Sys2Proof.Machine.execSfreeAct h s
  | .sstat d v => Sys2Proof.Machine.execSstat d v s
  | .scopy d a b => Sys2Proof.Machine.execScopy d a b s
  | .scopyb d a b => Sys2Proof.Machine.execScopyb d a b s
  | .apx k imm => Sys2Proof.Machine.execApx k imm s
  | .apxend k => Sys2Proof.Machine.execApxend k s
  | .apxinv k => Sys2Proof.Machine.execApxinv k s
  | .setvl d a t => Sys2Proof.Machine.execSetvl d a t s
  | .setvlg d a t => Sys2Proof.Machine.execSetvlg d a t s
  | .setvlr d a b => Sys2Proof.Machine.execSetvlr d a b s
  | .vld d a m c => Sys2Proof.Machine.execVld d a m c s
  | .vlds d a b m c => Sys2Proof.Machine.execVlds d a b m c s
  | .vldx d a b m c => Sys2Proof.Machine.execVldx d a b m c s
  | .vldff d a m c => Sys2Proof.Machine.execVldff d a m c s
  | .vlseg2 d a m c => Sys2Proof.Machine.execVlseg2 d a m c s
  | .vlseg3 d a m c => Sys2Proof.Machine.execVlseg3 d a m c s
  | .vlseg4 d a m c => Sys2Proof.Machine.execVlseg4 d a m c s
  | .vlseg8 d a m c => Sys2Proof.Machine.execVlseg8 d a m c s
  | .mld d a c => Sys2Proof.Machine.execMld d a c s
  | .kld d a c => Sys2Proof.Machine.execKld d a c s
  | .vst d a m c => Sys2Proof.Machine.execVst d a m c s
  | .vsts d a b m c => Sys2Proof.Machine.execVsts d a b m c s
  | .vstx d a b m c => Sys2Proof.Machine.execVstx d a b m c s
  | .vstxo d a b m c => Sys2Proof.Machine.execVstxo d a b m c s
  | .vsseg2 d a m c => Sys2Proof.Machine.execVsseg2 d a m c s
  | .vsseg3 d a m c => Sys2Proof.Machine.execVsseg3 d a m c s
  | .vsseg4 d a m c => Sys2Proof.Machine.execVsseg4 d a m c s
  | .vsseg8 d a m c => Sys2Proof.Machine.execVsseg8 d a m c s
  | .mst d a c => Sys2Proof.Machine.execMst d a c s
  | .kst d a c => Sys2Proof.Machine.execKst d a c s
  | .vaddVv d a b m c => Sys2Proof.Machine.execVaddVv d a b m c s
  | .vsubVv d a b m c => Sys2Proof.Machine.execVsubVv d a b m c s
  | .vrsubVv d a b m c => Sys2Proof.Machine.execVrsubVv d a b m c s
  | .vandVv d a b m c => Sys2Proof.Machine.execVandVv d a b m c s
  | .vorVv d a b m c => Sys2Proof.Machine.execVorVv d a b m c s
  | .vxorVv d a b m c => Sys2Proof.Machine.execVxorVv d a b m c s
  | .vsllVv d a b m c => Sys2Proof.Machine.execVsllVv d a b m c s
  | .vsrlVv d a b m c => Sys2Proof.Machine.execVsrlVv d a b m c s
  | .vsraVv d a b m c => Sys2Proof.Machine.execVsraVv d a b m c s
  | .vminVv d a b m c => Sys2Proof.Machine.execVminVv d a b m c s
  | .vmaxVv d a b m c => Sys2Proof.Machine.execVmaxVv d a b m c s
  | .vminuVv d a b m c => Sys2Proof.Machine.execVminuVv d a b m c s
  | .vmaxuVv d a b m c => Sys2Proof.Machine.execVmaxuVv d a b m c s
  | .vmulVv d a b m c => Sys2Proof.Machine.execVmulVv d a b m c s
  | .vmulhVv d a b m c => Sys2Proof.Machine.execVmulhVv d a b m c s
  | .vmergeVv d a b m c => Sys2Proof.Machine.execVmergeVv d a b m c s
  | .vaddVx d a b m c => Sys2Proof.Machine.execVaddVx d a b m c s
  | .vsubVx d a b m c => Sys2Proof.Machine.execVsubVx d a b m c s
  | .vrsubVx d a b m c => Sys2Proof.Machine.execVrsubVx d a b m c s
  | .vandVx d a b m c => Sys2Proof.Machine.execVandVx d a b m c s
  | .vorVx d a b m c => Sys2Proof.Machine.execVorVx d a b m c s
  | .vxorVx d a b m c => Sys2Proof.Machine.execVxorVx d a b m c s
  | .vsllVx d a b m c => Sys2Proof.Machine.execVsllVx d a b m c s
  | .vsrlVx d a b m c => Sys2Proof.Machine.execVsrlVx d a b m c s
  | .vsraVx d a b m c => Sys2Proof.Machine.execVsraVx d a b m c s
  | .vminVx d a b m c => Sys2Proof.Machine.execVminVx d a b m c s
  | .vmaxVx d a b m c => Sys2Proof.Machine.execVmaxVx d a b m c s
  | .vminuVx d a b m c => Sys2Proof.Machine.execVminuVx d a b m c s
  | .vmaxuVx d a b m c => Sys2Proof.Machine.execVmaxuVx d a b m c s
  | .vmulVx d a b m c => Sys2Proof.Machine.execVmulVx d a b m c s
  | .vmulhVx d a b m c => Sys2Proof.Machine.execVmulhVx d a b m c s
  | .vmergeVx d a b m c => Sys2Proof.Machine.execVmergeVx d a b m c s
  | .vaddVi d a imm m c => Sys2Proof.Machine.execVaddVi d a imm m c s
  | .vsubVi d a imm m c => Sys2Proof.Machine.execVsubVi d a imm m c s
  | .vrsubVi d a imm m c => Sys2Proof.Machine.execVrsubVi d a imm m c s
  | .vandVi d a imm m c => Sys2Proof.Machine.execVandVi d a imm m c s
  | .vorVi d a imm m c => Sys2Proof.Machine.execVorVi d a imm m c s
  | .vxorVi d a imm m c => Sys2Proof.Machine.execVxorVi d a imm m c s
  | .vsllVi d a imm m c => Sys2Proof.Machine.execVsllVi d a imm m c s
  | .vsrlVi d a imm m c => Sys2Proof.Machine.execVsrlVi d a imm m c s
  | .vsraVi d a imm m c => Sys2Proof.Machine.execVsraVi d a imm m c s
  | .vminVi d a imm m c => Sys2Proof.Machine.execVminVi d a imm m c s
  | .vmaxVi d a imm m c => Sys2Proof.Machine.execVmaxVi d a imm m c s
  | .vminuVi d a imm m c => Sys2Proof.Machine.execVminuVi d a imm m c s
  | .vmaxuVi d a imm m c => Sys2Proof.Machine.execVmaxuVi d a imm m c s
  | .vmulVi d a imm m c => Sys2Proof.Machine.execVmulVi d a imm m c s
  | .vmulhVi d a imm m c => Sys2Proof.Machine.execVmulhVi d a imm m c s
  | .vmergeVi d a imm m c => Sys2Proof.Machine.execVmergeVi d a imm m c s
  | .vsadd d a b m c => Sys2Proof.Machine.execVsadd d a b m c s
  | .vsaddu d a b m c => Sys2Proof.Machine.execVsaddu d a b m c s
  | .vssub d a b m c => Sys2Proof.Machine.execVssub d a b m c s
  | .vssubu d a b m c => Sys2Proof.Machine.execVssubu d a b m c s
  | .vaadd d a b m c => Sys2Proof.Machine.execVaadd d a b m c s
  | .vaaddu d a b m c => Sys2Proof.Machine.execVaaddu d a b m c s
  | .vsmul d a b m c => Sys2Proof.Machine.execVsmul d a b m c s
  | .vssrl d a n m c => Sys2Proof.Machine.execVssrl d a n m c s
  | .vssra d a n m c => Sys2Proof.Machine.execVssra d a n m c s
  | .vnsrl d a n m c => Sys2Proof.Machine.execVnsrl d a n m c s
  | .vnsra d a n m c => Sys2Proof.Machine.execVnsra d a n m c s
  | .vnclip d a n m c => Sys2Proof.Machine.execVnclip d a n m c s
  | .vnclipu d a n m c => Sys2Proof.Machine.execVnclipu d a n m c s
  | .vwadd d a b m c => Sys2Proof.Machine.execVwadd d a b m c s
  | .vwaddu d a b m c => Sys2Proof.Machine.execVwaddu d a b m c s
  | .vwsub d a b m c => Sys2Proof.Machine.execVwsub d a b m c s
  | .vwsubu d a b m c => Sys2Proof.Machine.execVwsubu d a b m c s
  | .vwmul d a b m c => Sys2Proof.Machine.execVwmul d a b m c s
  | .vwmulu d a b m c => Sys2Proof.Machine.execVwmulu d a b m c s
  | .vwmulsu d a b m c => Sys2Proof.Machine.execVwmulsu d a b m c s
  | .vwmacc d a b m c => Sys2Proof.Machine.execVwmacc d a b m c s
  | .vwmaccu d a b m c => Sys2Proof.Machine.execVwmaccu d a b m c s
  | .vwmaccsu d a b m c => Sys2Proof.Machine.execVwmaccsu d a b m c s
  | .vqmacc d a b m c => Sys2Proof.Machine.execVqmacc d a b m c s
  | .vseq d a b m c => Sys2Proof.Machine.execVseq d a b m c s
  | .vsne d a b m c => Sys2Proof.Machine.execVsne d a b m c s
  | .vslt d a b m c => Sys2Proof.Machine.execVslt d a b m c s
  | .vsltu d a b m c => Sys2Proof.Machine.execVsltu d a b m c s
  | .vsle d a b m c => Sys2Proof.Machine.execVsle d a b m c s
  | .vsleu d a b m c => Sys2Proof.Machine.execVsleu d a b m c s
  | .vsgt d a b m c => Sys2Proof.Machine.execVsgt d a b m c s
  | .vsgtu d a b m c => Sys2Proof.Machine.execVsgtu d a b m c s
  | .vadc d a b m c => Sys2Proof.Machine.execVadc d a b m c s
  | .vmadc d a b m c => Sys2Proof.Machine.execVmadc d a b m c s
  | .vsbc d a b m c => Sys2Proof.Machine.execVsbc d a b m c s
  | .vmsbc d a b m c => Sys2Proof.Machine.execVmsbc d a b m c s
  | .mand d a b c => Sys2Proof.Machine.execMand d a b c s
  | .mor d a b c => Sys2Proof.Machine.execMor d a b c s
  | .mxor d a b c => Sys2Proof.Machine.execMxor d a b c s
  | .mandn d a b c => Sys2Proof.Machine.execMandn d a b c s
  | .mnot d a c => Sys2Proof.Machine.execMnot d a c s
  | .mshl d a b c => Sys2Proof.Machine.execMshl d a b c s
  | .mpop d a c => Sys2Proof.Machine.execMpop d a c s
  | .mfirst d a c => Sys2Proof.Machine.execMfirst d a c s
  | .mlast d a c => Sys2Proof.Machine.execMlast d a c s
  | .mset d c => Sys2Proof.Machine.execMset d c s
  | .mclr d c => Sys2Proof.Machine.execMclr d c s
  | .mmv d a c => Sys2Proof.Machine.execMmv d a c s
  | .mtop d a c => Sys2Proof.Machine.execMtop d a c s
  | .mfromv d a c => Sys2Proof.Machine.execMfromv d a c s
  | .mtov d a c => Sys2Proof.Machine.execMtov d a c s
  | .vfadd d a b m c => Sys2Proof.Machine.execVfadd d a b m c s
  | .vfsub d a b m c => Sys2Proof.Machine.execVfsub d a b m c s
  | .vfmul d a b m c => Sys2Proof.Machine.execVfmul d a b m c s
  | .vfdiv d a b m c => Sys2Proof.Machine.execVfdiv d a b m c s
  | .vfmin d a b m c => Sys2Proof.Machine.execVfmin d a b m c s
  | .vfmax d a b m c => Sys2Proof.Machine.execVfmax d a b m c s
  | .vfsqrt d a m c => Sys2Proof.Machine.execVfsqrt d a m c s
  | .vfmacc d a b m c => Sys2Proof.Machine.execVfmacc d a b m c s
  | .vfnmacc d a b m c => Sys2Proof.Machine.execVfnmacc d a b m c s
  | .vfmsac d a b m c => Sys2Proof.Machine.execVfmsac d a b m c s
  | .vfeq d a b m c => Sys2Proof.Machine.execVfeq d a b m c s
  | .vflt d a b m c => Sys2Proof.Machine.execVflt d a b m c s
  | .vfle d a b m c => Sys2Proof.Machine.execVfle d a b m c s
  | .vfsgnj d a b m c => Sys2Proof.Machine.execVfsgnj d a b m c s
  | .vfsgnjn d a b m c => Sys2Proof.Machine.execVfsgnjn d a b m c s
  | .vfabs d a m c => Sys2Proof.Machine.execVfabs d a m c s
  | .vexp2 d a m c => Sys2Proof.Machine.execVexp2 d a m c s
  | .vlog2 d a m c => Sys2Proof.Machine.execVlog2 d a m c s
  | .vrcp d a m c => Sys2Proof.Machine.execVrcp d a m c s
  | .vrsqrt d a m c => Sys2Proof.Machine.execVrsqrt d a m c s
  | .vtanh d a m c => Sys2Proof.Machine.execVtanh d a m c s
  | .vsigm d a m c => Sys2Proof.Machine.execVsigm d a m c s
  | .vslup d a b m c => Sys2Proof.Machine.execVslup d a b m c s
  | .vsldn d a b m c => Sys2Proof.Machine.execVsldn d a b m c s
  | .vrgat d a b m c => Sys2Proof.Machine.execVrgat d a b m c s
  | .vscat d a b m c => Sys2Proof.Machine.execVscat d a b m c s
  | .vcomp d a m c => Sys2Proof.Machine.execVcomp d a m c s
  | .vcapp a b m c => Sys2Proof.Machine.execVcapp a b m c s
  | .vredsum d a b m c => Sys2Proof.Machine.execVredsum d a b m c s
  | .vredmax d a b m c => Sys2Proof.Machine.execVredmax d a b m c s
  | .vredmin d a b m c => Sys2Proof.Machine.execVredmin d a b m c s
  | .vfredsum d a b m c => Sys2Proof.Machine.execVfredsum d a b m c s
  | .vid d m c => Sys2Proof.Machine.execVid d m c s
  | .viota d a m c => Sys2Proof.Machine.execViota d a m c s
  | .vmvsg d a m c => Sys2Proof.Machine.execVmvsg d a m c s
  | .vmvgs d a m c => Sys2Proof.Machine.execVmvgs d a m c s
  | .vbcast d a m c => Sys2Proof.Machine.execVbcast d a m c s
  | .vfredmax d a b m c => Sys2Proof.Machine.execVfredmax d a b m c s
  | .vfetch n => Sys2Proof.Machine.execVfetch n s
  | .vtfetch n m => Sys2Proof.Machine.execVtfetch n m s
  | .vstop => Sys2Proof.Machine.execVstop s
  | .vskip m imm => Sys2Proof.Machine.execVskip m imm s
  | .vlset n imm => Sys2Proof.Machine.execVlset n imm s
  | .vlbr n imm => Sys2Proof.Machine.execVlbr n imm s
  | .vreply m k => Sys2Proof.Machine.execVreply m k s
  | .vfetchr a => Sys2Proof.Machine.execVfetchr a s
  | .vxadd d a b m c => Sys2Proof.Machine.execVxadd d a b m c s
  | .vxfadd d a b m c => Sys2Proof.Machine.execVxfadd d a b m c s
  | .vxmax d a b m c => Sys2Proof.Machine.execVxmax d a b m c s
  | .vxmin d a b m c => Sys2Proof.Machine.execVxmin d a b m c s
  | .vxand d a b m c => Sys2Proof.Machine.execVxand d a b m c s
  | .vxorAtomic d a b m c => Sys2Proof.Machine.execVxorAtomic d a b m c s
  | .vxmaxu d a b m c => Sys2Proof.Machine.execVxmaxu d a b m c s
  | .vxminu d a b m c => Sys2Proof.Machine.execVxminu d a b m c s
  | .vcvtf d a m c => Sys2Proof.Machine.execVcvtf d a m c s
  | .vcvtfi d a m c => Sys2Proof.Machine.execVcvtfi d a m c s
  | .vcvtif d a m c => Sys2Proof.Machine.execVcvtif d a m c s
  | .vdenc d a m c => Sys2Proof.Machine.execVdenc d a m c s
  | .vddec d a m c => Sys2Proof.Machine.execVddec d a m c s
  | .vscl d a m c => Sys2Proof.Machine.execVscl d a m c s
  | .vqnt d a m c => Sys2Proof.Machine.execVqnt d a m c s
  | .mma t b a asrc tr i32 accum mm1 c => Sys2Proof.Machine.execMma t b a asrc tr i32 accum mm1 c s
  | .mzero t c => Sys2Proof.Machine.execMzero t c s
  | .mrow d t row fmt m c => Sys2Proof.Machine.execMrow d t row fmt m c s
  | .mstr t d a b fmt m c => Sys2Proof.Machine.execMstr t d a b fmt m c s
  | .mstx t d a b fmt m c => Sys2Proof.Machine.execMstx t d a b fmt m c s
  | .cAddi x n => Sys2Proof.Machine.execCAddi x n s
  | .cLi x n => Sys2Proof.Machine.execCLi x n s
  | .cMv x y => Sys2Proof.Machine.execCMv x y s
  | .cAdd x y => Sys2Proof.Machine.execCAdd x y s
  | .cSub x y => Sys2Proof.Machine.execCSub x y s
  | .cAnd x y => Sys2Proof.Machine.execCAnd x y s
  | .cShli x n => Sys2Proof.Machine.execCShli x n s
  | .cLdd x n => Sys2Proof.Machine.execCLdd x n s
  | .cStd x n => Sys2Proof.Machine.execCStd x n s
  | .cBeqz x n => Sys2Proof.Machine.execCBeqz x n s
  | .cBnez x n => Sys2Proof.Machine.execCBnez x n s
  | .cJ o => Sys2Proof.Machine.execCJ o s
  | .cJlr x z => Sys2Proof.Machine.execCJlr x z s
  | .cVstop => Sys2Proof.Machine.execCVstop s
  | .streamBegin h => Sys2Proof.Machine.execStreamBegin h s
  | .elementGroupComplete h => Sys2Proof.Machine.execElementGroupComplete h s
  | .vectorSideFault h => Sys2Proof.Machine.execVectorSideFault h s
  | .eventTaken h => Sys2Proof.Machine.execEventTaken h s
  | .resume h => Sys2Proof.Machine.execResume h s
  | .stop h => Sys2Proof.Machine.execStop h s
  | .clear h => Sys2Proof.Machine.execClear h s
  | .step h => Sys2Proof.Machine.execStep h s
  | .saveComplete h => Sys2Proof.Machine.execSaveComplete h s
  | .slotWordStore ag h v => Sys2Proof.Machine.execSlotWordStore ag h v s
  | .errorLogClear ag t v => Sys2Proof.Machine.execErrorLogClear ag t v s
  | .controlPageWrite ag pa v => Sys2Proof.Machine.execControlPageWrite ag pa v s
  | .queueHeadStore ag q off v => Sys2Proof.Machine.execQueueHeadStore ag q off v s
  | .queueErrClear ag q v => Sys2Proof.Machine.execQueueErrClear ag q v s
  | .copyStripTake e => Sys2Proof.Machine.execCopyStripTake e s
  | .copyStripComplete e => Sys2Proof.Machine.execCopyStripComplete e s
  | .copyStripFault e => Sys2Proof.Machine.execCopyStripFault e s
  | .rayPrefetch h r => Sys2Proof.Machine.execRayPrefetch h r s
  | .rayDrain h r => Sys2Proof.Machine.execRayDrain h r s
  | .rayEngineFault h r => Sys2Proof.Machine.execRayEngineFault h r s
  | .walkerStep n => Sys2Proof.Machine.execWalkerStep n s
  | .budgetExhausted f => Sys2Proof.Machine.execBudgetExhausted f s
  | .worldSwitch a b => Sys2Proof.Machine.execWorldSwitch a b s
  | .gearChangeEnd t => Sys2Proof.Machine.execGearChangeEnd t s
  | .arm n => Sys2Proof.Machine.execArm n s
  | .abort n => Sys2Proof.Machine.execAbort n s
  | .reset n => Sys2Proof.Machine.execReset n s
  | .kernelStart n => Sys2Proof.Machine.execKernelStart n s
  | .launcherAppend n => Sys2Proof.Machine.execLauncherAppend n s
  | .closureSample n => Sys2Proof.Machine.execClosureSample n s
  | .enable k => Sys2Proof.Machine.execEnable k s
  | .disable k => Sys2Proof.Machine.execDisable k s
  | .invalidate k => Sys2Proof.Machine.execInvalidate k s
  | .load k => Sys2Proof.Machine.execLoad k s
  | .trainingStep k => Sys2Proof.Machine.execTrainingStep k s
  | .notifyWrite f imm x => Sys2Proof.Machine.execNotifyWrite f imm x s
  | .notifyApply f imm => Sys2Proof.Machine.execNotifyApply f imm s
  | .nop q => Sys2Proof.Machine.execNop q s
  | .launch q => Sys2Proof.Machine.execLaunch q s
  | .copyHost q => Sys2Proof.Machine.execCopyHost q s
  | .writeValue q => Sys2Proof.Machine.execWriteValue q s
  | .waitValue q => Sys2Proof.Machine.execWaitValue q s
  | .waitValueMet q => Sys2Proof.Machine.execWaitValueMet q s
  | .signal q => Sys2Proof.Machine.execSignal q s
  | .writeThenSignal q => Sys2Proof.Machine.execWriteThenSignal q s
  | .map q => Sys2Proof.Machine.execMap q s
  | .fence q => Sys2Proof.Machine.execFence q s
  | .hostBar2Access f off len w => Sys2Proof.Machine.execHostBar2Access f off len w s
  | .pcieCompletionTimeout h => Sys2Proof.Machine.execPcieCompletionTimeout h s
  | .functionLevelReset f => Sys2Proof.Machine.execFunctionLevelReset f s
  | .flaodInboundAccess n off op => Sys2Proof.Machine.execFlaodInboundAccess n off op s
  | .portDown p => Sys2Proof.Machine.execPortDown p s
  | .flaodRequestTimeout h => Sys2Proof.Machine.execFlaodRequestTimeout h s
  | .syncFlit p offs => Sys2Proof.Machine.execSyncFlit p offs s
  | .tileQuarantine t => Sys2Proof.Machine.execTileQuarantine t s
  | .softError h cls reg elem => Sys2Proof.Machine.execSoftError h cls reg elem s
  | .storeUncorrectable pa => Sys2Proof.Machine.execStoreUncorrectable pa s
  | .functionEnable f => Sys2Proof.Machine.execFunctionEnable f s
  | .handOver f sigOk digest lo hi => Sys2Proof.Machine.execHandOver f sigOk digest lo hi s
  | .handOverSwitch f => Sys2Proof.Machine.execHandOverSwitch f s
  | .powerOn blockOk block => Sys2Proof.Machine.execPowerOn blockOk block s
  | .getVersion => Sys2Proof.Machine.execGetVersion s
  | .getCapabilities => Sys2Proof.Machine.execGetCapabilities s
  | .negotiateAlgorithms p384 sha384 => Sys2Proof.Machine.execNegotiateAlgorithms p384 sha384 s
  | .getDigests => Sys2Proof.Machine.execGetDigests s
  | .getCertificate slot => Sys2Proof.Machine.execGetCertificate slot s
  | .challenge nonce => Sys2Proof.Machine.execChallenge nonce s
  | .getMeasurements block => Sys2Proof.Machine.execGetMeasurements block s
  | .leaseBegin sigOk id key mask => Sys2Proof.Machine.execLeaseBegin sigOk id key mask s
  | .leaseReset sigOk => Sys2Proof.Machine.execLeaseReset sigOk s
  | .leaseResetComplete => Sys2Proof.Machine.execLeaseResetComplete s
  | .getRecord => Sys2Proof.Machine.execGetRecord s
  | .illegalInstruction enc => Sys2Proof.Machine.execIllegalInstruction enc s
  | .fetchFault perm va => Sys2Proof.Machine.execFetchFault perm va s
  | .dependencyReadComplete h => Sys2Proof.Machine.execDependencyReadComplete h s
  | .clusterModeChange n on => Sys2Proof.Machine.execClusterModeChange n on s
  | .undefinedOpPacket q => Sys2Proof.Machine.execUndefinedOpPacket q s
  | .pciePostedWriteLoss f h => Sys2Proof.Machine.execPciePostedWriteLoss f h s
  | .flaodPostedStoreError n f => Sys2Proof.Machine.execFlaodPostedStoreError n f s
  | .flaodPortUp p => Sys2Proof.Machine.execFlaodPortUp p s
  | .msixTableWrite f imm w v => Sys2Proof.Machine.execMsixTableWrite f imm w v s

end
end Sys2Proof.Machine
end

