-- ==== Sys2Proof/Machine/Turn.lean ====
section
/-! DEFINITION. What comes next: the order in which the parts of the machine move (log 1), the instruction at a program
counter, and the program that a test places. -/
namespace Sys2Proof.Machine
noncomputable section

/-- What a step does: an instruction or a device step, by a mover; nothing; or an agenda that names no device step. -/
inductive Plan
  | perform (i : Instr) (m : Mover) (s : State)
  | idle (s : State)
  | bad

/-- An instruction that no word encodes and that is no trap of a hart: a step of the device. -/
def deviceStep (i : Instr) : Bool :=
  encode i == 0 && (match i with | .illegalInstruction _ => false | .fetchFault _ _ => false | _ => true)

/-- What stands at the control thread's PC (R77, R87), and the state after its bytes have been fetched.  DESIGN CHOICE: a PC
that is odd though no jump made it so, from an image of PC or TVEC, is fetched from as it is (log 27). -/
def controlInstr (s : State) (h : HartId) : Instr × State :=
  match (fetchAt (whoS s h) false (s.hart h).c.pc.toNat).run.run s with
  | (.error e, s') => (.fetchFault (e.cause == 0x05) e.tval, s')
  | (.ok bits, s') =>
    match decode (encBits bits) with
    | some i => (i, s')
    | none => (.illegalInstruction (w64 (encBits bits)), s')

/-- The late load of hart p.1 waits beyond the step: an instruction of its own control thread that goes to the vector unit, and that
neither reads the load's register nor makes the thread wait; or `fencevv`, which orders no S access (R53, R58, R354; log 70). -/
def keepsLate (i : Instr) (m : Mover) (p : Nat × Hart) : Bool :=
  match p.2.live.late with
  | none => true
  | some l => p.1 == m.hart.val && m.thread == .control &&
      (match vopOf i with
        | some (op, c) => !c && !op.wait && !op.gops.contains l.reg
        | none => (match i with | .fencevv _ => true | _ => false))
/-- Before any other step, late loads are performed. -/
def landBefore (i : Instr) (m : Mover) (s : State) : State :=
  (s.harts.filter fun p => !keepsLate i m p).foldl (fun s p => landLate s (Fin.ofNat 4096 p.1)) s

/-- The control thread of hart h at its boundary (R218): the end of a fault that leads to FAULTED; an access that waits for the
outside, which comes before what is pending (R90); a vector-side fault, a stop, an event, or its instruction. -/
def controlTurn (s : State) (h : HartId) : Plan :=
  let x := s.hart h
  let m : Mover := ⟨h, .control⟩
  let go : Plan := .perform (controlInstr s h).1 m (controlInstr s h).2
  if !x.onCore || standsStill s h then .idle s
  else if x.falling then .perform (.saveComplete h) m s
  else if x.live.wait.isOutside then go
  else if vDue x then .perform (.vectorSideFault h) m s
  else if x.state == .stopping && !x.step1 then .perform (.saveComplete h) m s
  else if (dueEvent x).isSome then .perform (.eventTaken h) m s
  else go

/-- The stream cannot go on: its `vreply` finds the reply queue full (R156). -/
def blockedReply (s : State) (h : HartId) (i : Instr) : Bool :=
  match i with
  | .vreply _ _ => rqCount (s.hart h).c == 8
  | _ => false

/-- The unit cannot go on: a drain of a store ray has faulted, so that its ring stays full (R190, R191).  The control thread does. -/
def rayJam (s : State) (h : HartId) : Bool :=
  (List.finRange 8).any (fun r => rayLive s h r && rayDir s h r && rayErr s h r != 0)
  && (match execElementGroupComplete h s with
    | .next t => t.hart h == s.hart h
    | _ => false)

/-- VP i of hart h runs its next instruction. -/
def vpTurn (s : State) (h : HartId) (i : Fin 4096) : Option Plan :=
  if unitLive s h && (s.hart h).live.tvps.any (fun t => t.vp == i && t.faulted.isNone) then
    let p := facetInstr s h (.vp i)
    some (.perform p.1 ⟨h, .vp i⟩ p.2)
  else none

/-- The current or the next entry of the vector queue moves on. -/
def entryTurn (s : State) (h : HartId) : Option Plan :=
  let c := (s.hart h).c
  let m : Mover := ⟨h, .control⟩
  if !unitLive s h then none
  else match curEntry c with
    | some k =>
      if entryFetch (vqAt c k) then
        let p := facetInstr s h .stream
        if blockedReply s h p.1 || ((vopOf p.1).isSome && rayJam s h) then none else some (.perform p.1 ⟨h, .stream⟩ p.2)
      else if rayJam s h then none
      else some (.perform (.elementGroupComplete h) m s)
    | none => (headEntry s h).bind fun k =>
        match decode (vqAt c k)[1].toNat with
        | some (.vfetch _) => some (.perform (.streamBegin h) m s)
        | some (.vfetchr _) => some (.perform (.streamBegin h) m s)
        | some (.sbind _ _) => some (.perform (.sbindStart h) m s)
        | some (.sfree _) => some (.perform (.sfreeAct h) m s)
        | _ => if rayJam s h then none else some (.perform (.elementGroupComplete h) m s)

/-- Vector work goes before the control thread: VPs, then the queue. -/
def vectorTurn (s : State) (h : HartId) : Option Plan :=
  (match (s.hart h).live.tvps.find? fun (t : TVP) => t.faulted.isNone with
    | some t => vpTurn s h t.vp
    | none => none).orElse fun _ => entryTurn s h

/-- The own order of the current hart: a vector-side fault or a stop that is due, vector work, the control thread. -/
def ownTurn (s : State) : Plan :=
  let h := s.cur.hart
  let x := s.hart h
  if vDue x || x.falling || (x.state == .stopping && !x.step1) then controlTurn s h else (vectorTurn s h).getD (controlTurn s h)

/-- What the agenda says, or the current hart's own order. -/
def plan (s : State) : Plan :=
  match s.agenda with
  | .event i :: r => if deviceStep i then .perform i s.cur { s with agenda := r } else .bad
  | .run m :: r =>
    let s := { s with agenda := r }
    (match m.thread with
      | .control => controlTurn s m.hart
      | .stream => (entryTurn s m.hart).getD (.idle s)
      | .vp i => (vpTurn s m.hart i).getD (.idle s))
  | .own :: r => ownTurn { s with agenda := r }
  | [] => ownTurn s

/-! Soft errors that no instruction has consumed (R219). -/

def softStands (x : Hart) (e : Soft) : Bool :=
  let c := if x.onCore then x.c else x.img
  let at_ (v : Nat) : Bool := bitsOf v (e.bit + e.width - 1) e.bit != 0
  match e.cls with
  | .vector => at_ x.live.vPois[e.reg].toNat
  | .mask => at_ (c.mPois[e.reg.val % 8]!).toNat
  | .scale => at_ (c.kPois[e.reg.val % 8]!).toNat
  | .accumulator => at_ (x.live.aPois[e.reg.val % 4]!).toNat
def softRecord (s : State) (h : HartId) (e : Soft) : Vector Word 3 :=
  let c : Nat := match e.cls with | .vector => 0 | .mask => 1 | .scale => 2 | .accumulator => 3
  #v[w64 (2 + 256 * (slotOf h).val + 2048 * e.reg.val + 65536 * c + 2 ^ 32 * e.elem.toNat), 0, s.tick]
/-- Errors that an instruction, a CLEAR or a renegotiation has overwritten are recorded as deferred.  A threaded VP's
writes are no overwriting before it commits them (R161).  DESIGN CHOICE: several that go in one step are recorded by hart,
and of one hart the newest error first (log 60). -/
def sweep (s : State) : State :=
  (List.range s.harts.length).foldl (fun s k =>
    match s.harts[k]? with
    | none => s
    | some (i, x) =>
      if x.soft.isEmpty || x.live.tvps.any (fun t => !t.undo.isEmpty) then s
      else
        let h : HartId := Fin.ofNat 4096 i
        let gone := x.soft.filter fun e => !softStands x e
        gone.foldl (fun s e => s.onTile (tileOf h) fun t => t.logError (softRecord s h e))
          (s.onHart h fun x => { x with soft := x.soft.filter (softStands x) })) s

/-- The hart that has run its one instruction or its one trap entry of a STEP by i: no other step of the device counts (R206). -/
def tookStep (i : Instr) (m : Mover) (before after : State) : Option HartId :=
  let entered (h : HartId) : Option HartId := if !(before.hart h).c.inh && (after.hart h).c.inh then some h else none
  match i with
  | .vectorSideFault h => entered h
  | .eventTaken h => entered h
  | .pcieCompletionTimeout h => entered h
  | .flaodRequestTimeout h => entered h
  | _ => if !deviceStep i && m.thread == .control then some m.hart else none
/-- After it, the stop of that hart begins. -/
def afterTurn (i : Instr) (m : Mover) (before s : State) : State :=
  match tookStep i m before s with
  | none => sweep s
  | some h =>
    let x := s.hart h
    if x.step1 && x.state == .stopping && x.live.wait == .none then
      sweep ((s.onHart h fun x => { x with step1 := false }).later (.saveComplete h))
    else sweep s

/-! A placed program (log 2). -/

/-- Where `placeCode` lays the code and its tables: the table frames' backing, and the code page's frame. -/
def codeVa : Nat := 0x4000
def codePa : Nat := 0x200000
def tableBack : Nat := 0x100000
/-- A pointer entry to frame n; the leaf of the code page, with X and A set. -/
def pointerTo (n : Nat) : Nat := 3 + (arenaBase + 0x4000 * n)
def codeLeaf : Nat := 0x211 + codePa
def tableTag (lvl : Nat) : Word := w64 (1 + 4 * lvl)

/-- The n bytes of v stand as the next instruction of hart 0, which runs in a space that maps them for fetching. -/
def placeCode (s : State) (n v : Nat) : State :=
  let m := memWrite s.mem (tableBack + 0) 8 (pointerTo 1)
  let m := memWrite m (tableBack + 0x4000) 8 (pointerTo 2)
  let m := memWrite m (tableBack + 0x8000) 8 (pointerTo 3)
  let m := memWrite m (tableBack + 0xC008) 8 codeLeaf
  let m := memWrite m codePa n v
  let s := { s with
    cur := ⟨0, .control⟩
    agenda := []
    mem := m
    hub := { s.hub with cluster := s.hub.cluster &&& ~~~1#64, aback := w64 tableBack, aframes := 4, tags := [(0, tableTag 0), (1, tableTag 1), (2, tableTag 2), (3, tableTag 3)] } }
  s.onHart 0 fun x => { x with state := .running, space := w64 arenaBase, c := { x.c with pc := w64 codeVa } }

end
end Sys2Proof.Machine
end

