-- ==== Sys2Proof/Machine/Boundary.lean ====
section
/-! DEFINITION. What falls due together at the control thread's boundary: a control-side fault before a vector-side one
(09 R164, 12 R218). -/
namespace Sys2Proof.Machine
noncomputable section

/-- Between a and b the hart has entered a control-side fault, or has begun to end in FAULTED by one (R164, R210). -/
def entersFault (a b : Hart) : Bool :=
  b.c.st[7].toNat / 512 % 2 == 0 && ((!a.c.inh && b.c.inh) || (a.onCore && b.state == .faulted) || (!a.falling && b.falling))

/-- The instruction at PC, where it would fault. -/
def controlFault (s : State) (h : HartId) : Option (Instr × State) :=
  let p := controlInstr s h
  match exec p.1 { landBefore p.1 ⟨h, .control⟩ p.2 with cur := ⟨h, .control⟩ } with
  | .next t => if entersFault (s.hart h) (t.hart h) then some p else none
  | _ => none

/-- A vector-side fault of hart h is entered at this boundary. -/
def entersVector (s : State) (h : HartId) : Bool :=
  let x := s.hart h
  x.onCore && vDue x && !x.falling && !x.live.wait.isOutside && !standsStill s h

/-- The control-side fault that meets a vector-side fault is taken first (R164, R218), and the stop that was due goes on
later. -/
def Plan.first : Plan → Plan
  | .perform i m s =>
    let fault (h : HartId) (k : State → State) : Plan :=
      match (if entersVector s h then controlFault s h else none) with
      | some (j, t) => .perform j ⟨h, .control⟩ (k t)
      | none => .perform i m s
    match i with
    | .vectorSideFault h => fault h id
    | .saveComplete h =>
      if (s.hart h).state == .stopping && !(s.hart h).step1 then fault h fun t => t.later (.saveComplete h) else .perform i m s
    | _ => .perform i m s
  | p => p

end
end Sys2Proof.Machine
end

