-- ==== Sys2Proof/Machine/Step.lean ====
section
/-! DEFINITION. One step of the machine, and the state with an instruction placed where the step fetches it. -/
namespace Sys2Proof.Machine
noncomputable section

/-- An instruction performed by m, once late loads are: `exec` with m as the one who moves. -/
def perform (i : Instr) (m : Mover) (cur : Mover) (s : State) : Host.Outcome State Fault Refusal :=
  match exec i { landBefore i m s with cur := m } with
  | .next s' => .next { charge (afterTurn i m s s') with cur := cur }
  | .fault f => .fault f
  | .refused r => .refused r

/-- Time goes on, and what is next happens (log 1). -/
def step (s : State) : Host.Outcome State Fault Refusal :=
  match Plan.first <| plan { s with now := s.now + 1, storeNo := 4096 * (s.now + 1) } with
  | .perform i m s' => perform i m s.cur s'
  | .idle s' => .next (charge s')
  | .bad => .fault .notADeviceStep

/-- Hart 0 stands at the instruction whose bits are w (log 2). -/
def State.withFetchWord (s : State) (nbits w : Nat) : State := placeCode s 8 (w % 2 ^ nbits)

end
end Sys2Proof.Machine
end

