-- ==== Sys2Proof/Certificates/Slice0/Obligations.lean ====
section
/-! DEFINITION. The statements for the provers, and the words they are stated in.  `Claims` holds those words: what a
state is after an instruction that did one named thing, the spec's tables of results, and the conditions under which an
access or a vector instruction meets nothing in its way. -/
namespace Sys2Proof.Claims
open Sys2Proof Sys2Proof.Machine

/-! The control thread. -/

/-- g[x] of the hart that moves; g0 reads as zero (R90). -/
def gr (s : State) (x : Fin 32) : Word := if x.val = 0 then 0 else (s.hart s.me).c.g[x]
/-- Its PC. -/
def pcOf (s : State) : Word := (s.hart s.me).c.pc
/-- s, but that g[d] is v (nothing where d is 0), PC is p and the hart waits for nothing. -/
def wroteAt (s : State) (d : Fin 32) (v p : Word) : State :=
  s.onHart s.me fun x => { x with
    c := { x.c with g := if d.val = 0 then x.c.g else x.c.g.set d v, pc := p }
    live := { x.live with wait := .none } }
/-- The same, with PC at the next instruction. -/
def wrote (s : State) (d : Fin 32) (v : Word) (len : Nat) : State := wroteAt s d v (pcOf s + BitVec.ofNat 64 len)
/-- s, but that PC is at the next instruction. -/
def passed (s : State) (len : Nat) : State := wrote s 0 0 len
/-- The hart can move: its tile is in no gear change (R293), and, unless it is the root's or secure, its cluster is in no start-up,
test or recovery mode (R332). -/
def Moves (s : State) (h : HartId) : Prop :=
  (s.tile (tileOf h)).gchg = false ∧ ((s.hart h).func ≠ 31 → (s.hart h).world = false → s.hub.cluster.getLsbD (h.val / 64) = false)
/-- A control thread of a hart executes. -/
def InControl (s : State) : Prop := s.cur.thread = .control
/-- It takes a trap at its instruction (R210). -/
def trapped (s : State) (cause : Nat) (tval : Word) : State :=
  trapEntry s.me { cause := cause, tval := tval } (pcOf s) s

/-! Results of the scalar instructions (R91 to R97). -/

def bit01 (b : Bool) : Word := if b then 1 else 0
/-- R91: the instructions of two registers. -/
def registerOps1 : List ((GReg → GReg → GReg → Instr) × (Word → Word → Word)) :=
  [(.add, fun a b => a + b), (.sub, fun a b => a - b), (.and, fun a b => a &&& b), (.or, fun a b => a ||| b),
   (.xor, fun a b => a ^^^ b), (.andn, fun a b => a &&& ~~~b),
   (.sll, fun a b => a <<< (b.toNat % 64)), (.srl, fun a b => a >>> (b.toNat % 64)),
   (.sra, fun a b => a.sshiftRight (b.toNat % 64)),
   (.slt, fun a b => bit01 (decide (a.toInt < b.toInt))), (.sltu, fun a b => bit01 (decide (a.toNat < b.toNat))),
   (.min, fun a b => if a.toInt < b.toInt then a else b), (.max, fun a b => if a.toInt < b.toInt then b else a),
   (.minu, fun a b => if a.toNat < b.toNat then a else b), (.maxu, fun a b => if a.toNat < b.toNat then b else a)]
/-- R92. -/
def registerOps2 : List ((GReg → GReg → GReg → Instr) × (Word → Word → Word)) :=
  [(.mul, fun a b => a * b),
   (.mulh, fun a b => ((a.signExtend 128 * b.signExtend 128) >>> 64).setWidth 64),
   (.mulhu, fun a b => ((a.setWidth 128 * b.setWidth 128) >>> 64).setWidth 64),
   (.mulhsu, fun a b => ((a.signExtend 128 * b.setWidth 128) >>> 64).setWidth 64),
   (.div, fun a b => if b = 0 then 0xFFFFFFFFFFFFFFFF#64 else a.sdiv b),
   (.divu, fun a b => if b = 0 then 0xFFFFFFFFFFFFFFFF#64 else a / b),
   (.rem, fun a b => if b = 0 then a else a.srem b),
   (.remu, fun a b => if b = 0 then a else a % b)]
def registerOps : List ((GReg → GReg → GReg → Instr) × (Word → Word → Word)) := registerOps1 ++ registerOps2
/-- n is the number of leading zero bits, of trailing zero bits, of one bits of a. -/
def leadingZeros (a : Word) (n : Nat) : Prop := n ≤ 64 ∧ a.toNat < 2 ^ (64 - n) ∧ (n < 64 → 2 ^ (63 - n) ≤ a.toNat)
def trailingZeros (a : Word) (n : Nat) : Prop := n ≤ 64 ∧ a.toNat % 2 ^ n = 0 ∧ (n < 64 → a.toNat / 2 ^ n % 2 = 1)
def oneBits (a : Word) : Nat := ((List.range 64).map fun i => a.toNat / 2 ^ i % 2).sum
/-- R93: the instructions of a register and n = sext(imm13). -/
def immediateOps : List ((GReg → GReg → Imm13 → Instr) × (Word → Word → Word)) :=
  [(.addi, fun a n => a + n), (.andi, fun a n => a &&& n), (.ori, fun a n => a ||| n), (.xori, fun a n => a ^^^ n),
   (.slti, fun a n => bit01 (decide (a.toInt < n.toInt))), (.sltiu, fun a n => bit01 (decide (a.toNat < n.toNat)))]
/-- R94. -/
def shiftOps : List ((GReg → GReg → Sh6 → Instr) × (Word → Nat → Word)) :=
  [(.shli, fun a n => a <<< n), (.shri, fun a n => a >>> n), (.srai, fun a n => a.sshiftRight n)]
/-- R97. -/
def branchOps : List ((GReg → GReg → Imm13 → Instr) × (Word → Word → Bool)) :=
  [(.beq, fun a b => decide (a = b)), (.bne, fun a b => decide (a ≠ b)),
   (.blt, fun a b => decide (a.toInt < b.toInt)), (.bge, fun a b => decide (b.toInt ≤ a.toInt)),
   (.bltu, fun a b => decide (a.toNat < b.toNat)), (.bgeu, fun a b => decide (b.toNat ≤ a.toNat))]

/-! Memory (R98 to R103). -/

/-- An access of n bytes at va, by w, that meets nothing in its way: aligned, mapped to memory of the module under a normal
or device-ordered entry, not poisoned, its line written under the entry's key, no dirty bytes in any data cache, and no store of a
V agent that is still to be performed, nor one that is performed later (log 4, log 70). -/
structure Plain (s : State) (w : Who) (acc : Acc) (va n : Nat) (x : Xl) : Prop where
  aligned : va % n = 0
  mapped : xlate s w acc va = .ok x
  memory : x.region = .hbm ∨ x.region = .store
  kind : eKind x.leaf = 0 ∨ eKind x.leaf = 4
  clean : poisoned s x.pa n = false
  key : x.region = .hbm → lineKeyAt s x.pa = keyAt s (eKey x.leaf)
  undirtied : s.dcache = []
  unheld : s.vbuf = []
  prompt : ∀ h, w.iss.hart = some h → w.port = .v → (s.hart h).live.vfence = false ∧ (s.hart h).lazyV = false
/-- A store of the n low bytes of v at pa is performed: tangent slots whose dependency range it meets are invalidated (R285),
poison of the words that it covers is gone, and waits on its line end (R217). -/
def performed (s : State) (pa n v : Nat) : State :=
  wakeWaits (unpoison { watchStore s pa n none with mem := memWrite s.mem pa n v } pa n) pa n
/-- The bytes stand in the data cache of tile t instead (R49: written back later). -/
def held (s : State) (t : TileId) (pa n v k : Nat) : State :=
  unpoison { watchStore s pa n none with
    dcache := (List.range n).foldl (fun d i => mset d (pa + i) ⟨t, k, BitVec.ofNat 8 (v / 256 ^ i)⟩) s.dcache } pa n
/-- Loads of hart h to g[d] from a page of this kind are performed later (log 70). -/
def LandsLater (s : State) (h : HartId) (d : GReg) (x : Xl) : Prop :=
  (s.hart h).lateS = true ∧ d.val ≠ 0 ∧ d.val < 24 ∧ eKind x.leaf = 0
/-- s, with a load of n bytes to g[d] that is still to be performed. -/
def withLate (s : State) (d : GReg) (x : Xl) (n : Nat) (signed : Bool) : State :=
  s.onLive s.me fun l => { l with late := some ⟨d, x.pa, n, eKey x.leaf, signed⟩ }
/-- t is s, but that waits of harts and of peers at places that were stored to may have ended (R217, R240, R325). -/
def OnlyWaits (s t : State) : Prop :=
  t = { s with harts := t.harts, hub := { s.hub with peerWaits := t.hub.peerWaits }, sent := t.sent } ∧
  (∀ h, ∃ w, t.hart h = { s.hart h with live := { (s.hart h).live with wait := w } }) ∧ ∃ l, t.sent = s.sent ++ l
/-- What the V agent of hart h has stored comes before its later accesses: no VP's stores are apart any longer (R58, R158; log 70). -/
def ordered (s : State) (h : HartId) : State :=
  if ∃ p ∈ s.vbuf, p.2.hart = h then
    ({ s with vbuf := s.vbuf.map fun (p : Nat × Unperformed) => (p.1, if p.2.hart = h then { p.2 with vp := none } else p.2) }).onLive h fun l => { l with vfence := true }
  else s
/-- R98: bytes and extension. -/
def loadOps : List ((GReg → GReg → Imm13 → Instr) × Nat × Bool) :=
  [(.ldb, 1, true), (.ldbu, 1, false), (.ldh, 2, true), (.ldhu, 2, false), (.ldw, 4, true), (.ldwu, 4, false), (.ldd, 8, false)]
def storeOps : List ((GReg → GReg → Imm13 → Instr) × Nat) := [(.stb, 1), (.sth, 2), (.stw, 4), (.std, 8)]
def extended (signed : Bool) (n v : Nat) : Word := if signed then BitVec.ofInt 64 (sgn (8 * n) v) else BitVec.ofNat 64 v
/-- R102: the new value of n bits, none for a failed `atcas`; `e` is the expected value. -/
def atomicOps : List ((GReg → GReg → GReg → Bool → Bool → Bool → Instr) × (Nat → Nat → Nat → Nat → Option Nat)) :=
  [(.atswap, fun _ _ x _ => some x), (.atadd, fun n old x _ => some ((old + x) % 2 ^ n)),
   (.atand, fun _ old x _ => some (old &&& x)), (.ator, fun _ old x _ => some (old ||| x)), (.atxor, fun _ old x _ => some (old ^^^ x)),
   (.atmax, fun n old x _ => some (if sgn n old < sgn n x then x else old)),
   (.atmin, fun n old x _ => some (if sgn n x < sgn n old then x else old)),
   (.atmaxu, fun _ old x _ => some (if old < x then x else old)), (.atminu, fun _ old x _ => some (if x < old then x else old)),
   (.atcas, fun _ old x e => if old = e then some x else none)]


/-! Steps, traps, events (R76, R77, R205 to R218). -/

/-- s at the start of its step: the model's counters have moved on (log 1, log 61). -/
def ticked (s : State) : State := { s with now := s.now + 1, storeNo := 4096 * (s.now + 1) }
/-- The current hart stands at an instruction boundary and nothing goes before its instruction: it is on the core, its tile
changes no gear and its cluster lets it run (R332), no vector-side fault, stop or event is due, and its vector unit has nothing to do. -/
structure AtBoundary (s : State) : Prop where
  agenda : s.agenda = []
  onCore : (s.hart s.cur.hart).state = .running ∨ ((s.hart s.cur.hart).state = .stopping ∧ (s.hart s.cur.hart).step1 = true)
  moves : Moves s s.cur.hart
  falling : (s.hart s.cur.hart).falling = false
  fault : vDue (s.hart s.cur.hart) = false
  vector : (s.hart s.cur.hart).live.frozen = true ∨ vIdle (s.hart s.cur.hart) = true
  event : dueEvent (s.hart s.cur.hart) = none
/-- Tiles that charge units to function f: they hold a hart of f that is RUNNING or STOPPING, or carry a copy strip of f (R329). -/
def TilesCharged (s : State) (f : Nat) : Nat :=
  if (s.func f).inSlice then
    (((s.harts.filter fun (p : Nat × Hart) => decide (p.2.onCore = true ∧ p.2.func.toNat = f)).map fun (p : Nat × Hart) => p.1 / 8) ++
      ((s.engines.filter fun (p : Nat × Engine) => carries s f p.2).map fun (p : Nat × Engine) => p.1 / 4)).eraseDups.length
  else 0
/-- i, performed by hart h's control thread from u, as a step of the machine whose mover was m: late loads are performed first
(log 70); after it a STEP ends, errors that were overwritten are recorded, and tile time is charged (R206, R219, R329). -/
noncomputable def performs (i : Instr) (h : HartId) (m : Mover) (u : State) : Host.Outcome State Fault Refusal :=
  match exec i { landBefore i ⟨h, .control⟩ u with cur := ⟨h, .control⟩ } with
  | .next t => .next { charge (afterTurn i ⟨h, .control⟩ u t) with cur := m }
  | .fault f => .fault f
  | .refused r => .refused r

/-- Hart x enters its handler (R210): the trap registers are written, g24 to g31 change places with the shadow bank, INH is 1
and PC is TVEC.  A vector-side fault that has not entered its trap waits for this trap's `tret` (R164), and an `sfree` at which
the hart waits has not completed (R187). -/
def entering (y : Hart) (cause : Nat) (tval tpc : Word) (telem : Nat) : Hart := let x := withdraw y; { x with
  c := { x.c with
    st := (((x.c.st.set 7 (BitVec.ofNat 64 cause)).set 8 tval).set 9 tpc).set 17 (BitVec.ofNat 64 telem)
    g := Vector.ofFn fun i : Fin 32 => if h : 24 ≤ i.val then x.c.sh[i.val - 24] else x.c.g[i]
    sh := Vector.ofFn fun i : Fin 8 => x.c.g[24 + i.val]
    inh := true
    pc := x.c.st[6] }
  live := { x.live with wait := .none, vhold := x.live.vhold || vPending y } }
/-- s after hart h has entered its handler.  The tile then compares the gear it has with the one it wants (R293), since the
hart may have waited. -/
def entered (s : State) (h : HartId) (cause : Nat) (tval tpc : Word) (telem : Nat) : State :=
  gearCheck (s.onHart h fun x => entering x cause tval tpc telem) (tileOf h)
/-- Hart h has a handler and is in none. -/
def Handled (s : State) (h : HartId) : Prop := (s.hart h).c.st[6] ≠ 0 ∧ (s.hart h).c.inh = false
/-- Hart x is as a fault that nothing handles leaves it (R209, R210): FAULTED, with its cause, and in its image PC at the
faulting instruction and the trap registers; INH and the banks are as they were. -/
structure FaultedAt (x0 x : Hart) (cause : Nat) (tval tpc : Word) (telem : Nat) : Prop where
  state : x.state = .faulted
  lcause : x.lcause = BitVec.ofNat 8 cause
  nstop : x.nstop = x0.nstop + 1
  pc : x.img.pc = tpc
  tcause : x.img.st[7] = BitVec.ofNat 64 cause
  tval : x.img.st[8] = tval
  tpc : x.img.st[9] = tpc
  telem : x.img.st[17] = BitVec.ofNat 64 telem
  inh : x.img.inh = x0.c.inh
  g : x.img.g = x0.c.g
  sh : x.img.sh = x0.c.sh

/-- The instructions that may stand only in control-thread code, with their C bit (R84, R87, R160): scalar operations, jumps, branches,
loads, stores and atomics and their parcels; fences, status registers, traps, waits and gears; queues, futures and barriers; `sbind`,
`sfree`, `sstat`, copies, `setvl` and its like, fetches; `vldff` and `vstxo`, segments, masks and scales from and to memory, mask
counts, permutations, reductions, scatter atomics, `vqnt`, and the matrix unit. -/
def controlForm : Instr → Option Bool
  | .add _ _ _ | .sub _ _ _ | .and _ _ _ | .or _ _ _ | .xor _ _ _ | .andn _ _ _ | .sll _ _ _ | .srl _ _ _ | .sra _ _ _ | .slt _ _ _
  | .sltu _ _ _ | .min _ _ _ | .max _ _ _ | .minu _ _ _ | .maxu _ _ _ | .mul _ _ _ | .mulh _ _ _ | .mulhu _ _ _ | .mulhsu _ _ _
  | .div _ _ _ | .divu _ _ _ | .rem _ _ _ | .remu _ _ _ | .clz _ _ | .ctz _ _ | .cpop _ _ | .addi _ _ _ | .andi _ _ _ | .ori _ _ _
  | .xori _ _ _ | .slti _ _ _ | .sltiu _ _ _ | .shli _ _ _ | .shri _ _ _ | .srai _ _ _ | .lhi _ _ | .lpc _ _ | .jl _ _ | .jlr _ _ _
  | .beq _ _ _ | .bne _ _ _ | .blt _ _ _ | .bge _ _ _ | .bltu _ _ _ | .bgeu _ _ _ | .ldb _ _ _ | .ldbu _ _ _ | .ldh _ _ _ | .ldhu _ _ _
  | .ldw _ _ _ | .ldwu _ _ _ | .ldd _ _ _ | .stb _ _ _ | .sth _ _ _ | .stw _ _ _ | .std _ _ _ | .atswap _ _ _ _ _ _ | .atadd _ _ _ _ _ _
  | .atand _ _ _ _ _ _ | .ator _ _ _ _ _ _ | .atxor _ _ _ _ _ _ | .atmax _ _ _ _ _ _ | .atmin _ _ _ _ _ _ | .atmaxu _ _ _ _ _ _
  | .atminu _ _ _ _ _ _ | .atcas _ _ _ _ _ _ | .fencesv _ | .fencevs _ | .fencevv _ | .fenceall _ | .tfence | .getst _ _ | .setst _ _
  | .trap _ | .tret | .exit | .wait _ | .gear _ | .qrecv _ | .spawn _ _ _ | .tget _ _ | .fjoin _ _ | .fres _ | .fpoll _ _ | .bara _
  | .barx _ _ | .barw _ | .sbind _ _ | .sfree _ | .sstat _ _ | .scopy _ _ _ | .scopyb _ _ _ | .setvl _ _ _ | .setvlg _ _ _
  | .setvlr _ _ _ | .vfetch _ | .vfetchr _ | .cAddi _ _ | .cLi _ _ | .cMv _ _ | .cAdd _ _ | .cSub _ _ | .cAnd _ _ | .cShli _ _
  | .cLdd _ _ | .cStd _ _ | .cBeqz _ _ | .cBnez _ _ | .cJ _ | .cJlr _ _ => some false
  | .vldff _ _ _ c | .vlseg2 _ _ _ c | .vlseg3 _ _ _ c | .vlseg4 _ _ _ c | .vlseg8 _ _ _ c | .mld _ _ c | .kld _ _ c | .vstxo _ _ _ _ c
  | .vsseg2 _ _ _ c | .vsseg3 _ _ _ c | .vsseg4 _ _ _ c | .vsseg8 _ _ _ c | .mst _ _ c | .kst _ _ c | .mshl _ _ _ c | .mpop _ _ c
  | .mfirst _ _ c | .mlast _ _ c | .mtop _ _ c | .vslup _ _ _ _ c | .vsldn _ _ _ _ c | .vrgat _ _ _ _ c | .vscat _ _ _ _ c
  | .vcomp _ _ _ c | .vcapp _ _ _ c | .vredsum _ _ _ _ c | .vredmax _ _ _ _ c | .vredmin _ _ _ _ c | .vfredsum _ _ _ _ c | .vid _ _ c
  | .viota _ _ _ c | .vmvsg _ _ _ c | .vmvgs _ _ _ c | .vbcast _ _ _ c | .vfredmax _ _ _ _ c | .vxadd _ _ _ _ c | .vxfadd _ _ _ _ c
  | .vxmax _ _ _ _ c | .vxmin _ _ _ _ c | .vxand _ _ _ _ c | .vxorAtomic _ _ _ _ c | .vxmaxu _ _ _ _ c | .vxminu _ _ _ _ c
  | .vqnt _ _ _ c | .mma _ _ _ _ _ _ _ _ c | .mzero _ c | .mrow _ _ _ _ _ c | .mstr _ _ _ _ _ _ c | .mstx _ _ _ _ _ _ c => some c
  | _ => none
/-- A stream that reaches a convoy stands at its first member. -/
def inConvoy (s : State) (c : Bool) : State :=
  if c = true ∧ s.cur.thread = .stream then s.onCtx s.me fun x => { x with convoy := (s.hart s.me).c.vpc } else s

/-! Status registers (R205). -/

/-- What `getst` reads as status register i. -/
def stValue (s : State) (h : HartId) (i : Nat) : Word :=
  let c := (s.hart h).c
  let w := s.slotWord h
  match i with
  | 5 => BitVec.ofNat 64 (c.st[5].toNat % 2 + if (s.tile (tileOf h)).gcur then 256 else 0)
  | 12 => BitVec.ofNat 64 (h.val / 1024 * 8192 + h.val / 8 % 128 * 8 + h.val % 8)
  | 13 => s.cycle (tileOf h)
  | 14 => s.tick
  | 15 => BitVec.ofNat 64 (slotN w + 16 * slotF w + 256 * (4 * slotN w)
      + 65536 * (if vtIll c.vt then 0 else min 4096 (4 * slotN w * 256 * vtG c.vt / fmtWidth (vtEw c.vt))))
  | n => if h : n < 18 then c.st[n] else 0
/-- VLMAX under the VT in force (R106). -/
def vlmaxOf (s : State) (h : HartId) (vt : Nat) : Nat := min 4096 (4 * slotN (s.slotWord h) * 256 * vtG vt / fmtWidth (vtEw vt))

/-- A hart of tile t asks for a gear: it is RUNNING and waits in no `barw` or `tget` (R291, R292). -/
def Asks (s : State) (h : HartId) : Prop :=
  (s.hart h).state = .running ∧ (∀ g a k m, (s.hart h).live.wait ≠ .barw g a k m) ∧
    (∀ q o, (s.hart h).live.wait ≠ .tget q o) ∧ ∀ va p, (s.hart h).live.wait ≠ .outside va p true
/-- The gear that tile t wants: near where every hart that asks has REQ = 1 (R292). -/
def WantsNear (s : State) (t : TileId) : Prop := ∀ i : Fin 8, Asks s (hartOf t i) → (s.hart (hartOf t i)).c.st[5].toNat % 2 = 1

/-! Vector instructions (R105 to R116, R123, R124, R344). -/

/-- Lanes that the hart holds. -/
def lanesOf (s : State) (h : HartId) : Nat := 4 * slotN (s.slotWord h)
/-- Element i of a group of width w that starts at register d, in L lanes (R344). -/
def element (v : Vector (BitVec 8192) 32) (L d w i : Nat) : Nat :=
  let p := L * 256 / w
  (v[(d + i / p) % 32]).toNat / 2 ^ (i % L * 256 + i % p / L * w) % 2 ^ w
/-- The registers of a group of elements of width w2 where VT has elements of width w and G registers (R106). -/
def groupRegs (vt w2 : Nat) : Nat := max 1 (vtG vt * w2 / fmtWidth (vtEw vt))
/-- EW and EW2 of VT and their widths, VL, VSI, RMODE. -/
def fmtOf (s : State) : Nat := vtEw (s.hart s.me).c.vt
def fmt2Of (s : State) : Nat := vtEw2 (s.hart s.me).c.vt
def wOf (s : State) : Nat := fmtWidth (fmtOf s)
def w2Of (s : State) : Nat := fmtWidth (fmt2Of s)
def vlOf (s : State) : Nat := (s.hart s.me).c.st[0].toNat
def vsiOf (s : State) : Nat := (s.hart s.me).c.st[2].toNat
def fixMode (s : State) : Nat := (s.hart s.me).c.st[3].toNat % 4
def fpMode (s : State) : Nat := (s.hart s.me).c.st[3].toNat / 4 % 8
def regsOf (s : State) (w : Nat) : Nat := groupRegs (s.hart s.me).c.vt w
/-- Element i of the group at r, of width w. -/
def vel (s : State) (r : VReg) (w i : Nat) : Nat := element (s.hart s.me).live.v (lanesOf s s.me) r.val w i
/-- Bit i of mask register k, and whether a mask operand lets element i be active (R79). -/
def mbitOf (s : State) (k : MReg) (i : Nat) : Bool := (s.hart s.me).c.m[k].getLsbD i
def lets (s : State) (m : Option MReg) (i : Nat) : Bool := match m with | some k => mbitOf s k i | none => true
/-- The elements an instruction acts on: from VSI to VL, where the mask lets them (R111, R115). -/
def acts (s : State) (m : Option MReg) (i : Nat) : Bool := decide (vsiOf s ≤ i) && decide (i < vlOf s) && lets s m i

/-- s, where the vector instruction being performed is the store of its number (R285; log 61). -/
def numbered (s : State) : State := { s with storeNo := 4096 * s.now + 1 }
/-- The same while its stores are performed: they are one store, from its first to its last. -/
def storing (s : State) : State := (numbered s).onLive s.me fun l => { l with vstore := 4096 * s.now + 1 }
/-- A control thread's vector instruction meets nothing in its way: VT is a type, VL is within it, the hart holds its home
groups, its vector unit is free and has nothing deferred (log 8), no register is bound to a ray or holds poison, and no
stores of its VPs are still apart (log 70). -/
structure Ready (s : State) : Prop where
  control : InControl s
  type : (s.hart s.me).c.vt < 4096 ∧ vtIllegal (s.hart s.me).c.vt = false
  rmode : (s.hart s.me).c.st[3].toNat < 20
  vl : vlOf s ≤ vlmaxOf s s.me (s.hart s.me).c.vt
  lanes : slotN (s.slotWord s.me) = 1 ∨ slotN (s.slotWord s.me) = 2 ∨ slotN (s.slotWord s.me) = 4 ∨ slotN (s.slotWord s.me) = 8
  loan : homeOnLoan s s.me = false
  idle : vIdle (s.hart s.me) = true ∧ (s.hart s.me).live.frozen = false ∧ (s.hart s.me).defer = false
  rays : ∀ r : Fin 8, (s.hart s.me).c.rays[r][0].toNat % 2 = 0
  vPois : ∀ j : Fin 32, (s.hart s.me).live.vPois[j] = 0
  mPois : ∀ j : Fin 8, (s.hart s.me).c.mPois[j] = 0
  kPois : ∀ j : Fin 8, (s.hart s.me).c.kPois[j] = 0
  whole : (s.hart s.me).live.vstore = 0
  joined : ∀ p ∈ s.vbuf, p.2.hart = s.me → p.2.vp = none

/-- R224: the smallest count of groups that gives `avl` elements of type t, or 8, within the home run and the partition. -/
def Wanted (w : Word) (t avl n : Nat) : Prop :=
  let fits (k : Nat) : Prop := avl ≤ min 4096 (4 * k * 256 * vtG t / fmtWidth (vtEw t))
  ∃ k, k ∈ ([1, 2, 4, 8] : List Nat) ∧ (k = 8 ∨ fits k) ∧ (∀ j, j ∈ ([1, 2, 4, 8] : List Nat) → j < k → ¬ fits j) ∧
    n = max (slotHN w) (min k (slotPN w))
/-- R223, R224: every group of the aligned run of n groups about the home run is a home group, or lendable, or held and not
recalled. -/
def Grantable (s : State) (h : HartId) (n : Nat) : Prop :=
  let w := s.slotWord h
  ∀ g, slotHF w / n * n ≤ g → g < slotHF w / n * n + n →
    (slotHF w ≤ g ∧ g < slotHF w + slotHN w) ∨ lendable s (tileOf h) (slotOf h) g = true ∨
      (holderOf (s.tile (tileOf h)) g = (slotOf h).val ∧ recalledFrom s (tileOf h) (slotOf h) g = false)
/-- R224: instruction i of the hart that moves renegotiates for `avl` elements of type t.  The hart then holds the aligned run of n groups about
its home run and no other group: n is the wanted count, halved until every group of the run is to be had, and the home run at
the least.  Every vector, mask, scale and accumulator register is zero, with no tags and marks. -/
def Renegotiates (s : State) (i : Instr) (d : GReg) (avl t : Nat) : Prop :=
  let h := s.me
  let w := s.slotWord h
  ∃ (want n : Nat) (u : State), Wanted w t avl want ∧ n ∈ ([1, 2, 4, 8] : List Nat) ∧ slotHN w ≤ n ∧ n ≤ want ∧
    (n = slotHN w ∨ Grantable s h n) ∧ (∀ m, m ∈ ([1, 2, 4, 8] : List Nat) → n < m → m ≤ want → ¬ Grantable s h m) ∧
    slotN (u.slotWord h) = n ∧ slotF (u.slotWord h) = slotHF w / n * n ∧ slotHN (u.slotWord h) = slotHN w ∧ slotHF (u.slotWord h) = slotHF w ∧
    (∀ g, g < 8 → (holderOf (u.tile (tileOf h)) g = (slotOf h).val ↔ slotHF w / n * n ≤ g ∧ g < slotHF w / n * n + n)) ∧
    (u.hart h).live.v = Vector.replicate 32 0 ∧ (u.hart h).live.acc = Vector.replicate 4 0 ∧
    (u.hart h).c.m = Vector.replicate 8 0 ∧ (u.hart h).c.k = Vector.replicate 8 0 ∧ (u.hart h).c.accst = 0 ∧
    (u.hart h).c.hw = Vector.replicate 32 0 ∧ (u.hart h).c.st[16] = 0 ∧ (u.hart h).c.g = (s.hart h).c.g ∧
    (∀ k, k ≠ h → u.hart k = s.hart k) ∧ u.mem = s.mem ∧
    (let vl := BitVec.ofNat 64 (min avl (min 4096 (4 * n * 256 * vtG t / fmtWidth (vtEw t))))
     exec i s = .next (wrote ((u.setSt h 1 (BitVec.ofNat 64 t)).setSt h 0 vl) d vl 4))

/-- A group of width w may start at register d (R123), and where a group of width w' is read, the two are one group or have no
register in common (R124). -/
def Starts (s : State) (d : VReg) (w : Nat) : Prop := d.val % regsOf s w = 0
def Apart (s : State) (d : VReg) (w : Nat) (a : VReg) (w' : Nat) : Prop :=
  (d = a ∧ w = w') ∨ d.val + regsOf s w ≤ a.val ∨ a.val + regsOf s w' ≤ d.val

/-- The high-water mark of register q of a group of width w (R204). -/
def markAt (L w vl q : Nat) : Nat :=
  let p := L * 256 / w
  ((min p (vl - q * p) + L - 1) / L * w + 7) / 8
/-- s after a vector instruction of the control thread that wrote the n registers from d on, so that the vector registers are v: PC
moved on, VSI is 0, the flags are added, and each of the registers has its mark and its DIRTY bit (R111, R112, R204). -/
def vecDone (s : State) (len flags d n : Nat) (mark : Nat → Nat) (v : Vector (BitVec 8192) 32) : State :=
  (numbered s).onHart s.me fun x => { x with
    c := { x.c with
      pc := x.c.pc + BitVec.ofNat 64 len
      st := ((x.c.st.set 4 (x.c.st[4] ||| BitVec.ofNat 64 flags)).set 2 0).set 16 (x.c.st[16] ||| BitVec.ofNat 64 ((2 ^ n - 1) * 2 ^ d))
      hw := Vector.ofFn fun j : Fin 32 => if d ≤ j.val ∧ j.val < d + n then BitVec.ofNat 16 (mark j.val) else x.c.hw[j] }
    live := { x.live with v := v, wait := .none } }
/-- The registers outside the n from d on, and the bits above the hart's lanes of all, are what they were. -/
structure Kept (s : State) (v : Vector (BitVec 8192) 32) (d n : Nat) : Prop where
  others : ∀ j : Fin 32, j.val < d ∨ d + n ≤ j.val → v[j] = (s.hart s.me).live.v[j]
  beyond : ∀ j : Fin 32, v[j].toNat / 2 ^ (256 * lanesOf s s.me) = (s.hart s.me).live.v[j].toNat / 2 ^ (256 * lanesOf s s.me)
/-- What the group of n registers at d, of width w, is afterwards: elements below VL are `new` where it gives a value and unchanged
elsewhere, and elements from VL to the end of the registers are zero (R111). -/
def GroupAfter (s : State) (v : Vector (BitVec 8192) 32) (d w n : Nat) (new : Nat → Option Nat) : Prop :=
  ∀ i, i < n * (lanesOf s s.me * 256 / w) → element v (lanesOf s s.me) d w i =
    if vlOf s ≤ i then 0 else (new i).getD (element (s.hart s.me).live.v (lanesOf s s.me) d w i)
/-- Instruction i writes the group of width w at d, in n registers: element k with `new k`; and it raises `flags`. -/
def WritesRegs (s : State) (i : Instr) (d : VReg) (w n : Nat) (new : Nat → Option Nat) (flags : Nat) : Prop :=
  ∃ v, exec i s = .next (vecDone s (instrLen i) flags d.val n (fun j => markAt (lanesOf s s.me) w (vlOf s) (j - d.val)) v) ∧
    GroupAfter s v d.val w n new ∧ Kept s v d.val n
def Writes (s : State) (i : Instr) (d : VReg) (w : Nat) (new : Nat → Option Nat) (flags : Nat) : Prop :=
  WritesRegs s i d w (regsOf s w) new flags
/-- Of the elements that an instruction acts on, the results; and the flags of all of them together (R37). -/
def results (s : State) (m : Option MReg) (f : Nat → Nat) : Nat → Option Nat := fun i => if acts s m i then some (f i) else none
def flagsOf (s : State) (m : Option MReg) (f : Nat → Nat) : Nat :=
  (List.range (vlOf s)).foldl (fun a i => if acts s m i then a ||| f i else a) 0

/-- s after a vector instruction that wrote mask register d. -/
def maskDone (s : State) (len flags : Nat) (d : MReg) (x : BitVec 4096) : State :=
  (numbered s).onHart s.me fun y => { y with
    c := { y.c with
      pc := y.c.pc + BitVec.ofNat 64 len
      st := (y.c.st.set 4 (y.c.st[4] ||| BitVec.ofNat 64 flags)).set 2 0
      m := y.c.m.set d x }
    live := { y.live with wait := .none } }
/-- Instruction i writes mask register d: bits below VL are `new` where it gives one and unchanged elsewhere, bits from VL on are
zero (R123). -/
def WritesMask (s : State) (i : Instr) (d : MReg) (new : Nat → Option Bool) (flags : Nat) : Prop :=
  ∃ x, exec i s = .next (maskDone s 4 flags d x) ∧
    ∀ k, k < 4096 → x.getLsbD k = if vlOf s ≤ k then false else (new k).getD (mbitOf s d k)
def maskResults (s : State) (m : Option MReg) (f : Nat → Bool) : Nat → Option Bool := fun i => if acts s m i then some (f i) else none

/-! Results of elements, from patterns of w bits (R127 to R134). -/

/-- R127: first the instruction of two groups, then those with a scalar and with an immediate; whether the immediate is extended
with its sign; and the exact result, whose low w bits the element takes. -/
structure IntForm where
  vv : VReg → VReg → VReg → Option MReg → Bool → Instr
  vx : VReg → VReg → GReg → Option MReg → Bool → Instr
  vi : VReg → VReg → Imm5 → Option MReg → Bool → Instr
  signed : Bool
  f : Nat → Nat → Nat → Int
noncomputable def intForms1 : List IntForm :=
  [⟨.vaddVv, .vaddVx, .vaddVi, true, fun _ a b => (a : Int) + b⟩,
   ⟨.vsubVv, .vsubVx, .vsubVi, true, fun _ a b => (a : Int) - b⟩,
   ⟨.vrsubVv, .vrsubVx, .vrsubVi, true, fun _ a b => (b : Int) - a⟩,
   ⟨.vandVv, .vandVx, .vandVi, true, fun _ a b => (a &&& b : Nat)⟩,
   ⟨.vorVv, .vorVx, .vorVi, true, fun _ a b => (a ||| b : Nat)⟩,
   ⟨.vxorVv, .vxorVx, .vxorVi, true, fun _ a b => (a ^^^ b : Nat)⟩,
   ⟨.vsllVv, .vsllVx, .vsllVi, false, fun w a b => (a : Int) * 2 ^ (b % w)⟩,
   ⟨.vsrlVv, .vsrlVx, .vsrlVi, false, fun w a b => (a : Int) / 2 ^ (b % w)⟩]
noncomputable def intForms2 : List IntForm :=
  [⟨.vsraVv, .vsraVx, .vsraVi, false, fun w a b => sgn w a / 2 ^ (b % w)⟩,
   ⟨.vminVv, .vminVx, .vminVi, true, fun w a b => min (sgn w a) (sgn w b)⟩,
   ⟨.vmaxVv, .vmaxVx, .vmaxVi, true, fun w a b => max (sgn w a) (sgn w b)⟩,
   ⟨.vminuVv, .vminuVx, .vminuVi, false, fun _ a b => (min a b : Nat)⟩,
   ⟨.vmaxuVv, .vmaxuVx, .vmaxuVi, false, fun _ a b => (max a b : Nat)⟩,
   ⟨.vmulVv, .vmulVx, .vmulVi, true, fun _ a b => (a : Int) * b⟩,
   ⟨.vmulhVv, .vmulhVx, .vmulhVi, true, fun w a b => sgn w a * sgn w b / 2 ^ w⟩]
noncomputable def intForms : List IntForm := intForms1 ++ intForms2
/-- Those of the integer ALU, and of the multiplier (R84). -/
noncomputable def aluForms : List IntForm := intForms1 ++ intForms2.take 5
noncomputable def mulForms : List IntForm := intForms2.drop 5

/-- R129: results in [lo, hi], with SAT raised where the exact one is outside; n bits, signed or not. -/
def saturated (signed : Bool) (n : Nat) (x : Int) : Nat × Nat :=
  let lo : Int := if signed then -(2 ^ (n - 1)) else 0
  let hi : Int := if signed then 2 ^ (n - 1) - 1 else 2 ^ n - 1
  if x < lo then (wrapTo n lo, 1) else if hi < x then (wrapTo n hi, 1) else (wrapTo n x, 0)
/-- R38: x / 2^s rounded by the fixed-point mode: up at the half, to even at the half, down, and to odd. -/
def Rounded (x : Int) (s mode : Nat) (y : Int) : Prop :=
  match mode with
  | 0 => y = (x + 2 ^ s / 2) / 2 ^ s
  | 1 => 2 * (y * 2 ^ s - x).natAbs ≤ 2 ^ s ∧ (2 * (y * 2 ^ s - x).natAbs = 2 ^ s → y % 2 = 0)
  | 2 => y = x / 2 ^ s
  | _ => if x % 2 ^ s = 0 then y * 2 ^ s = x else y % 2 = 1 ∧ (y * 2 ^ s - x).natAbs < 2 ^ s

/-! Floating point, permutes, reductions, the matrix unit. -/

/-- The elements below VL that the mask lets take part, where VSI is ignored (R142). -/
def acts0 (s : State) (m : Option MReg) (i : Nat) : Bool := decide (i < vlOf s) && lets s m i
/-- They in ascending order. -/
def actList (s : State) (m : Option MReg) : List Nat := (List.range (vlOf s)).filter (acts0 s m)
def results0 (s : State) (m : Option MReg) (f : Nat → Option Nat) : Nat → Option Nat := fun i => if acts0 s m i then f i else none
/-- Element 0 of the group at d becomes r, and every other element of the group's registers zero (R146). -/
def Reduces (s : State) (i : Instr) (d : VReg) (r flags : Nat) : Prop :=
  let w := wOf s
  let n := regsOf s w
  let L := lanesOf s s.me
  ∃ v, exec i s = .next (vecDone s 4 flags d.val n (fun j => markAt L w (max 1 (vlOf s)) (j - d.val)) v) ∧
    (∀ k, k < n * (L * 256 / w) → element v L d.val w k = if k = 0 then r else 0) ∧ Kept s v d.val n
/-- A fold with flags, over the elements that take part. -/
def foldFlags (f : Nat → Nat → Nat × Nat) (z : Nat) (xs : List Nat) : Nat × Nat :=
  xs.foldl (fun a x => ((f a.1 x).1, a.2 ||| (f a.1 x).2)) (z, 0)

/-- R26: the value of a finite code of a floating-point format. -/
noncomputable def valueOf : FV → ℝ
  | .fin neg m e _ => (if neg then -1 else 1) * (m : ℝ) * (2 : ℝ) ^ e
  | _ => 0
def FinCode (f c : Nat) : Prop := c < 2 ^ fpWidth f ∧ ∃ n m e, decodeFP f c = .fin n m e false
noncomputable def codeVal (f c : Nat) : ℝ := valueOf (decodeFP f c)
/-- The sign bit of a code. -/
def negCode (f c : Nat) : Bool := c / 2 ^ (fpWidth f - 1) % 2 == 1
/-- Half a unit above the largest finite value: from there on a rounding to the nearest goes to infinity (IEEE 754-2019). -/
noncomputable def roundLimit (f : Nat) : ℝ := (maxUnits f + 1 / 2 : ℝ) * (2 : ℝ) ^ (maxExp f - fracBits f)
/-- R28, R35, IEEE 754-2019: code c is x, which is not zero, rounded by the mode: RNE, RTZ, RDN, RUP, RMM. -/
def RoundsTo (f mode : Nat) (x : ℝ) (c : Nat) : Prop :=
  let v := codeVal f
  let inf (n : Bool) : Prop := decodeFP f c = .inf n
  let nearest (tie : Nat → Prop) : Prop :=
    if |x| < roundLimit f then FinCode f c ∧ ∀ z, FinCode f z → |v c - x| ≤ |v z - x| ∧ (|v c - x| = |v z - x| → v z = v c ∨ tie z)
    else inf (decide (x < 0))
  c < 2 ^ fpWidth f ∧ (negCode f c = true ↔ x < 0) ∧
  match mode with
  | 0 => nearest fun _ => c % 2 = 0
  | 1 => FinCode f c ∧ |v c| ≤ |x| ∧ ∀ z, FinCode f z → |v z| ≤ |x| → |v z| ≤ |v c|
  | 2 => (FinCode f c ∧ v c ≤ x ∧ ∀ z, FinCode f z → v z ≤ x → v z ≤ v c) ∨ (inf true ∧ ∀ z, FinCode f z → x < v z)
  | 3 => (FinCode f c ∧ x ≤ v c ∧ ∀ z, FinCode f z → x ≤ v z → v c ≤ v z) ∨ (inf false ∧ ∀ z, FinCode f z → v z < x)
  | _ => nearest fun z => |v z| ≤ |v c|
/-- A result is x rounded, with its flags (R28, R36): NX where it is not x; OF where it is infinite, or x reaches the power of two
above the largest finite value; UF only where it is inexact and x is below the smallest normal value, and there surely where x,
rounded to the format's digits, stays below. -/
def Rounds (f mode : Nat) (x : ℝ) (r : Nat × Nat) : Prop :=
  RoundsTo f mode x r.1 ∧
  (r.2.testBit 1 = true ↔ ¬ (FinCode f r.1 ∧ codeVal f r.1 = x)) ∧
  (r.2.testBit 3 = true ↔ (∃ n, decodeFP f r.1 = .inf n) ∨ (2 : ℝ) ^ (maxExp f + 1) ≤ |x|) ∧
  (r.2.testBit 2 = true → r.2.testBit 1 = true ∧ |x| < (2 : ℝ) ^ (1 - expBias f)) ∧
  (r.2.testBit 1 = true → |x| ≤ (2 : ℝ) ^ (1 - expBias f) - (2 : ℝ) ^ (-expBias f - fracBits f) → r.2.testBit 2 = true) ∧
  ∀ i, r.2.testBit i = true → i = 1 ∨ i = 2 ∨ i = 3

/-- Element (m, n) of accumulator t, for L lanes (R168). -/
def accOf (acc : Vector (BitVec 262144) 4) (L : Nat) (t : AReg) (m n : Nat) : Nat := acc[t].toNat / 2 ^ (32 * (m * L * 8 + n)) % 2 ^ 32
/-- The tag of accumulator t: true I32 (R169). -/
def tagOf (s : State) (t : AReg) : Bool := (s.hart s.me).c.accst.toNat / 2 ^ (4 + t.val) % 2 == 1
/-- ACCST with ADIRTY[t] set and tag[t] as given (R169). -/
def accstWith (x : Word) (t : AReg) (i32 : Bool) : Word :=
  let y := x ||| BitVec.ofNat 64 (2 ^ t.val)
  if i32 then y ||| BitVec.ofNat 64 (2 ^ (4 + t.val)) else y &&& ~~~(BitVec.ofNat 64 (2 ^ (4 + t.val)))

/-- R170 to R176, R42: instruction i, an `mma` into accumulator t with B in the registers from b on, ends as `next` does, but that
accumulator element (m, n) for m below M and n below VL is the sum of the products A[m, k] × B[k, n], rounded once, added to
the old value where it accumulates; the others are unchanged.  A[m, k] is the pattern `A m k`, with index `idx m k` among the scales
of register `a`. -/
def Multiplies (s next : State) (i : Instr) (t : AReg) (b : VReg) (a : Nat) (i32 accum : Bool) (M : Nat) (A idx : Nat → Nat → Nat) : Prop :=
  let G := vtG (s.hart s.me).c.vt
  let w := wOf s
  let u := w2Of s
  let L := lanesOf s s.me
  let block := vtBlock (s.hart s.me).c.vt
  let B (k n : Nat) : Nat := element (s.hart s.me).live.v L (b.val + k) u n
  let value (f r j x : Nat) : FV := if block ≠ 0 ∧ 10 ≤ f ∧ f ≤ 13
    then scaled (decodeFP f x) (((s.hart s.me).c.k[r / 4 % 8]!).toNat / 2 ^ (8 * (j / (8 * 2 ^ block))) % 256) else decodeFP f x
  let old (m n : Nat) : Nat := accOf (s.hart s.me).live.acc L t m n
  let r (m n : Nat) : Nat × Nat := mmaElem i32
    (if i32 then [] else (List.range G).map fun k => (value (fmtOf s) a (idx m k) (A m k), value (fmt2Of s) b.val (k * L * 8 + n) (B k n)))
    ((List.range G).map fun k => (sgn w (A m k), sgn u (B k n))) (if accum then some (old m n) else none) 32
  ∃ acc : BitVec 262144,
    exec i s = .next ((numbered next).onHart s.me fun x => { x with
      c := { x.c with
        pc := x.c.pc + 8
        st := x.c.st.set 4 (x.c.st[4] ||| BitVec.ofNat 64 ((List.range M).foldl (fun f m => (List.range (vlOf s)).foldl (fun f n => f ||| (r m n).2) f) 0))
        accst := accstWith x.c.accst t i32 }
      live := { x.live with acc := x.live.acc.set t acc, wait := .none } }) ∧
    ∀ m n, m < 32 → n < L * 8 → acc.toNat / 2 ^ (32 * (m * L * 8 + n)) % 2 ^ 32 = if m < M ∧ n < vlOf s then (r m n).1 % 2 ^ 32 else old m n
/-- R172: the address of A[m, k] in memory, from the base p and the word q of the pair. -/
def pairVa (w : Nat) (tr : Bool) (p q : Word) (m k : Nat) : Nat :=
  let row := if tr then k else m
  let j := if tr then m else k
  let x := (p.toNat + row * (q.toNat % 2 ^ 20) + j * w / 8) % 2 ^ 64
  let bank := x / 64 % 32
  x - 64 * bank + 64 * (bank ^^^ (q.toNat / 2 ^ 40 % 8 * row % 32))

/-! Vector memory (R113 to R122). -/

/-- An access of the hart's V agent that meets nothing in its way and finds A, and for a store D, set (R303); the arena's backing
is aligned as R304 has it. -/
structure VPlain (s : State) (acc : Acc) (va n : Nat) (x : Xl) : Prop where
  plain : Plain s (whoV s s.me) acc va n x
  marked : touch s x (acc != .load) = s
  backing : s.hub.aback.toNat % 0x4000 = 0
/-- The bytes of an element of width w, and the place of a smaller one in its byte (R24, R113). -/
def bytesOf (w : Nat) : Nat := max 1 (w / 8)
def subOf (w i : Nat) : Nat := if w < 8 then i * w % 8 else 0
/-- Element i, as memory at pa holds it. -/
def memElemAt (s : State) (w i pa : Nat) : Nat := memRead s.mem pa (bytesOf w) / 2 ^ subOf w i % 2 ^ w
/-- Element i of width w stored at pa with the value v. -/
def storedElem (w i pa v : Nat) (u : State) : State :=
  performed u pa (bytesOf w) (if w < 8 then putBits (memRead u.mem pa 1) (subOf w i + w - 1) (subOf w i) v else v % 256 ^ bytesOf w)
/-- Addresses of element i: unit-stride, strided, indexed by element i of the group at b of width EW2 (R117). -/
def unitVa (s : State) (a : GReg) (i : Nat) : Nat := ((gr s a).toNat + i * wOf s / 8) % 2 ^ 64
def strideVa (s : State) (a b : GReg) (i : Nat) : Nat := (gr s a + BitVec.ofNat 64 i * gr s b).toNat
def indexVa (s : State) (a : GReg) (b : VReg) (i : Nat) : Nat := ((gr s a).toNat + vel s b (w2Of s) i) % 2 ^ 64
def segVa (s : State) (a : GReg) (nf i f : Nat) : Nat := ((gr s a).toNat + (i * nf + f) * wOf s / 8) % 2 ^ 64
/-- The elements that an instruction acts on, ascending. -/
def actsList (s : State) (m : Option MReg) : List Nat := (List.range (vlOf s)).filter (acts s m)
/-- Instruction i loads the group at d: element k from the memory that `va k` names. -/
def LoadsGroup (s : State) (i : Instr) (d : VReg) (m : Option MReg) (va : Nat → Nat) : Prop :=
  ∀ x : Nat → Xl, (∀ k, acts s m k = true → VPlain s .load (va k) (bytesOf (wOf s)) (x k)) →
    Writes s i d (wOf s) (results s m fun k => memElemAt s (wOf s) k (x k).pa) 0
/-- s after a vector instruction that wrote no register of the hart but VSI and, with `flags`, XFLAGS; its stores carry the
instruction's number (`storing`). -/
def vecPassed (s : State) (flags len : Nat) : State :=
  s.onHart s.me fun x => { x with
    c := { x.c with pc := x.c.pc + BitVec.ofNat 64 len, st := (x.c.st.set 4 (x.c.st[4] ||| BitVec.ofNat 64 flags)).set 2 0 }
    live := { x.live with wait := .none, vstore := 0 } }
/-- Instruction i stores, of the group at d, element k to the memory that `va k` names, in ascending order. -/
def StoresGroup (s : State) (i : Instr) (m : Option MReg) (val va : Nat → Nat) : Prop :=
  ∀ x : Nat → Xl, (∀ k, acts s m k = true → VPlain s .store (va k) (bytesOf (wOf s)) (x k)) →
    exec i s = .next (vecPassed ((actsList s m).foldl (fun u k => storedElem (wOf s) k (x k).pa (val k) u) (storing s)) 0 4)
/-- An index group may start at b, at EW2 (R113). -/
def Indexed (s : State) (b : VReg) : Prop := fmt2Of s ≤ 3 ∧ Starts s b (w2Of s)
/-- Instruction i loads nf fields of each element: field f of element k from the memory that `va k f` names, to the group at
d + f × G (R118). -/
def LoadsFields (s : State) (i : Instr) (d : VReg) (nf : Nat) (m : Option MReg) (va : Nat → Nat → Nat) : Prop :=
  ∀ x : Nat → Nat → Xl, (∀ k f, acts s m k = true → f < nf → VPlain s .load (va k f) (bytesOf (wOf s)) (x k f)) →
    let g := regsOf s (wOf s)
    ∃ v, exec i s = .next (vecDone s 4 0 d.val (nf * g) (fun j => markAt (lanesOf s s.me) (wOf s) (vlOf s) ((j - d.val) % g)) v) ∧
      (∀ f, f < nf → GroupAfter s v (d.val + f * g) (wOf s) g (results s m fun k => memElemAt s (wOf s) k (x k f).pa)) ∧
      Kept s v d.val (nf * g)
def StoresFields (s : State) (i : Instr) (d : VReg) (nf : Nat) (m : Option MReg) (va : Nat → Nat → Nat) : Prop :=
  ∀ x : Nat → Nat → Xl, (∀ k f, acts s m k = true → f < nf → VPlain s .store (va k f) (bytesOf (wOf s)) (x k f)) →
    exec i s = .next (vecPassed ((actsList s m).foldl (fun u k => (List.range nf).foldl (fun u f =>
      storedElem (wOf s) k (x k f).pa (element (s.hart s.me).live.v (lanesOf s s.me) (d.val + f * regsOf s (wOf s)) (wOf s) k) u) u) (storing s)) 0 4)
/-- The naturally aligned pieces of n bytes that a mask or a scale register is moved in: offset and size (R120). -/
def pieceList (n : Nat) : List (Nat × Nat) :=
  (List.range (n / 8)).map (fun i => (8 * i, 8)) ++
  (if n % 8 = 0 then [] else if n % 8 = 1 then [(n / 8 * 8, 1)] else if n % 8 = 2 then [(n / 8 * 8, 2)]
   else if n % 8 = 3 then [(n / 8 * 8, 2), (n / 8 * 8 + 2, 1)] else if n % 8 = 4 then [(n / 8 * 8, 4)]
   else if n % 8 = 5 then [(n / 8 * 8, 4), (n / 8 * 8 + 4, 1)] else if n % 8 = 6 then [(n / 8 * 8, 4), (n / 8 * 8 + 4, 2)]
   else [(n / 8 * 8, 4), (n / 8 * 8 + 4, 2), (n / 8 * 8 + 6, 1)])
/-- The bytes that the pieces name, as one number; and its bytes stored there. -/
def gathered (s : State) (n : Nat) (x : Nat → Xl) : Nat :=
  ((pieceList n).map fun p => memRead s.mem (x p.1).pa p.2 * 2 ^ (8 * p.1)).sum
def scattered (n v : Nat) (x : Nat → Xl) (s : State) : State :=
  (pieceList n).foldl (fun u p => performed u (x p.1).pa p.2 (v / 2 ^ (8 * p.1) % 2 ^ (8 * p.2))) s
/-- Every piece of the n bytes at va meets nothing in its way. -/
def PlainPieces (s : State) (acc : Acc) (va n : Nat) (x : Nat → Xl) : Prop :=
  ∀ p ∈ pieceList n, VPlain s acc ((va + p.1) % 2 ^ 64) p.2 (x p.1)

/-! Futures, barriers, tasks (R227 to R251). -/

/-- An access by w that meets nothing in its way, and finds A, and for a store or an atomic D, set (R303). -/
structure Clear (s : State) (w : Who) (acc : Acc) (va n : Nat) (x : Xl) : Prop where
  plain : Plain s w acc va n x
  marked : touch s x (acc != .load) = s
/-- No lease reset scrubs memory (R243). -/
def Unscrubbed (s : State) : Prop := s.hub.lease.state ≠ 2
/-- s, where the hart's synchronisation instruction has completed: its tile compares gears, since it may have waited (R291). -/
def completed (s : State) : State := gearCheck (passed s 4) (tileOf s.me)
/-- It waits in w at its instruction. -/
def waiting (s : State) (w : Wait) : State := gearCheck (s.setWait s.me w) (tileOf s.me)
/-- STATE of a future word, and its newest link (R227). -/
def futureState (v : Nat) : Nat :=
  if v / 4 % 4 ≠ 0 ∨ v / 2 ^ 56 ≠ 0 ∨ (v / 16 % 2 ^ 52 ≠ 0 ∧ v % 4 ≠ 1) then 3 else v % 4
def newestLink (v : Nat) : Nat := v / 16 % 2 ^ 52 * 16
/-- The count word of a join block after a decrement by a walk with `err`, where it holds a count (R234). -/
def countWord (v : Nat) (err : Bool) : Nat := if err then v ||| 2 ^ 63 else v

/-- A count barrier's word after one arrival (R238): at the last one GEN rises and REMAIN is PARTIES. -/
def arrived (v : Nat) : Nat :=
  if v % 2 ^ 32 ≤ 1 then v / 2 ^ 48 * 2 ^ 48 + (v / 2 ^ 32 + 1) % 2 ^ 16 * 2 ^ 32 + v / 2 ^ 50 % 2 ^ 13 else v - 1
/-- A stage barrier's word after n is added (R239). -/
def announced (v : Nat) (n : Int) : Nat :=
  let x := sgn 32 (v % 2 ^ 32) + n
  v / 2 ^ 33 * 2 ^ 33 + (if x < 0 ∨ 2 ^ 31 ≤ x ∨ v / 2 ^ 32 % 2 = 1 then 2 ^ 32 else 0)
    + wrapTo 32 (if 2 ^ 31 ≤ x then 2 ^ 31 - 1 else if x < -(2 ^ 31) then -(2 ^ 31) else x)
/-- The hart's arrival record (R237). -/
def recorded (s : State) (b : Word) (gen : Nat) : State :=
  s.onHart s.me fun x => { x with c := { x.c with arraddr := b, arrgen := BitVec.ofNat 64 (gen + 2 ^ 16) } }
/-- A `barw` returns at the release of the count barrier v: ARRV is 0, and RGEAR of 1 or 2 sets GEAR.REQ (R240, R242). -/
def released (s : State) (v : Nat) : State :=
  s.onHart s.me fun x => { x with c := { x.c with
    arrgen := BitVec.ofNat 64 (x.c.arrgen.toNat % 2 ^ 16)
    st := if v / 2 ^ 48 % 4 = 1 ∨ v / 2 ^ 48 % 4 = 2 then x.c.st.set 5 (BitVec.ofNat 64 (v / 2 ^ 48 % 4 - 1)) else x.c.st } }
/-- The generation whose end a `barw` at b waits for (R240). -/
def awaited (s : State) (b : Word) (v : Nat) : Nat :=
  let c := (s.hart s.me).c
  if c.arrgen.toNat / 2 ^ 16 % 2 = 1 ∧ c.arraddr = b then c.arrgen.toNat % 2 ^ 16 else v / 2 ^ 32 % 2 ^ 16

/-- va is, for w, the address of queue n's page (R248). -/
structure QueuePage (s : State) (w : Who) (va n : Nat) : Prop where
  aligned : va % 0x4000 = 0
  number : n < 65536
  page : ∃ x, xlate s w .load va = .ok x ∧ xlate s w .store va = .ok x ∧ eKind x.leaf = 2 ∧ x.pa = 0x200400000000 + 0x4000 * n ∧ touch s x true = s
/-- The four words at va are t, and a task descriptor (R248). -/
structure TaskAt (s : State) (w : Who) (va : Nat) (t : List Word) : Prop where
  words : ∃ x : Nat → Xl, (∀ i, i < 4 → Clear s w .load (va + 8 * i) 8 (x i)) ∧ t = (List.range 4).map fun i => BitVec.ofNat 64 (memRead s.mem (x i).pa 8)
  entry : t.getD 0 0 ≠ 0 ∧ (t.getD 0 0).toNat % 2 = 0
  flags : (t.getD 3 0).toNat < 32
/-- Queue n holds tasks and is enabled (R245, R248). -/
def TaskQueue (s : State) (n : Nat) : Prop := (s.queue n).w[0].toNat % 8 = 1 ∧ (s.queue n).w[0].toNat / 256 % 2 = 1
/-- HEAD, TAIL and capacity, and how many entries stand in the ring (R245). -/
def headQ (s : State) (n : Nat) : Nat := (s.queue n).w[3].toNat % 2 ^ 32
def tailQ (s : State) (n : Nat) : Nat := (s.queue n).w[4].toNat % 2 ^ 32
def capQ (s : State) (n : Nat) : Nat := 2 ^ ((s.queue n).w[2].toNat % 32)
def countQ (s : State) (n : Nat) : Nat := (tailQ s n + 2 ^ 32 - headQ s n) % 2 ^ 32
/-- The address of entry i, of 32 bytes (R244). -/
def entryQ (s : State) (n i : Nat) : Nat := (s.queue n).w[1].toNat % 2 ^ 48 + i % capQ s n * 32
/-- The entry stands in memory of the module, on no quarantined tile, its line written under the ring's key, with no dirty byte in any
data cache and no store of a V agent that is still to be performed (log 70). -/
structure RingClear (s : State) (n i : Nat) : Prop where
  aligned : (s.queue n).w[1].toNat % 64 = 0
  region : regionOf (entryQ s n i) = some .hbm ∨ regionOf (entryQ s n i) = some .store
  key : regionOf (entryQ s n i) = some .hbm → lineKeyAt s (entryQ s n i) = keyAt s (s.queue n).key
  there : quarantined s (entryQ s n i) = false
  undirtied : s.dcache = []
  unheld : s.vbuf = []
/-- TAIL of queue n has grown: the harts blocked in `tget` on it, or on a queue whose victim it is, are to pass again (R249). -/
def grownTail (s : State) (n : Nat) : State :=
  { s with harts := s.harts.map fun (p : Nat × Hart) => (p.1, match p.2.live.wait with
      | .tget q .quiet => if n = q ∨ n ∈ victims (s.queue q) (p.1 / 8) then { p.2 with live := { p.2.live with wait := .tget q .grown } } else p.2
      | _ => p.2) }
/-- The words t stand in the next entry of queue n, and TAIL advances (R244). -/
def placed (s : State) (n : Nat) (t : List Word) : State :=
  (t.zipIdx.foldl (fun u p => performed u (entryQ s n (tailQ s n) + 8 * p.2) 8 p.1.toNat) s).setQueue n
    { s.queue n with w := (s.queue n).w.set 4 (BitVec.ofNat 64 ((tailQ s n + 1) % 2 ^ 32)) }
/-- The same of a task, which harts may wait for. -/
def appended (s : State) (n : Nat) (t : List Word) : State := grownTail (placed s n t) n
/-- A task that tile `frm` gave to a queue of another tile for a kernel is counted in SENT and RECV (R264). -/
def counted (s : State) (frm : Option TileId) (n : Nat) : State :=
  let k := (s.queue n).w[0].toNat / 65536 % 4096
  let more (l : List (Nat × Nat)) : List (Nat × Nat) := mset l k (mget l k 0 + 1)
  match frm with
  | some f => if (s.queue n).w[0].toNat / 2 ^ 28 % 2 = 1 ∧ f.val ≠ n % 512 then
      (s.onTile f fun x => { x with sent := more x.sent }).onTile (Fin.ofNat 512 n) fun x => { x with recv := more x.recv } else s
  | none => s
/-- The words t in g[D], g[D + 1] and on. -/
def wroteAll (s : State) (d : Fin 32) (t : List Word) : State :=
  s.onHart s.me fun x => { x with c := { x.c with
    g := Vector.ofFn fun i : Fin 32 => if d.val ≤ i.val ∧ i.val < d.val + t.length then t.getD (i.val - d.val) 0 else x.c.g[i] } }
/-- The four words of entry i of queue n. -/
def entryWords (s : State) (n i : Nat) : List Word := (List.range 4).map fun j => BitVec.ofNat 64 (memRead s.mem (entryQ s n i + 8 * j) 8)
/-- The index of the newest entry, and the queue without it. -/
def newestQ (s : State) (n : Nat) : Nat := (tailQ s n + 2 ^ 32 - 1) % 2 ^ 32
def withoutNewest (s : State) (n : Nat) : State :=
  s.setQueue n { s.queue n with w := (s.queue n).w.set 4 (BitVec.ofNat 64 (newestQ s n)) }
/-- A task taken: its words in g[D] on, and GEAR.REQ as it asks (R249, R250). -/
def tookTask (u : State) (d : GReg) (t : List Word) : State :=
  (wroteAll u d t).setSt u.me 5 (BitVec.ofNat 64 ((t.getD 3 0).toNat / 16 % 2))
/-- One pass of `tget` i of s, from u, on queue n of a hart of tile t (R249, R251, R263): the newest task of the queue; with
none, and none of its victims having one, 0 and whether its kernel is closed, or, without NB, a wait, before which what the
hart has stored is performed. -/
def Passes (s u : State) (i : Instr) (d : GReg) (n : Nat) : Prop :=
  let q := u.queue n
  let kernel := q.w[0].toNat / 65536 % 4096
  let halted := q.w[0].toNat / 1024 % 2 = 1
  (countQ u n ≠ 0 → ¬ halted → RingClear u n (newestQ u n) →
    exec i s = .next (completed (tookTask (withoutNewest u n) d (entryWords u n (newestQ u n))))) ∧
  ((countQ u n = 0 ∨ halted) → (∀ v ∈ victims q (tileOf s.me).val, ¬ TaskQueue u v ∨ countQ u v = 0) →
    exec i s = .next (
      if q.w[0].toNat / 2 ^ 28 % 2 = 1 ∧ ((u.kernel kernel).kstate = 4 ∨ (u.kernel kernel).kstate = 5) then completed (wroteAll u d [0, 1])
      else if q.w[0].toNat / 512 % 2 = 1 then completed (wroteAll u d [0, 0])
      else waiting (performHart (sendHome u (tileOf s.me)) s.me) (.tget n .quiet)))

/-! Streams, threaded virtual processors, replies (R148 to R167). -/

/-- The instruction is being performed for the stream of its hart, or for threaded VP i. -/
def InStream (s : State) : Prop := s.cur.thread = .stream
def InVp (s : State) (i : Fin 4096) : Prop := s.cur.thread = .vp i
/-- How many entries stand in the vector queue, and the words of entry k (R166). -/
def queuedN (x : Hart) : Nat := x.c.vqcount.toNat
/-- s, where an entry joins the vector queue; and where the control thread then goes on. -/
def joined (s : State) (e : Vector Word 8) : State :=
  s.onHart s.me fun x => { x with c := { x.c with
    vq := Vector.ofFn fun k : Fin 12 => if k.val = queuedN x then e else x.c.vq[k], vqcount := BitVec.ofNat 64 (queuedN x + 1) } }
def enqueued (s : State) (e : Vector Word 8) : State := passed (joined s e) 4
/-- The entry that issue captures: address, encoding, VT, VL and RMODE, g operands (R150, R166). -/
def captured (s : State) (i : Instr) (g1 g2 : Word) : Vector Word 8 :=
  let c := (s.hart s.me).c
  #v[c.pc, BitVec.ofNat 64 (encode i), c.st[1], BitVec.ofNat 64 (c.st[0].toNat % 8192 + 65536 * (c.st[3].toNat % 32)), g1, g2, 0, 0]
/-- VP i is in the stream, and the open region lets it take part (R149, R154). -/
def takesPart (s : State) (i : Nat) : Bool :=
  let x := s.hart s.me
  x.live.inStream.getLsbD i && (!(x.c.region.toNat / 8 % 2 == 1) || (x.c.m[Fin.ofNat 8 x.c.region.toNat]).getLsbD i)
/-- Those of them whose bit of m is set, ascending. -/
def chosen (s : State) (m : MReg) : List Nat := (List.range 4096).filter fun i => takesPart s i && mbitOf s m i
/-- Neither m nor the mask of the open region holds poison (R219). -/
def MasksClean (x : Hart) (m : MReg) : Prop :=
  x.c.mPois[m] = 0 ∧ (x.c.region.toNat / 8 % 2 = 1 → x.c.mPois[Fin.ofNat 8 x.c.region.toNat] = 0)
/-- The stream goes to pc; reaching the label of the open region, or passing it, closes it (R154). -/
def streamAt (s : State) (pc : Word) : State :=
  s.onHart s.me fun x => { x with c := { x.c with
    vpc := pc, convoy := 0, region := if x.c.region.toNat / 8 % 2 = 1 ∧ x.c.regend.toNat ≤ pc.toNat then 0 else x.c.region } }
/-- VP i of the hart becomes f of what it was. -/
def vpTo (s : State) (i : Fin 4096) (f : TVP → TVP) : State :=
  s.onHart s.me fun x => { x with live := { x.live with tvps := x.live.tvps.map fun t => if t.vp = i then f t else t } }
/-- Entry k of the queue is the one that is current: begun, its stream not done, and none before it is (R166). -/
structure Current (x : Hart) (k : Fin 12) : Prop where
  stands : k.val < x.c.vqcount.toNat ∧ x.c.vqcount.toNat ≤ 12
  begun : x.c.vq[k][7].toNat % 4 = 1
  first : ∀ j : Fin 12, j < k → x.c.vq[j][7].toNat % 4 ≠ 1
/-- Every VP that an earlier fetch threaded has stopped (R158). -/
def Joined (s : State) : Prop := ∀ t ∈ (s.hart s.me).live.tvps, (curEntry (s.hart s.me).c).getD 0 ≤ t.entry
/-- The word of a loop counter, with counter n at v (R155). -/
def counterAt (c : Word) (n : CReg) : Nat := c.toNat / 2 ^ (16 * n.val) % 2 ^ 16
def withCounter (c : Word) (n : CReg) (v : Nat) : Word :=
  BitVec.ofNat 64 (c.toNat - counterAt c n * 2 ^ (16 * n.val) + v % 2 ^ 16 * 2 ^ (16 * n.val))
/-- What a threaded VP remembers of its counters until it leaves the facet (R161). -/
def counterUndo (c : Word) : Undo := ⟨.scale, 0, 0, 64, c.toNat, 0⟩
/-- The hart's unit works: its hart is on the core, it is not frozen and it may move (R293, R332). -/
structure UnitWorks (s : State) (h : HartId) : Prop where
  onCore : (s.hart h).state = .running ∨ (s.hart h).state = .stopping
  thawed : (s.hart h).live.frozen = false
  moves : Moves s h

/-! Rays and copies (R183 to R200). -/

/-- The words of ray r's entry, and of the descriptor it copied (R184, R192). -/
def rayAtWord (s : State) (h : HartId) (r i : Fin 8) : Nat := (s.hart h).c.rays[r][i].toNat
def descWord (s : State) (h : HartId) (r i : Fin 8) : Nat := (s.hart h).live.rdesc[r][i].toNat
/-- Register v is bound to no ray (R183). -/
def Unbound (x : Hart) (v : VReg) : Prop := ∀ r : Fin 8, x.c.rays[r][0].toNat % 2 = 1 → x.c.rays[r][0].toNat / 2 % 32 ≠ v.val
/-- Register v is bound to ray r, and to no other. -/
def BoundTo (x : Hart) (v : VReg) (r : Fin 8) : Prop :=
  ∀ q : Fin 8, (x.c.rays[q][0].toNat % 2 = 1 ∧ x.c.rays[q][0].toNat / 2 % 32 = v.val) ↔ q = r
/-- The 64 bytes at va are the descriptor d, which R186 accepts: its fields are in their ranges, and its landing area lies in the store of
the hart's tile. -/
structure Descriptor (s : State) (va : Nat) (d : Vector Word 8) : Prop where
  aligned : va % 64 = 0
  words : ∀ i : Fin 8, ∃ x, Clear s (whoS s s.me) .load (va + 8 * i.val) 8 x ∧ d[i] = BitVec.ofNat 64 (memRead s.mem x.pa 8)
  count : d[1].toNat % 2 ^ 32 ≠ 0
  zero : d[4].toNat < 2 ^ 24 ∧ d[4].toNat / 8 % 32 = 0 ∧ d[4].toNat / 4096 % 16 = 0 ∧ d[7] = 0
  ew : 8 ≤ fmtWidth (d[4].toNat / 256 % 16) ∧ d[4].toNat / 256 % 16 < 14
  depth : d[4].toNat / 65536 ≠ 0
  mode : d[4].toNat % 4 ≠ 3
  inner : d[4].toNat / 4 % 2 = 1 → d[1].toNat / 2 ^ 32 ≠ 0
  land : d[5].toNat % 64 = 0 ∧ ∀ i, i < 4 * (d[4].toNat / 65536) → ∃ e ea lvl,
    leafFor s (whoS s s.me) .load (d[5].toNat + 64 * i) = some (e, ea, lvl) ∧
    let pa := eFrame e + (d[5].toNat + 64 * i) % leafSize lvl
    regionOf pa = some .store ∧ (pa - 0x100000000000) / 0x200000 = (tileOf s.me).val
/-- A fresh entry for register v: BOUND, the fields of the descriptor, DESC (R192). -/
def boundEntry (v : VReg) (desc : Word) (d : Vector Word 8) : Vector Word 8 :=
  let f := d[4].toNat
  #v[BitVec.ofNat 64 (1 + 2 * v.val + 64 * (f % 2) + 128 * (f / 2 % 2) + 256 * (f / 4 % 2) + 4096 * (f / 256 % 16)), desc, 0, 0, 0, 0, 0, 0]
/-- Register v holds nothing, and is not DIRTY (R183). -/
def emptied (x : Hart) (v : VReg) : Hart := { x with
  c := { x.c with hw := x.c.hw.set v 0, st := x.c.st.set 16 (x.c.st[16] &&& ~~~(BitVec.ofNat 64 (2 ^ v.val))) }
  live := { x.live with v := x.live.v.set v 0, vPois := x.live.vPois.set v 0 } }
/-- The first entry has left the vector queue, no VP being threaded. -/
def shifted (x : Hart) : Hart := { x with c := { x.c with
  vq := Vector.ofFn fun k : Fin 12 => if h : k.val + 1 < 12 then x.c.vq[k.val + 1] else Vector.replicate 8 0
  vqcount := x.c.vqcount - 1 } }
/-- RCTL of ray r becomes f of it. -/
def rctl (x : Hart) (r : Fin 8) (f : Word → Word) : Hart :=
  { x with c := { x.c with rays := x.c.rays.set r (x.c.rays[r].set 0 (f x.c.rays[r][0])) } }
/-- Bits BOUND, LIVE and HELD of RCTL. -/
def rctlEnds : Word := 0x10201
/-- The head of the vector queue is i, not begun, and nothing stands before it. -/
structure AtHead (s : State) (h : HartId) (i : Instr) : Prop where
  works : UnitWorks s h
  first : 1 ≤ (s.hart h).c.vqcount.toNat ∧ (s.hart h).c.vqcount.toNat ≤ 12 ∧ ∀ j : Fin 12, (s.hart h).c.vq[j][7].toNat % 4 = 0
  entry : (s.hart h).c.vq[0][1] = BitVec.ofNat 64 (encode i)
  vps : (s.hart h).live.tvps = []
/-- Bytes of a ray's element, elements its ring holds, and the addresses of element k in a 1-D stream and in the ring (R185). -/
def elemBytes (s : State) (h : HartId) (r : Fin 8) : Nat := fmtWidth (rayAtWord s h r 0 / 4096 % 16) / 8
def ringHolds (s : State) (h : HartId) (r : Fin 8) : Nat := descWord s h r 4 / 65536 % 256 * 256 / elemBytes s h r
def inStreamAt (s : State) (h : HartId) (r : Fin 8) (k : Nat) : Nat := (descWord s h r 0 + k * descWord s h r 2) % 2 ^ 64
def inRingAt (s : State) (h : HartId) (r : Fin 8) (k : Nat) : Nat :=
  descWord s h r 5 + k * elemBytes s h r % (descWord s h r 4 / 65536 % 256 * 256)
/-- POS, HELDN where a strip is held, and ENGPOS. -/
def posOf (s : State) (h : HartId) (r : Fin 8) : Nat := rayAtWord s h r 2 % 2 ^ 32
def heldOf (s : State) (h : HartId) (r : Fin 8) : Nat := if rayAtWord s h r 0 / 65536 % 2 = 1 then rayAtWord s h r 2 / 2 ^ 32 else 0
def engOf (s : State) (h : HartId) (r : Fin 8) : Nat := rayAtWord s h r 3 % 2 ^ 32
/-- Ray r of a hart on the core is live, 1-D, of direction `dir`, with a ring, and without an error. -/
structure Streaming (s : State) (h : HartId) (r : Fin 8) (dir : Nat) : Prop where
  onCore : (s.hart h).state = .running ∨ (s.hart h).state = .stopping
  rctl : rayAtWord s h r 0 % 2 = 1 ∧ rayAtWord s h r 0 / 512 % 2 = 1 ∧ rayAtWord s h r 0 / 64 % 2 = dir ∧ rayAtWord s h r 0 / 2 ^ 24 % 256 = 0
  format : 8 ≤ fmtWidth (rayAtWord s h r 0 / 4096 % 16)
  flat : descWord s h r 4 / 4 % 2 = 0
  ring : descWord s h r 4 / 65536 % 256 ≠ 0
/-- ENGPOS of ray r is k. -/
def engAt (s : State) (h : HartId) (r : Fin 8) (k : Nat) : State :=
  s.onHart h fun x => { x with c := { x.c with rays := x.c.rays.set r (x.c.rays[r].set 3 (BitVec.ofNat 64 k)) } }

/-- Engine e's page records a fault: its cause, its address, and one more (R200). -/
def engineFaulted (s : State) (e cause : Nat) (addr : Word) : State :=
  let x := s.engine e
  s.setEngine e { x with w := ((x.w.set 5 (BitVec.ofNat 64 (cause + 256))).set 6 addr).set 7 (x.w[7] + 1) }

/-- A copy as its fork makes it (R196, R197). -/
def newCopy (s : State) (src dst obj : Word) (n : Nat) (kind : Fin 3) : Copy :=
  { iss := issuer s s.me, tile := tileOf s.me, src := src, dst := dst, len := n, obj := obj, kind := kind
    untaken := (List.range ((n + 4095) / 4096)).map fun i => 4096 * i, kernel := boundKernel s s.me }
/-- Engine e carries the strip of len bytes at off of copy n. -/
def Carries (s : State) (e : EngineId) (n off len : Nat) (c : Copy) : Prop :=
  (s.engine e.val).strip = some (n, off, len) ∧ s.copies.lookup n = some c
/-- Every byte of the strip translates at both ends, to bytes with nothing in their way, all different, the bytes of an aligned word side
by side. -/
structure StripClear (s : State) (c : Copy) (off len : Nat) (x y : Nat → Xl) : Prop where
  src : ∀ i, i < len → Clear s (c.iss.eng c.tile) .load ((c.src.toNat + off + i) % 2 ^ 64) 1 (x i)
  dst : ∀ i, i < len → Clear s (c.iss.eng c.tile) .store ((c.dst.toNat + off + i) % 2 ^ 64) 1 (y i)
  words : ∀ i j, (c.dst.toNat + off + i) % 8 = 0 → j < 8 → i + j < len → (y (i + j)).pa = (y i).pa + j
  apart : ∀ i j, i < len → j < len → (x i).pa ≠ (y j).pa
  distinct : ∀ i j, i < len → j < len → i ≠ j → (y i).pa ≠ (y j).pa

/-! Tangent regions (R270 to R288). -/

/-- The page of the tangent slot that an instruction of the hart names (R270), and whether the hart owns it. -/
def slotOfK (s : State) (k : Fld5) : Nat := 4 * (tileOf s.me).val + k.val % 4
/-- The hart's tile is not quarantined, so its pages are there (R20). -/
def TileThere (s : State) : Prop := (s.tile (tileOf s.me)).quar = false
def Owns (s : State) (n : Nat) : Prop :=
  (s.tslot n).owner.toNat / 256 % 2 = 1 ∧ (s.tslot n).owner.toNat % 8 = (slotOf s.me).val ∧
  (s.tslot n).owner.toNat / 65536 % 32 = (s.hart s.me).func.toNat
/-- A slot as an invalidation leaves it (R275): OFF stays; else FITTING from the initial weights, with no samples and no errors. -/
def resetSlot (k : TSlot) : TSlot :=
  { k with w := k.init, sbcount := 0, sbhead := 0, good := 0, errn := 0, errhead := 0, sampled := 0, runerr := 0
           hist := Vector.replicate 64 0, steps := 0 }
def invalidated (k : TSlot) : TSlot :=
  if k.st = 0 then k else { resetSlot k with st := 1, invals := k.invals + 1, epoch := k.epoch + 1 }
/-- TREG and TEPOCH of the hart (R277). -/
def regionAt (s : State) (treg epoch : Word) : State := s.onHart s.me fun x => { x with c := { x.c with treg := treg, tepoch := epoch } }
/-- TREG as an `apx` of an OFF slot leaves it: open, for slot k, in control-thread code, recording nothing; TSTAGE and TNUM stand. -/
def openedTreg (s : State) (k : Fld5) : Word :=
  let t := (s.hart s.me).c.treg.toNat
  BitVec.ofNat 64 (k.val % 4 + 4 + 65536 * (t / 65536 % 1024) + 2 ^ 32 * (t / 2 ^ 32 % 1024))
/-- The region of the hart is closed. -/
def regionShut (s : State) : State := s.onHart s.me fun x => { x with c := { x.c with treg := x.c.treg &&& ~~~4#64 } }
/-- Element i of the inputs that a slot names, and VIN, VOUT, NIN, NOUT (R271). -/
def inputsOf (s : State) (k : TSlot) (i : Nat) : List Nat :=
  (List.range (k.shape.toNat % 8 + 1)).map fun j =>
    element (s.hart s.me).live.v (lanesOf s s.me) (k.shape.toNat / 2048 % 32 + j * vtG (s.hart s.me).c.vt) 32 i
def voutOf (k : TSlot) : Nat := k.shape.toNat / 65536 % 32
def noutOf (k : TSlot) : Nat := k.shape.toNat / 256 % 4 + 1
def ninOf (k : TSlot) : Nat := k.shape.toNat % 8 + 1
/-- s at the first attempt of an `apx` at slot n: the stores of the hart's VPs are in order with its own (log 70), and the dependency read
has been made, before which what its agents have stored, and what stands dirty in the range, is performed (R64, R286). -/
def depended (s : State) (n : Nat) : State := depRead s.me n (joinV s s.me)
/-- A control thread's `apx` that has not waited for steps, and that skips imm13 parcels, in which the region closes with `apxend` of the same
slot; every VP of earlier fetches has stopped, and every earlier queued instruction has completed (R158, R279). -/
structure OpensRegion (s : State) (k : Fld5) (i : Imm13) : Prop where
  control : InControl s
  owner : Owns s (slotOfK s k)
  there : TileThere s
  shut : (s.hart s.me).c.treg.toNat / 4 % 2 = 0
  ends : (fetchBytes (whoS s s.me) false (pcOf s + BitVec.ofNat 64 (2 * i.toNat) - 4).toNat 4).run.run (joinV s s.me)
    = (.ok (encode (.apxend k)), joinV s s.me)
  joined : vIdle (s.hart s.me) = true
  first : (s.hart s.me).live.wait ≠ .apx
  steps : ((depended s (slotOfK s k)).tslot (slotOfK s k)).steps = 0
/-- The ring of slot n stands in memory of the module (R276), and its samples b are xs: inputs and true outputs. -/
structure Samples (s : State) (k : TSlot) (n : Nat) (xs : List (List Nat × List Nat)) : Prop where
  region : ∀ i, i < 0x10000 → regionOf (k.sbphys.toNat + i) = some .store
  undirtied : s.dcache = []
  values : xs = (List.range n).map fun b =>
    let a := k.sbphys.toNat + 64 * ((k.sbhead + b) % 1024)
    ((List.range 8).map (fun j => memRead s.mem (a + 4 * j) 4), (List.range 4).map (fun j => memRead s.mem (a + 32 + 4 * j) 4))

/-! Contexts, slices, pages (R20, R21, R201 to R208, R219 to R223, R244 to R246, R329 to R332). -/

/-- The hart is not on the core (R201); it may run: its function is in its slice (R331), and, unless it is the root's or secure, its
cluster is in no start-up, test or recovery mode (R332). -/
def Parked (s : State) (h : HartId) : Prop := (s.hart h).state ≠ .running ∧ (s.hart h).state ≠ .stopping
def ClusterFree (s : State) (h : HartId) : Prop :=
  (s.hart h).func ≠ 31 → (s.hart h).world = false → s.hub.cluster.getLsbD (h.val / 64) = false
def MayRun (s : State) (h : HartId) : Prop := (s.func (s.hart h).func.toNat).inSlice = true ∧ ClusterFree s h
/-- SPACE and VSAVE are aligned addresses, the image of RMODE is a mode, and the slot has a home run: RESUME accepts (R206). -/
structure Startable (s : State) (h : HartId) : Prop where
  space : (s.hart h).space.toNat % 0x4000 = 0 ∧ (s.hart h).space.toNat < 2 ^ 48
  vsave : (s.hart h).vsave.toNat % 0x4000 = 0 ∧ (s.hart h).vsave.toNat < 2 ^ 48
  rmode : (s.hart h).img.st[3].toNat / 4 < 5
  groups : (s.slotWord h).toNat % 16 ≠ 0
/-- Hart x goes on from the images of i (R208). -/
structure Restored (i : Ctx) (x : Hart) : Prop where
  pc : x.c.pc = i.pc
  inh : x.c.inh = i.inh
  g : x.c.g = i.g
  sh : x.c.sh = i.sh
  status : ∀ k : Fin 18, k.val ∈ [3, 6, 8, 9] → x.c.st[k] = i.st[k]
  xflags : x.c.st[4] = i.st[4] &&& 0x7F#64
  dirty : x.c.st[16] = 0
  masks : x.c.m = i.m ∧ x.c.k = i.k
  queue : x.c.vq = i.vq ∧ x.c.vqcount = i.vqcount ∧ x.c.rq = i.rq ∧ x.c.rqstate = i.rqstate
  arrival : x.c.arraddr = i.arraddr ∧ x.c.arrgen = i.arrgen
  region : x.c.treg = i.treg ∧ x.c.tepoch = i.tepoch
/-- The images of x hold what c held (R207). -/
structure Saved (c : Ctx) (x : Hart) : Prop where
  pc : x.img.pc = c.pc
  inh : x.img.inh = c.inh
  g : x.img.g = c.g
  sh : x.img.sh = c.sh
  status : ∀ k : Fin 18, k.val ∈ [0, 1, 2, 3, 4, 6, 7, 8, 9, 10, 11, 16, 17] → x.img.st[k] = c.st[k]
  masks : x.img.m = c.m ∧ x.img.k = c.k
  queue : x.img.vq = c.vq ∧ x.img.vqcount = c.vqcount ∧ x.img.rq = c.rq ∧ x.img.rqstate = c.rqstate
  arrival : x.img.arraddr = c.arraddr ∧ x.img.arrgen = c.arrgen
  region : x.img.treg = c.treg ∧ x.img.tepoch = c.tepoch
/-- No part of the machine holds hart h back from its stop: no gear change, no mode of its cluster, no access to the outside, no
vector-side fault, no VP inside a facet, no fault that ends in FAULTED, no load that is still to be performed (log 70), and no `exit` that
can complete (R90, R207, R218, R332). -/
structure StopReady (s : State) (h : HartId) : Prop where
  stopping : (s.hart h).state = .stopping ∧ (s.hart h).step1 = false
  moves : Moves s h
  vps : (s.hart h).live.tvps = []
  fault : (s.hart h).live.vfault = none
  outside : (s.hart h).live.wait.isOutside = false
  falling : (s.hart h).falling = false
  late : (s.hart h).live.late = none
  exit : exitsNow s h = false
/-- The tables' frames lie in HBM (R304). -/
def TablesInHbm (s : State) : Prop := s.hub.aback.toNat + s.hub.aframes.toNat * 0x4000 ≤ 0xD800000000
/-- No engine carries a copy strip of function a (R199). -/
def Flushed (s : State) (a : Nat) : Prop := ∀ p ∈ s.engines, carries s a p.2 = false
/-- A slice of function b may begin: none has, and no other function whose partition meets b's is in its slice (R331). -/
structure SliceFree (s : State) (a b : FuncId) : Prop where
  out : (s.func b.val).inSlice = false
  alone : ∀ f : FuncId, f ≠ a → f ≠ b → (s.func f.val).w[0].toNat % 2 = 1 → (s.func f.val).inSlice = true →
    partitionsMeet (s.func b.val) (s.func f.val) = false
/-- t is s, where a slice of function b has begun: nothing is charged, its copies wait no longer, its harts that were remembered, or that a
RESUME waits for, go on, and its other harts stand as they did (R329 to R331). -/
structure SliceBegun (s t : State) (b : FuncId) : Prop where
  func : (t.func b.val).inSlice = true ∧ (t.func b.val).passed = 0 ∧ (t.func b.val).w[7] = 0 ∧ (t.func b.val).charged = []
  copies : ∀ n c, s.copies.lookup n = some c → c.iss.func = b.val → ∃ d, t.copies.lookup n = some d ∧ d.suspended = false ∧ d.untaken = c.untaken
  harts : ∀ h, (s.hart h).func.toNat = b.val → Parked s h →
    ((s.hart h).held = none → (s.hart h).remembered = true → ClusterFree s h → Startable s h →
      (t.hart h).state = .running ∧ Restored (s.hart h).img (t.hart h)) ∧
    ((s.hart h).held = some false → ClusterFree s h → Startable s h → (t.hart h).state = .running ∧ Restored (s.hart h).img (t.hart h)) ∧
    ((s.hart h).held = none → (s.hart h).remembered = false → (t.hart h).state = (s.hart h).state)
/-- Bits of a register of class c that element e takes: the first, and how many (R344, R168). -/
def softPlace (s : State) (h : HartId) (c : RegClass) (e : Nat) : Nat × Nat :=
  let L := lanesOf s h
  let vt := (s.hart h).c.vt
  match c with
  | .vector =>
    let w := if vtIll vt then 32 else fmtWidth (vtEw vt)
    let i := e % max 1 (L * 256 / w)
    (i % L * 256 + i / L * w, w)
  | .mask => (e % 4096, 1)
  | .scale => (8 * (e % 512), 8)
  | .accumulator => (32 * (e % (L * 256)), 32)
/-- Bit i of a register becomes marked where it is one of n bits from b on, and keeps its mark else. -/
def marksBits {w : Nat} (x y : BitVec w) (on : Prop) (p : Nat × Nat) : Prop :=
  ∀ i, i < w → (y.getLsbD i = true ↔ x.getLsbD i = true ∨ (on ∧ p.1 ≤ i ∧ i < p.1 + p.2))
/-- Words of a context page that a store sets, by offset (R201): PC, SPACE, VSAVE, INH, and of the images the general registers, the status
registers that are written, the shadow bank, and the stream's registers. -/
def imageWords : List (Nat × (Hart → Word → Hart)) :=
  [(0x10, fun x v => { x with img := { x.img with pc := v } }), (0x18, fun x v => { x with space := v }), (0x20, fun x v => { x with vsave := v }),
   (0x30, fun x v => { x with img := { x.img with inh := v.getLsbD 0 } }), (0x400, fun x v => { x with img := { x.img with vpc := v } }),
   (0x408, fun x v => { x with img := { x.img with fbase := v } }), (0x410, fun x v => { x with img := { x.img with convoy := v } }),
   (0x418, fun x v => { x with img := { x.img with cnt := v } }), (0x428, fun x v => { x with img := { x.img with regend := v } }),
   (0x430, fun x v => { x with img := { x.img with cresume := v } })] ++
  ((List.finRange 32).filter (· ≠ 0)).map (fun r => (0x100 + 8 * r.val, fun x v => { x with img := { x.img with g := x.img.g.set r v } })) ++
  ((List.finRange 18).filter fun k => decide (k.val < 12 ∨ k.val = 17)).map (fun k => (0x200 + 8 * k.val, fun x v => { x with img := { x.img with st := x.img.st.set k v } })) ++
  (List.finRange 8).map (fun k => (0x300 + 8 * k.val, fun x v => { x with img := { x.img with sh := x.img.sh.set k v } }))
/-- A store of a hart to a control page is made after what it has stored (R54; log 7). -/
def storesAfter (s : State) : Agent → State
  | .hart k => sendHome s (tileOf k)
  | _ => s
/-- Queue n with word i at v's low half; the harts that its TAIL concerns pass again where it grew (R249), and the function core of a
HOSTCMD queue looks at it (R254). -/
def queueWord (s : State) (n : Nat) (i : Fin 9) (v : Word) : State :=
  s.setQueue n { s.queue n with w := (s.queue n).w.set i (v &&& 0xFFFFFFFF#64) }
/-- TAIL of queue n is v: it has grown where it is less than 2^31 ahead of what it was. -/
def tailMoved (s : State) (n : Nat) (v : Word) : State :=
  let d := (v.toNat % 2 ^ 32 + 2 ^ 32 - tailQ s n) % 2 ^ 32
  let t := (queueWord s n 4 v).coreGo n
  if 0 < d ∧ d < 2 ^ 31 then grownTail t n else t
/-- Runs of lane groups as R221 admits them. -/
def goodRun (n f : Nat) : Prop := (n = 1 ∨ n = 2 ∨ n = 4 ∨ n = 8) ∧ f % n = 0 ∧ f + n ≤ 8
/-- A record joins the error log of tile t, or is lost (R21). -/
def logged (x : Tile) (w0 w1 tick : Word) : Tile :=
  if x.nheld = 128 then { x with lost := if x.lost = 0xFFFFFFFF then x.lost else x.lost + 1 }
  else { x with elog := mset x.elog x.next.val #v[w0, w1, tick], next := x.next + 1, nheld := x.nheld + 1 }

/-! Kernels and host commands (R253 to R269, R335, R337). -/

/-- Word i + 2 of a descriptor is loop level i: extent and kind (R260). -/
def extentOf (d : Vector Word 16) (i : Fin 3) : Nat := (d[i.val + 2]).toNat % 2 ^ 32
def kindOf (d : Vector Word 16) (i : Fin 3) : Nat := (d[i.val + 2]).toNat / 2 ^ 32 % 4
/-- The 128 bytes that KDESC names are d, readable, and d describes a kernel for the tile set of the page (R260). -/
structure KernelDesc (s : State) (n : Nat) (d : Vector Word 16) : Prop where
  readable : ∀ i, i < 128 → regionOf ((s.kernel n).kdesc.toNat + i) = some .hbm ∧ inBacking s ((s.kernel n).kdesc.toNat + i) = false
  aligned : (s.kernel n).kdesc.toNat % 64 = 0
  clean : poisoned s (s.kernel n).kdesc.toNat 128 = false ∧ s.dcache = []
  key : ∀ i, i < 128 → lineKeyAt s ((s.kernel n).kdesc.toNat + i) = keyAt s ((s.func ((s.kernel n).own.toNat % 32)).w[6].toNat % 4096)
  words : ∀ i : Fin 16, d[i] = BitVec.ofNat 64 (memRead s.mem ((s.kernel n).kdesc.toNat + 8 * i.val) 8)
/-- d describes a kernel (R260). -/
structure KernelGood (s : State) (n : Nat) (d : Vector Word 16) : Prop where
  entry : d[0] ≠ 0 ∧ d[0].toNat % 2 = 0
  loops : ∀ i : Fin 3, (d[i.val + 2]).toNat < 2 ^ 34 ∧ (kindOf d i = 0 ↔ extentOf d i = 0) ∧ extentOf d i ≤ 2 ^ 20
  once : ∀ k ∈ [2, 3], ∀ i j : Fin 3, kindOf d i = k → kindOf d j = k → i = j
  flags : d[5].toNat < 4 ∧ d[6].toNat < 2
  queues : d[9].toNat % 512 = 0 ∧ d[9].toNat ≤ 65024
  zero : ∀ i : Fin 16, 10 ≤ i.val → d[i] = 0
  dies : (s.kernel n).tset.toNat % 16 ≠ 0
/-- The 128 bytes at pa cannot be read by the device: poisoned, or outside memory, in a quarantined store, or where tables are kept (R260). -/
def Unreadable (s : State) (pa : Nat) : Prop :=
  poisoned s pa 128 = true ∨ ∃ a, (a = pa ∨ a = pa + 64) ∧
    ((regionOf a ≠ some .hbm ∧ regionOf a ≠ some .store) ∨ quarantined s a = true ∨ inBacking s a = true)
/-- Kernel n is k, which is DONE or FAULTED: the harts blocked in `tget` on a queue of it are to return (R249, R266). -/
def ended (s : State) (n : Nat) (k : Kernel) : State :=
  { s.setKernel n k with harts := s.harts.map fun p => (p.1, match p.2.live.wait with
      | .tget q _ => if (s.queue q).w[0].toNat / 2 ^ 28 % 2 = 1 ∧ (s.queue q).w[0].toNat / 65536 % 4096 = n
          then { p.2 with live := { p.2.live with wait := .tget q .closed } } else p.2
      | _ => p.2) }
/-- A phase of a kernel is launched (R262). -/
def phaseLaunched (s : State) (n : KernelId) (k : Kernel) (phase : Nat) : State :=
  (s.setKernel n.val { k with kstate := 2, phase := phase, cursor := 0, allPlaced := false }).later (.launcherAppend n)

/-- The command at HEAD of queue q: code, TAG, entries and words, which the function core may take now, whole and readable (R254). -/
structure Command (s : State) (q : Nat) (op tag len : Nat) (ws : List Word) : Prop where
  queue : (s.queue q).w[0].toNat % 8 = 3 ∧ (s.queue q).w[0].toNat / 256 % 2 = 1 ∧ (s.queue q).w[0].toNat / 1024 % 2 = 0
  owner : (s.func ((s.queue q).w[7].toNat % 32)).inSlice = true ∧ (s.func ((s.queue q).w[7].toNat % 32)).inReset = false
  entries : 1 ≤ len ∧ len ≤ 4 ∧ len ≤ countQ s q
  place : (s.queue q).w[1].toNat % 64 = 0 ∧ ∀ i, i < 64 * capQ s q → regionOf ((s.queue q).w[1].toNat % 2 ^ 48 + i) = some .hbm
  clean : s.dcache = [] ∧ s.poison = []
  key : ∀ i, i < 64 * capQ s q → lineKeyAt s ((s.queue q).w[1].toNat % 2 ^ 48 + i) = keyAt s (s.queue q).key
  words : ws = (List.range (8 * len)).map fun j =>
    BitVec.ofNat 64 (memRead s.mem ((s.queue q).w[1].toNat % 2 ^ 48 + (headQ s q + j / 8) % capQ s q * 64 + 8 * (j % 8)) 8)
  header : (ws.getD 0 0).toNat = op + 256 * (len - 1) + 65536 * tag
  code : op < 256 ∧ tag < 65536
/-- In whose name the core acts: the owner's function, in its command space (R246, R335). -/
def coreWho (s : State) (q : Nat) : Who := funcWho s ((s.queue q).w[7].toNat % 32)
/-- HEAD of queue q has moved past len entries, and the queue is in no wait. -/
def moved (s : State) (q len : Nat) : State :=
  (s.onFunc ((s.queue q).w[7].toNat % 32) fun x => { x with waits := x.waits.filter (· != q) }).setQueue q
    { s.queue q with w := (s.queue q).w.set 3 (BitVec.ofNat 64 ((headQ s q + len) % 2 ^ 32)) }
/-- The packet at HEAD of q is done, with u the state that it leaves; only what comes next is not said. -/
def PacketDone (i : Instr) (s : State) (q len : Nat) (u : State) : Prop := ∃ ag, exec i s = .next { moved u q len with agenda := ag }
/-- The packet stays, and its queue waits. -/
def keptWaiting (s : State) (q : Nat) (i : Instr) : State :=
  (s.onFunc ((s.queue q).w[7].toNat % 32) fun x => { x with waits := q :: x.waits.filter (· != q) }).retry i
/-- The queue latches an error: code and DETAIL where it held none, and HALT (R254). -/
def Errored (s t : State) (q code detail : Nat) : Prop :=
  (s.queue q).w[5].toNat % 256 = 0 → (t.queue q).w[5].toNat = (s.queue q).w[5].toNat / 2 ^ 32 * 2 ^ 32 + code + 256 * (detail % 2 ^ 24) ∧
    (t.queue q).w[0] = (s.queue q).w[0] ||| 0x400#64 ∧ (t.queue q).w[3] = (s.queue q).w[3]
/-- What becomes of a 64-bit place that holds old (R253, R316): the value written, or that of an AtomicOp of four or eight bytes; none where a
CAS does not match. -/
def putOf (x : HostPut) (old : Word) : Option Word :=
  let part (wide : Bool) (v : Word) : Word := if wide then v else BitVec.ofNat 64 (old.toNat / 2 ^ 32 * 2 ^ 32 + v.toNat % 2 ^ 32)
  let size (wide : Bool) : Nat := if wide then 2 ^ 64 else 2 ^ 32
  match x with
  | .write v => some v
  | .fetchAdd wide v => some (part wide (old + v))
  | .swap wide v => some (part wide v)
  | .cas wide e v => if old.toNat % size wide = e.toNat % size wide then some (part wide v) else none
/-- s, where an AtomicOp of function f's host is answered with the old value, of its width; a write is not answered. -/
def answered (s : State) (f : FuncId) (x : HostPut) (old : Word) : State :=
  let reply (wide : Bool) : State :=
    { s with sent := s.sent ++ [.completion f true (if wide then old else BitVec.ofNat 64 (old.toNat % 2 ^ 32))] }
  match x with
  | .write _ => s
  | .fetchAdd wide _ => reply wide
  | .swap wide _ => reply wide
  | .cas wide _ _ => reply wide

/-! Links, functions, trust (R316 to R343). -/

/-- The BARs of function f answer (R321, R342). -/
def BarsUp (s : State) (f : FuncId) : Prop := (s.func f.val).inReset = false ∧ s.hub.lease.state ≠ 2
/-- A message to the outside. -/
def told (s : State) (m : Sent) : State := { s with sent := s.sent ++ [m] }
/-- Entry p of the BAR2 table of function f names the page at pa, with its valid and write bits as given (R318). -/
def Bar2 (s : State) (f : FuncId) (p pa : Nat) (write : Bool) : Prop :=
  (s.hub.bar2.lookup (65536 * f.val + p)) = some (BitVec.ofNat 64 (pa + 1 + if write then 2 else 0))
/-- Inbound window n is valid, for its function and space, and maps offset `off` to va, which is of a page (R324, R299). -/
def inboundWho (s : State) (n : Fin 64) : Who := (peerIssuer s n).eng 0
def inboundVa (s : State) (n : Fin 64) (off : BitVec 52) : Nat := (s.hub.inw[2 * n.val + 1]).toNat + off.toNat
def InboundValid (s : State) (n : Fin 64) (off : BitVec 52) : Prop := (s.hub.inw[2 * n.val]).toNat % 2 = 1 ∧ inboundVa s n off < 2 ^ 52
/-- A barrier's word ends the wait of a `barw` for another GEN than gen (R240). -/
def waitEnds (gen v : Nat) : Prop :=
  if 2 ^ 63 ≤ v then v / 2 ^ 32 % 2 ^ 31 ≠ 0 ∨ v % 2 ^ 32 = 0 else v / 2 ^ 32 % 2 ^ 16 ≠ gen
/-- The bank that runs (R336): 0 or 1. -/
def bankOf (s : State) (f : FuncId) : Nat := (s.func f.val).w[8].toNat / 2 % 2
/-- The image of digest d stands in the inactive bank of function f, and the block of version v has been written (R338; log 24). -/
def imaged (s : State) (f : FuncId) (d : BitVec 384) (v : Nat) : State :=
  s.onFunc f.val fun x => { x with images := x.images.set! (1 - bankOf s f) (some d), priv := stateBlock s f.val v }
/-- Every hart of function f is parked, and none exists else. -/
def Stilled (s : State) (f : Nat) : Prop := ∀ h ∈ hartsOf s f, Parked s h
/-- MX register i, extended with d (R339). -/
def extended384 (mx : Vector (BitVec 384) 8) (i : Fin 8) (d : BitVec 384) : Vector (BitVec 384) 8 :=
  mx.set i (Config.sha384 96 (mx[i].toNat * 2 ^ 384 + d.toNat))
/-- The EVENT queue of function f takes the entry (R256): it has one, enabled, of its kind, owner and world, with room. -/
structure EventRoom (s : State) (f n : Nat) : Prop where
  number : (s.func f).w[1].toNat / 65536 % 2 = 1 ∧ (s.func f).w[1].toNat % 65536 = n
  queue : (s.queue n).w[0].toNat % 8 = 4 ∧ (s.queue n).w[0].toNat / 256 % 2 = 1
  owner : (s.queue n).w[7].toNat % 32 = f ∧ (s.queue n).w[7].toNat / 256 % 2 = (s.func f).w[0].toNat / 256 % 2
  room : countQ s n < capQ s n
  ring : RingClear s n (tailQ s n)
  quiet : (s.queue n).w[6].toNat / 2 ^ 22 % 2 = 0
/-- The entry of R256: code and tag, number, detail, TICK. -/
def eventWords (s : State) (code tag num detail : Nat) : List Word :=
  [BitVec.ofNat 64 (code + 65536 * tag), BitVec.ofNat 64 num, BitVec.ofNat 64 detail, s.tick]
/-- n bytes of x, lowest first. -/
def bytesLE (n x : Nat) : List Nat := (List.range n).map fun i => x / 256 ^ i % 256

/-! Translation (R299 to R303). -/

/-- pa is the address of an arena frame tagged as a table of level lvl (R304). -/
structure TableFrame (s : State) (pa lvl : Nat) : Prop where
  aligned : pa % 0x4000 = 0
  arena : 0x7F8000000000 ≤ pa ∧ pa < 0x7F8000000000 + s.hub.aframes.toNat * 0x4000
  bounded : s.hub.aframes.toNat ≤ 2 ^ 20
  tag : ∃ t : Word, s.hub.tags.lookup ((pa - 0x7F8000000000) / 0x4000) = some t ∧ t.toNat % 4 = 1 ∧ t.toNat / 4 % 4 = lvl
/-- Entry i of the table at pa. -/
def tableEntry (s : State) (pa i : Nat) : Nat := memRead s.mem (s.hub.aback.toNat + (pa + 8 * i - 0x7F8000000000)) 8
/-- Entry i of the table at pa points to the table at next, of level lvl. -/
def Points (s : State) (pa i next lvl : Nat) : Prop := TableFrame s next lvl ∧ tableEntry s pa i = next + 3
/-- The four tables of a walk for va in the space of w, and the index in the last (R299). -/
structure Walked (s : State) (w : Who) (va : Nat) (t1 t2 t3 : Nat) : Prop where
  small : va < 2 ^ 52
  current : s.staleXlat = false
  l0 : TableFrame s w.iss.space 0
  l1 : Points s w.iss.space (va / 2 ^ 47 % 32) t1 1
  l2 : Points s t1 (va / 2 ^ 36 % 2048) t2 2
  l3 : Points s t2 (va / 2 ^ 25 % 2048) t3 3
/-- e is a leaf of 2^b bytes: V = 1, N = 0, no reserved bit, a KIND of memory, an aligned frame; and the place it gives va lies in the module's
memory, outside the backing of the tables (R300, R302). -/
structure Leaf (s : State) (e b va : Nat) : Prop where
  valid : e % 4 = 1
  reserved : e / 2 ^ 12 % 4 = 0 ∧ e / 2 ^ 48 % 16 = 0
  kind : e / 32 % 8 = 0 ∨ e / 32 % 8 = 4
  frame : e / 0x4000 % 2 ^ 34 * 0x4000 % 2 ^ b = 0
  region : regionOf (e / 0x4000 % 2 ^ 34 * 0x4000 + va % 2 ^ b) = some .hbm ∨ regionOf (e / 0x4000 % 2 ^ 34 * 0x4000 + va % 2 ^ b) = some .store
  there : quarantined s (e / 0x4000 % 2 ^ 34 * 0x4000 + va % 2 ^ b) = false
  outside : inBacking s (e / 0x4000 % 2 ^ 34 * 0x4000 + va % 2 ^ b) = false
/-- R, W and X of a leaf permit the access, and S where it is set, the world (R302). -/
def Permitted (e : Nat) (acc : Acc) (secure : Bool) : Prop :=
  (match acc with | .load => e / 4 % 2 = 1 | .store => e / 8 % 2 = 1 | .atomic => e / 4 % 2 = 1 ∧ e / 8 % 2 = 1 | .fetch => e / 16 % 2 = 1) ∧
  (e / 256 % 2 = 1 → secure = true)
end Sys2Proof.Claims

open Sys2Proof Sys2Proof.Machine Sys2Proof.Claims

/-! Encoding. -/

/-- Decoding the words of a well-formed instruction gives it back, with every operand at every value (R78 to R86). -/
def Obligations.DecodeEncode : Prop := ∀ i : Instr, i.wf = true → i.encoded = true → decode (encode i) = some i

/-- Every word that is an instruction is the encoding of that instruction alone: no bit of it is ignored (R78 to R87). -/
def Obligations.EncodeDecode : Prop :=
  ∀ (x : Nat) (i : Instr), decode x = some i → i.wf = true ∧ i.encoded = true ∧ encode i = x % 2 ^ (8 * parcelLen x)

/-- R84, R81: the majors and the compressed opcodes that the spec reserves are no instruction. -/
def Sys2Proof.Claims.ReservedRefused : Prop :=
  (∀ x, x % 4 = 1 → (x / 8 % 64 = 0 ∨ (0x23 ≤ x / 8 % 64 ∧ x / 8 % 64 ≤ 0x27) ∨ (0x39 ≤ x / 8 % 64 ∧ x / 8 % 64 ≤ 0x3D)
      ∨ x / 8 % 64 = 0x3F) → decode x = none) ∧
  (∀ x, x % 2 = 0 → (x / 2 % 16 = 0 ∨ x / 2 % 16 = 15) → decode x = none)

/-- Words that the spec writes out (R71, R78, R81, R82, R86, R102, R110, R295): each decodes to the instruction it stands for. -/
def Sys2Proof.Claims.Words : Prop :=
  decode 0x00314809 = some (.add 4 5 6) ∧ decode 0x04008A49 = some (.lhi 5 0x1002) ∧ decode 0x50AE = some (.cShli 5 20)
  ∧ decode 0x8042 = some (.cAddi 2 0x20) ∧ decode 0x01D2 = some (.cStd 14 0) ∧ decode 0x503240F1 = some (.atswap 0 6 9 true false true)
  ∧ decode 0x310248F1 = some (.atadd 4 0 9 true true false) ∧ decode 0x000800F9 = some (.fencesv 1) ∧ decode 0x000000FD = none
  ∧ decode 0x00010151 = some (.vld 0 4 none false) ∧ decode 0xA1314351 = some (.vlds 1 5 6 (some 2) false)
  ∧ decode 0x00080561 = some (.vaddVv 2 0 1 none false) ∧ decode 0x99080389 = some (.vmadc 1 0 1 (some 1) false)
  ∧ decode 0x08890B41 = some (.setvl 5 4 0x111) ∧ decode 0x0B0800F9 = some (.gear 1) ∧ decode 0x034A9709 = some (.scopy 11 10 9)

/-! Scalar instructions. -/

/-- R91, R92: each writes its result to g[D] and goes on; with D = 0 the result is discarded.  Nothing else changes. -/
def Sys2Proof.Claims.RegisterOps : Prop :=
  ∀ (s : State), InControl s → ∀ p ∈ registerOps, ∀ d a b : GReg,
    exec (p.1 d a b) s = .next (wrote s d (p.2 (gr s a) (gr s b)) 4)

/-- R91: `clz`, `ctz` and `cpop`. -/
def Sys2Proof.Claims.CountOps : Prop :=
  ∀ (s : State), InControl s → ∀ d a : GReg,
    (∃ n, leadingZeros (gr s a) n ∧ exec (.clz d a) s = .next (wrote s d (BitVec.ofNat 64 n) 4)) ∧
    (∃ n, trailingZeros (gr s a) n ∧ exec (.ctz d a) s = .next (wrote s d (BitVec.ofNat 64 n) 4)) ∧
    exec (.cpop d a) s = .next (wrote s d (BitVec.ofNat 64 (oneBits (gr s a))) 4)

/-- R92: in every case, quotient × b + remainder = a modulo 2^64, for both signs. -/
def Sys2Proof.Claims.DivisionIdentity : Prop :=
  ∀ (s : State), InControl s → ∀ d a b : GReg, d.val ≠ 0 → ∃ q r q' r' : Word,
    exec (.div d a b) s = .next (wrote s d q 4) ∧ exec (.rem d a b) s = .next (wrote s d r 4) ∧
    exec (.divu d a b) s = .next (wrote s d q' 4) ∧ exec (.remu d a b) s = .next (wrote s d r' 4) ∧
    q * gr s b + r = gr s a ∧ q' * gr s b + r' = gr s a

/-- R93 to R95: the instructions with an immediate. -/
def Sys2Proof.Claims.ImmediateOps : Prop :=
  ∀ (s : State), InControl s → ∀ d a : GReg,
    (∀ p ∈ immediateOps, ∀ i : Imm13, exec (p.1 d a i) s = .next (wrote s d (p.2 (gr s a) (i.signExtend 64)) 4)) ∧
    (∀ p ∈ shiftOps, ∀ n : Sh6, exec (p.1 d a n) s = .next (wrote s d (p.2 (gr s a) n.toNat) 4)) ∧
    (∀ i : Imm18, exec (.lhi d i) s = .next (wrote s d (i.signExtend 64 * 8192) 4)
      ∧ exec (.lpc d i) s = .next (wrote s d (pcOf s + i.signExtend 64 * 8192) 4))

/-- R81: the arithmetic parcels act as their expansions, two bytes long. -/
def Sys2Proof.Claims.ParcelOps : Prop :=
  ∀ (s : State), InControl s → ∀ (x y : GReg) (n : Sh6),
    exec (.cAddi x n) s = .next (wrote s x (gr s x + n.signExtend 64) 2) ∧
    exec (.cLi x n) s = .next (wrote s x (n.signExtend 64) 2) ∧
    exec (.cMv x y) s = .next (wrote s x (gr s y) 2) ∧
    exec (.cAdd x y) s = .next (wrote s x (gr s x + gr s y) 2) ∧
    exec (.cSub x y) s = .next (wrote s x (gr s x - gr s y) 2) ∧
    exec (.cAnd x y) s = .next (wrote s x (gr s x &&& gr s y) 2) ∧
    exec (.cShli x n) s = .next (wrote s x (gr s x <<< n.toNat) 2)

/-- R96, R81: jumps.  The link is the next instruction's address; an odd target traps and writes no link. -/
def Sys2Proof.Claims.Jumps : Prop :=
  ∀ (s : State), InControl s → ∀ (d a : GReg) (i : Imm13) (j : Imm18) (o : BitVec 11) (z : Bool),
    exec (.jl d j) s = .next (let t := pcOf s + j.signExtend 64 * 2
      if t.toNat % 2 = 0 then wroteAt s d (pcOf s + 4) t else trapped s 0x03 t) ∧
    exec (.cJ o) s = .next (let t := pcOf s + o.signExtend 64 * 2
      if t.toNat % 2 = 0 then wroteAt s 0 0 t else trapped s 0x03 t) ∧
    exec (.jlr d a i) s = .next (let t := gr s a + i.signExtend 64
      if t.toNat % 2 = 0 then wroteAt s d (pcOf s + 4) t else trapped s 0x03 t) ∧
    exec (.cJlr a z) s = .next (
      if (gr s a).toNat % 2 = 0 then wroteAt s (if z then 1 else 0) (pcOf s + 2) (gr s a) else trapped s 0x03 (gr s a))

/-- R97, R81: branches write no register; PC moves by sext(imm13) × 2 or to the next instruction. -/
def Sys2Proof.Claims.Branches : Prop :=
  ∀ (s : State), InControl s → ∀ (a b : GReg),
    (∀ p ∈ branchOps, ∀ i : Imm13, exec (p.1 a b i) s =
      .next (wroteAt s 0 0 (if p.2 (gr s a) (gr s b) then pcOf s + i.signExtend 64 * 2 else pcOf s + 4))) ∧
    (∀ n : Sh6, exec (.cBeqz a n) s = .next (wroteAt s 0 0 (if gr s a = 0 then pcOf s + n.signExtend 64 * 2 else pcOf s + 2)) ∧
      exec (.cBnez a n) s = .next (wroteAt s 0 0 (if gr s a ≠ 0 then pcOf s + n.signExtend 64 * 2 else pcOf s + 2)))

/-- R98, R99, R81: a load that meets nothing in its way writes the extended bytes to g[D]; a misaligned one traps.  Where the hart's
loads are performed later, which is the model's own choice (log 70), the bytes are those that stand there then. -/
def Sys2Proof.Claims.Loads : Prop :=
  ∀ (s : State), InControl s → ∀ (d a : GReg) (i : Imm13),
    (∀ p ∈ loadOps, ∀ x : Xl, Plain s (whoS s s.me) .load (gr s a + i.signExtend 64).toNat p.2.1 x →
      (¬ LandsLater s s.me d x →
        exec (p.1 d a i) s = .next (wrote (touch s x false) d (extended p.2.2 p.2.1 (memRead (touch s x false).mem x.pa p.2.1)) 4)) ∧
      (LandsLater s s.me d x → exec (p.1 d a i) s = .next (passed (withLate (touch s x false) d x p.2.1 p.2.2) 4))) ∧
    (∀ (n : Sh6) (x : Xl), Plain s (whoS s s.me) .load (gr s 2 + BitVec.ofNat 64 (8 * n.toNat)).toNat 8 x →
      (¬ LandsLater s s.me a x →
        exec (.cLdd a n) s = .next (wrote (touch s x false) a (BitVec.ofNat 64 (memRead (touch s x false).mem x.pa 8)) 2)) ∧
      (LandsLater s s.me a x → exec (.cLdd a n) s = .next (passed (withLate (touch s x false) a x 8 false) 2))) ∧
    (∀ (h : HartId) (l : LateLoad) (r : Region), (s.hart h).live.late = some l → regionOf l.pa = some r → (r = .hbm ∨ r = .store) →
      (r = .hbm → lineKeyAt s l.pa = keyAt s l.key) → s.dcache = [] → s.vbuf = [] → l.n ∈ [1, 2, 4, 8] → l.pa % l.n = 0 →
      landLate s h = s.onHart h fun x => { x with
        c := { x.c with g := if l.reg.val = 0 then x.c.g else x.c.g.set l.reg (extended l.signed l.n (memRead s.mem l.pa l.n)) }
        live := { x.live with late := none } }) ∧
    (∀ p ∈ loadOps, (gr s a + i.signExtend 64).toNat % p.2.1 ≠ 0 → exec (p.1 d a i) s = .next (trapped s 0x03 (gr s a + i.signExtend 64)))

/-- R98, R99, R81: a store that meets nothing in its way stores g[B]'s low bytes, at the home or, where the tile holds normal
stores back, in its data cache; a misaligned one traps. -/
def Sys2Proof.Claims.Stores : Prop :=
  ∀ (s : State), InControl s → ∀ (b a : GReg) (i : Imm13),
    (∀ p ∈ storeOps, ∀ x : Xl, Plain s (whoS s s.me) .store (gr s a + i.signExtend 64).toNat p.2 x →
      exec (p.1 b a i) s = .next (passed
        (if (s.tile (tileOf s.me)).lazyWb = true ∧ eKind x.leaf = 0
          then held (touch s x true) (tileOf s.me) x.pa p.2 ((gr s b).toNat % 256 ^ p.2) (eKey x.leaf)
          else performed (touch s x true) x.pa p.2 ((gr s b).toNat % 256 ^ p.2)) 4)) ∧
    (∀ (n : Sh6) (x : Xl), Plain s (whoS s s.me) .store (gr s 2 + BitVec.ofNat 64 (8 * n.toNat)).toNat 8 x →
      exec (.cStd b n) s = .next (passed
        (if (s.tile (tileOf s.me)).lazyWb = true ∧ eKind x.leaf = 0
          then held (touch s x true) (tileOf s.me) x.pa 8 (gr s b).toNat (eKey x.leaf)
          else performed (touch s x true) x.pa 8 (gr s b).toNat) 2)) ∧
    (∀ p ∈ storeOps, (gr s a + i.signExtend 64).toNat % p.2 ≠ 0 → exec (p.1 b a i) s = .next (trapped s 0x03 (gr s a + i.signExtend 64)))

/-- R99: a scalar access that no translation or no permission meets, that meets poison, or a page whose KIND refuses it, traps with
the access's address; the causes follow the order of R99.  A store of 8 bytes covers poison (R203). -/
def Sys2Proof.Claims.ScalarFaults : Prop :=
  ∀ (s : State), InControl s → ∀ (d a : GReg) (i : Imm13),
    let va := gr s a + i.signExtend 64
    let w := whoS s s.me
    (∀ acc t, xlate s w acc va.toNat = .error t → (t.cause = 0x04 ∨ t.cause = 0x05) ∧ t.tval = va) ∧
    (∀ acc, leafFor s w acc va.toNat = none → ∃ t, xlate s w acc va.toNat = .error t ∧ t.cause = 0x04) ∧
    (∀ acc e pa l, leafFor s w acc va.toNat = some (e, pa, l) → regionOf (eFrame e + va.toNat % leafSize l) ≠ none →
      quarantined s (eFrame e + va.toNat % leafSize l) = false →
      ((acc = .load ∧ e / 4 % 2 = 0) ∨ (acc = .store ∧ e / 8 % 2 = 0)) → ∃ t, xlate s w acc va.toNat = .error t ∧ t.cause = 0x05) ∧
    (∀ p ∈ loadOps, va.toNat % p.2.1 = 0 →
      (∀ t, xlate s w .load va.toNat = .error t → exec (p.1 d a i) s = .next (trapped s t.cause va)) ∧
      (∀ x, xlate s w .load va.toNat = .ok x → eKind x.leaf = 2 → p.2.1 ≠ 8 → exec (p.1 d a i) s = .next (trapped (touch s x false) 0x0E va)) ∧
      (∀ x, xlate s w .load va.toNat = .ok x → eKind x.leaf ≠ 2 → inArena s x.pa = false → poisoned s x.pa p.2.1 = true →
        exec (p.1 d a i) s = .next (trapped (touch s x false) 0x0B va))) ∧
    (∀ p ∈ storeOps, va.toNat % p.2 = 0 →
      (∀ t, xlate s w .store va.toNat = .error t → exec (p.1 d a i) s = .next (trapped s t.cause va)) ∧
      (∀ x, xlate s w .store va.toNat = .ok x → eKind x.leaf = 2 → p.2 ≠ 8 → exec (p.1 d a i) s = .next (trapped (touch s x true) 0x0E va)) ∧
      (∀ x, xlate s w .store va.toNat = .ok x → eKind x.leaf = 3 → p.2 ≠ 8 → exec (p.1 d a i) s = .next (trapped s 0x05 va)) ∧
      (∀ x, xlate s w .store va.toNat = .ok x → eKind x.leaf ≠ 2 → eKind x.leaf ≠ 3 → p.2 < 8 → poisoned s x.pa p.2 = true →
        exec (p.1 d a i) s = .next (trapped (touch s x true) 0x0B va)))

/-- R102: one indivisible read-modify-write of 4 or 8 bytes at the target's home; g[D] takes the old value, sign-extended, and
a failed `atcas` writes no memory. -/
def Obligations.Atomics : Prop :=
  ∀ (s : State), InControl s → ∀ p ∈ atomicOps, ∀ (d b a : GReg) (wd aq rl : Bool) (x : Xl),
    let n := if wd then 8 else 4
    Plain s (whoS s s.me) .atomic (gr s a).toNat n x →
      let t := touch s x true
      let old := memRead t.mem x.pa n
      exec (p.1 d b a wd aq rl) s = .next (wrote
        (match p.2 (8 * n) old ((gr s b).toNat % 2 ^ (8 * n)) ((gr s d).toNat % 2 ^ (8 * n)) with
          | some v => performed t x.pa n (v % 256 ^ n)
          | none => t)
        d (BitVec.ofInt 64 (sgn (8 * n) old)) 4)


/-! Steps, traps, status registers. -/

/-- R76, R77, R87: at a boundary, a step performs the instruction that the bytes at PC are, as `exec` says; bytes that are no
instruction act as an illegal instruction there, and bytes that cannot be fetched as a fetch fault. -/
def Sys2Proof.Claims.StepPerformsDecoded : Prop :=
  ∀ (s : State), AtBoundary s →
    let h := s.cur.hart
    let f := (fetchAt (whoS (ticked s) h) false (s.hart h).c.pc.toNat).run.run (ticked s)
    (∀ bits u, f = (.ok bits, u) → ∀ i, decode (bits % 2 ^ (8 * parcelLen bits)) = some i → step s = performs i h s.cur u) ∧
    (∀ bits u, f = (.ok bits, u) → decode (bits % 2 ^ (8 * parcelLen bits)) = none →
      step s = performs (.illegalInstruction (BitVec.ofNat 64 (bits % 2 ^ (8 * parcelLen bits)))) h s.cur u) ∧
    (∀ e u, f = (.error e, u) → step s = performs (.fetchFault (decide (e.cause = 0x05)) e.tval) h s.cur u)

/-- What a step adds to an instruction is nothing, where no load is still to be performed (log 70), the hart is under no STEP, no
register holds an error that no instruction has consumed, and as many tiles charge each function as before, none of which has a BUDGET
(R206, R219, R329). -/
def Sys2Proof.Claims.StepAddsNothing : Prop :=
  ∀ (i : Instr) (m : Mover) (b s : State),
    ((∀ p ∈ s.harts, p.2.live.late = none) → landBefore i m s = s) ∧
    ((∀ h, (s.hart h).step1 = false) → (∀ p ∈ s.harts, p.2.soft = []) → afterTurn i m b s = s) ∧
    ((∀ f : FuncId, (s.func f.val).w[4].toNat / 2 ^ 32 = 0 ∧ TilesCharged s f.val = ((s.func f.val).charged.head?.map (·.2)).getD 0) →
      charge s = s)

/-- Time goes on by one in every step, and what the agenda names first is what happens (log 1: the model's own), once late loads are
performed (log 70) and before tile time is charged (R329); only a vector-side
fault, and a stop that meets one, may have to wait for the control thread's own fault (R218). -/
def Obligations.AgendaFirst : Prop :=
  ∀ (s : State) (i : Instr) (r : List Turn), s.agenda = .event i :: r → deviceStep i = true →
    (∀ h, i = .vectorSideFault h ∨ i = .saveComplete h → vDue (s.hart h) = false) →
    step s = (match exec i { landBefore i s.cur { ticked s with agenda := r } with cur := s.cur } with
      | .next t => .next { charge (afterTurn i s.cur { ticked s with agenda := r } t) with cur := s.cur }
      | .fault f => .fault f
      | .refused r => .refused r)

/-- R84, R87: an instruction that may stand only in control-thread code acts as an illegal instruction in a stream and in a
threaded VP. -/
def Sys2Proof.Claims.ControlOnly : Prop :=
  ∀ (s : State), s.cur.thread ≠ .control → ∀ (k : Instr) (c : Bool), controlForm k = some c →
    exec k s = .next (takeTrap { cause := 0x01, tval := BitVec.ofNat 64 (encode k) } (inConvoy s c))

/-- R210, R211, R214, R87, R77: `trap`, a pattern that is no instruction, and an address that cannot be fetched enter the
handler, with their causes and values, where the hart has one and is in none. -/
def Sys2Proof.Claims.TrapsEnter : Prop :=
  ∀ (s : State), InControl s → Handled s s.me →
    (∀ x : Fld5, exec (.trap x) s = .next (entered s s.me 0x0C (BitVec.ofNat 64 x.val) (pcOf s) 0)) ∧
    (∀ enc : Word, exec (.illegalInstruction enc) s = .next (entered s s.me 0x01 enc (pcOf s) 0)) ∧
    (∀ (p : Bool) (va : Word), exec (.fetchFault p va) s = .next (entered s s.me (if p then 0x05 else 0x04) va (pcOf s) 0))

/-- R209, R210: where TVEC is 0 or INH is 1 the hart becomes FAULTED with its context saved, and a FAULT notice of HARTID, cause,
TPC and TVAL is appended for its function; where a VP stands inside its facet, that comes once it has reached the facet's end (R207),
the trap registers are written already, and the tile compares its gears (R293). -/
def Sys2Proof.Claims.TrapsFault : Prop :=
  ∀ (s : State), InControl s → ¬ Handled s s.me → ∀ x : Fld5,
    (insideFacet (withdraw (s.hart s.me)) = none → (s.hart s.me).live.late = none →
      ∃ u, exec (.trap x) s = .next (postNotice u (s.hart s.me).func.toNat (stValue s s.me 12) 0x0C (pcOf s) (BitVec.ofNat 64 x.val)) ∧
        FaultedAt (s.hart s.me) (u.hart s.me) 0x0C (BitVec.ofNat 64 x.val) (pcOf s) 0) ∧
    (insideFacet (withdraw (s.hart s.me)) ≠ none →
      ∃ y : Hart, exec (.trap x) s = .next (gearCheck ((s.setHart s.me y).later (.saveComplete s.me)) (tileOf s.me)) ∧ y.falling = true ∧
        y.state = (s.hart s.me).state ∧ y.lcause = 0x0C ∧ y.c.pc = pcOf s ∧ y.c.g = (s.hart s.me).c.g ∧ y.c.inh = (s.hart s.me).c.inh ∧
        y.c.st[7] = 0x0C ∧ y.c.st[8] = BitVec.ofNat 64 x.val ∧ y.c.st[9] = pcOf s ∧ y.c.st[17] = 0)

/-- R211, R212: the lowest pending and enabled event is taken at the boundary: its EVPEND bit is cleared, and the handler is
entered with cause 0x101 to 0x104. -/
def Sys2Proof.Claims.EventsEnter : Prop :=
  ∀ (s : State) (h : HartId) (i : Fin 4), Handled s h → (s.hart h).state = .running → vDue (s.hart h) = false →
    (s.hart h).falling = false → (s.hart h).live.wait.isOutside = false → Moves s h →
    ((s.hart h).c.st[11].toNat &&& (s.hart h).c.st[10].toNat) / 2 ^ i.val % 2 = 1 →
    (∀ j : Fin 4, j < i → ((s.hart h).c.st[11].toNat &&& (s.hart h).c.st[10].toNat) / 2 ^ j.val % 2 = 0) →
    exec (.eventTaken h) s = .next (entered
      (s.onHart h fun x => { x with c := { x.c with st := x.c.st.set 11 (x.c.st[11] &&& ~~~(BitVec.ofNat 64 (2 ^ i.val))) } })
      h (0x101 + i.val) (s.hart h).evval[i] (s.hart h).c.pc 0)

/-- R164: a vector-side fault that is due enters the handler with bit 9 of TCAUSE set, TPC at the faulting instruction and
CRESUME at the control thread's boundary; the unit is frozen. -/
def Sys2Proof.Claims.VectorFaultEnters : Prop :=
  ∀ (s : State) (h : HartId) (t : Trap), (s.hart h).onCore = true → Handled s h → (s.hart h).live.vfault = some t →
    (∀ v ∈ (s.hart h).live.tvps, v.faulted = none) → (s.hart h).live.vhold = false → t.pois = none →
    (s.hart h).falling = false → (s.hart h).live.wait.isOutside = false → Moves s h →
    exec (.vectorSideFault h) s = .next (entered
      (s.onHart h fun x => { x with
        c := { x.c with cresume := x.c.pc }
        live := { x.live with frozen := true, vfault := none, vhold := false, streamFault := x.c.convoy == 0 && (curEntry x.c).any fun k => entryFetch (vqAt x.c k) } })
      h (t.cause + 0x200) t.tval (t.tpc.getD (s.hart h).c.pc) t.telem)

/-- R215, R164: `tret` gives the banks back, clears INH and goes on at TPC; after a vector-side fault it goes on at CRESUME and
the unit works again.  With INH = 0 it is an illegal instruction, and an odd TPC is a misaligned target. -/
def Sys2Proof.Claims.TrapReturns : Prop :=
  ∀ (s : State), InControl s →
    let c := (s.hart s.me).c
    let back (pc : Word) (thaw : Bool) := s.onHart s.me fun x => { x with
      c := { x.c with
        g := Vector.ofFn fun i : Fin 32 => if h : 24 ≤ i.val then x.c.sh[i.val - 24] else x.c.g[i]
        sh := Vector.ofFn fun i : Fin 8 => x.c.g[24 + i.val]
        inh := false
        pc := pc }
      live := { x.live with frozen := x.live.frozen && !thaw, streamFault := x.live.streamFault && !thaw } }
    (c.inh = true → c.st[7].toNat / 512 % 2 = 0 → c.st[9].toNat % 2 = 0 → exec .tret s = .next (back c.st[9] false)) ∧
    (c.inh = true → c.st[7].toNat / 512 % 2 = 1 → (s.hart s.me).live.streamFault = false → exec .tret s = .next (back c.cresume true)) ∧
    (c.inh = true → c.st[7].toNat / 512 % 2 = 0 → c.st[9].toNat % 2 = 1 → exec .tret s = .next (trapped s 0x03 c.st[9])) ∧
    (c.inh = false → c.st[7].toNat / 512 % 2 = 0 → exec .tret s = .next (trapped s 0x01 (BitVec.ofNat 64 (encode .tret))))

/-- R58, R59, R158: a fence whose B is a scope completes, the three that order vector accesses where no vector work is left, of a unit
that a fault froze too, and else wait; `fencesv` and `fenceall` send every dirty byte of their tile home, and `fenceall` drops its
cached instruction bytes; `fencevs` and `fenceall` perform what the hart's V agent has stored and `fencevv` orders it (log 7, log 70).
Other scopes are illegal. -/
def Sys2Proof.Claims.Fences : Prop :=
  ∀ (s : State), InControl s → ∀ x : Fld5,
    let t := tileOf s.me
    (5 ≤ x.val → ∀ k ∈ ([.fencesv x, .fencevs x, .fencevv x, .fenceall x] : List Instr),
      exec k s = .next (trapped s 0x01 (BitVec.ofNat 64 (encode k)))) ∧
    (x.val < 5 → exec (.fencesv x) s = .next (passed (sendHome s t) 4)) ∧
    (x.val < 5 → vIdle (s.hart s.me) = true → exec (.fencevs x) s = .next (passed (performHart s s.me) 4)) ∧
    (x.val < 5 → vIdle (s.hart s.me) = true → exec (.fencevv x) s = .next (passed (ordered s s.me) 4)) ∧
    (x.val < 5 → vIdle (s.hart s.me) = true → exec (.fenceall x) s = .next (passed { sendHome (performHart s s.me) t with
      icache := s.icache.filter fun p => p.1 / 2 ^ 48 != t.val
      fcache := s.fcache.filter fun p => p.1 / 2 ^ 48 != t.val } 4)) ∧
    (x.val < 5 → vIdle (s.hart s.me) = false → ∀ k ∈ ([.fencevs x, .fencevv x, .fenceall x] : List Instr),
      exec k s = .next (gearCheck (s.setWait s.me .fence) t))

/-- R49, R54, R57: what a tile's harts have stored is performed when it is sent home: their dirty bytes stand in memory, none is left
in the tile's data cache, and those of other tiles stay; where there was none, nothing changes.  The same for what a hart's V agent has
stored and not performed (log 70).  Besides, waits on what was stored may end, of harts and of peers (R217, R240, R325). -/
def Sys2Proof.Claims.SentHome : Prop :=
  ∀ (s : State) (t : TileId) (h : HartId),
    (let u := sendHome s t
     OnlyWaits { s with mem := u.mem, lineKey := u.lineKey, dcache := s.dcache.filter fun p => p.2.tile != t } u ∧
      ((∀ p ∈ s.dcache, p.2.tile ≠ t) → u = s) ∧
      (∀ (a : Nat) (e : Dirty), e.tile = t → (∀ d, (a, d) ∈ s.dcache ↔ d = e) →
        (regionOf a = some .store ∨ regionOf a = some .hbm ∧ ∀ p ∈ s.dcache, p.1 / 64 = a / 64 → keyAt s p.2.key = lineKeyAt s a) →
        memGet u.mem a = e.byte)) ∧
    (let u := performHart s h
     (∀ p, p ∈ u.vbuf ↔ p ∈ s.vbuf ∧ p.2.hart ≠ h) ∧ (u.hart h).live.vfence = false ∧
      ((∀ p ∈ s.vbuf, p.2.hart ≠ h) → (s.hart h).live.vfence = false → u = s) ∧
      (∀ (a : Nat) (e : Unperformed), s.dcache = [] → e.hart = h → (∃ p ∈ s.vbuf, p.1 % 2 ^ 48 = a ∧ p.2 = e) →
        (∀ p ∈ s.vbuf, p.2.hart = h → p.1 % 2 ^ 48 = a → p.2 = e) →
        (regionOf a = some .store ∨ regionOf a = some .hbm ∧
          ∀ p ∈ s.vbuf, p.2.hart = h → p.1 % 2 ^ 48 / 64 = a / 64 → keyAt s p.2.key = lineKeyAt s a) →
        memGet u.mem a = e.byte))

/-- R310: `tfence` completes where every earlier vector instruction has, or the unit is frozen (log 37): the hart's stores are performed, and no agent uses an old value
of a table entry that the hart has stored to; it else waits. -/
def Sys2Proof.Claims.TableFence : Prop :=
  ∀ (s : State), InControl s →
    (vDrained (s.hart s.me) = true → exec .tfence s = .next (passed (cutTables (sendHome s (tileOf s.me)) s.me) 4)) ∧
    (vDrained (s.hart s.me) = false → exec .tfence s = .next (gearCheck (s.setWait s.me .tfence) (tileOf s.me))) ∧
    (∀ (h g : HartId) (p q : Nat × Word), (p ∈ (s.hart h).tstores → q ∈ ((cutTables s h).hart g).tstores → q.1 ≠ p.1) ∧
      ((∀ r ∈ (s.hart h).tstores, r.1 ≠ q.1) → (q ∈ ((cutTables s h).hart g).tstores ↔ q ∈ (s.hart g).tstores))) ∧
    (∀ (h g : HartId), ∃ l, (cutTables s h).hart g = { s.hart g with tstores := l })

/-- R158, R310: a waiting fence and a waiting `tfence` complete when the vector instructions have: each of the three fences that waits,
and `fencesv` as well, as it does at once.  A `tfence` does so in a frozen unit too (log 37). -/
def Sys2Proof.Claims.WaitingFences : Prop :=
  ∀ (s : State) (h : HartId) (bits : Nat) (u : State) (x : Fld5), (s.hart h).state = .running → Moves s h → x.val < 5 →
    (fetchAt (whoS s h) false (s.hart h).c.pc.toNat).run.run s = (.ok bits, u) → vDrained (u.hart h) = true →
    let v := { u with cur := ⟨h, .control⟩ }
    let t := tileOf h
    let is (i : Instr) : Prop := decode (bits % 2 ^ (8 * parcelLen bits)) = some i
    ((s.hart h).live.wait = .fence → is (.fencesv x) → exec (.fenceComplete h) s = .next { passed (sendHome v t) 4 with cur := s.cur }) ∧
    ((s.hart h).live.wait = .fence → vIdle (u.hart h) = true → is (.fencevs x) →
      exec (.fenceComplete h) s = .next { passed (performHart v h) 4 with cur := s.cur }) ∧
    ((s.hart h).live.wait = .fence → vIdle (u.hart h) = true → is (.fencevv x) →
      exec (.fenceComplete h) s = .next { passed (ordered v h) 4 with cur := s.cur }) ∧
    ((s.hart h).live.wait = .fence → vIdle (u.hart h) = true → is (.fenceall x) →
      exec (.fenceComplete h) s = .next { passed { sendHome (performHart v h) t with
      icache := u.icache.filter fun p => p.1 / 2 ^ 48 != t.val
      fcache := u.fcache.filter fun p => p.1 / 2 ^ 48 != t.val } 4 with cur := s.cur }) ∧
    ((s.hart h).live.wait = .tfence → is .tfence →
      exec (.tfenceComplete h) s = .next { passed (cutTables (sendHome v t) h) 4 with cur := s.cur })

/-- R205, R213: `getst` reads each of the eighteen status registers; VSI, XFLAGS, DIRTY and TELEM once earlier vector
instructions have completed or the unit is frozen (log 37), and VL once none is left that may cut it (R109).  Other numbers are illegal. -/
def Sys2Proof.Claims.StatusRead : Prop :=
  ∀ (s : State), InControl s → ∀ (d : GReg) (x : Fld5),
    (x.val < 18 → (x.val = 2 ∨ x.val = 4 ∨ x.val = 16 ∨ x.val = 17 → vDrained (s.hart s.me) = true) → (x.val = 0 → trimPending s s.me = false) →
      exec (.getst d x) s = .next (wrote s d (stValue s s.me x.val) 4)) ∧
    (18 ≤ x.val → exec (.getst d x) s = .next (trapped s 0x01 (BitVec.ofNat 64 (encode (.getst d x)))))

/-- R213, R110, R205: `setst` writes what each register takes; read-only registers, bits that are reserved and a rounding mode
that is none are illegal, and an odd TVEC or TPC is a misaligned target.  VSI and XFLAGS wait for earlier vector instructions, not of a
frozen unit (log 37). -/
def Sys2Proof.Claims.StatusWrite : Prop :=
  ∀ (s : State), InControl s → ∀ (a : GReg),
    let h := s.me
    let c := (s.hart h).c
    let v := gr s a
    let bad (x : Fld5) := trapped s 0x01 (BitVec.ofNat 64 (encode (.setst x a)))
    let put (i : Fin 18) (y : Word) := passed (s.setSt h i y) 4
    (trimPending s h = false → exec (.setst 0 a) s = .next (put 0 (if vtIll c.vt then 0 else BitVec.ofNat 64 (min v.toNat (vlmaxOf s h c.vt))))) ∧
    (trimPending s h = false → exec (.setst 1 a) s = .next (passed (if 8192 ≤ v.toNat ∨ vtIllegal (v.toNat % 4096) = true
        then (s.setSt h 1 0x8000000000000000#64).setSt h 0 0
        else (s.setSt h 1 (v &&& 0xFFF#64)).setSt h 0 (BitVec.ofNat 64 (min c.vl (vlmaxOf s h (v.toNat % 4096))))) 4)) ∧
    (vDrained (s.hart h) = true → exec (.setst 2 a) s = .next (if v.toNat < 8192 then put 2 v else bad 2)) ∧
    exec (.setst 3 a) s = .next (if v.toNat < 20 then put 3 v else bad 3) ∧
    (vDrained (s.hart h) = true → exec (.setst 4 a) s = .next (put 4 (v &&& 0x7F#64))) ∧
    exec (.setst 6 a) s = .next (if v.toNat % 2 = 0 then put 6 v else trapped s 0x03 v) ∧
    exec (.setst 7 a) s = .next (if v.toNat < 1024 then put 7 v else bad 7) ∧
    exec (.setst 8 a) s = .next (put 8 v) ∧
    exec (.setst 9 a) s = .next (if v.toNat % 2 = 0 then put 9 v else trapped s 0x03 v) ∧
    exec (.setst 10 a) s = .next (if v &&& ~~~0x1000F#64 = 0 then put 10 v else bad 10) ∧
    exec (.setst 11 a) s = .next (if v.toNat < 16 then put 11 (c.st[11] &&& ~~~v) else bad 11) ∧
    exec (.setst 17 a) s = .next (if v.toNat < 8192 then put 17 v else bad 17) ∧
    (∀ x : Fld5, (12 ≤ x.val ∧ x.val ≤ 16) ∨ 18 ≤ x.val → exec (.setst x a) s = .next (bad x))

/-- R217: `wait` returns at once with an event pending, else it waits, with the line of its operand under watch; a store to the
line lets it return, and so does any other moment (log 20). -/
def Obligations.Waits : Prop :=
  ∀ (s : State), InControl s →
    let x := s.hart s.me
    ((∀ l w, x.live.wait ≠ .wait l w) → x.c.st[11] ≠ 0 → exec (.wait 0) s = .next (passed s 4)) ∧
    ((∀ l w, x.live.wait ≠ .wait l w) → x.c.st[11] = 0 →
      exec (.wait 0) s = .next (gearCheck (s.setWait s.me (.wait none false)) (tileOf s.me))) ∧
    (∀ (a : GReg) (p : Xl), a ≠ 0 → (∀ l w, x.live.wait ≠ .wait l w) → Plain s (whoS s s.me) .load (gr s a).toNat 8 p → x.c.st[11] ≠ 0 →
      exec (.wait a) s = .next (passed (touch s p false) 4)) ∧
    (∀ (a : GReg) (p : Xl), a ≠ 0 → (∀ l w, x.live.wait ≠ .wait l w) → Clear s (whoS s s.me) .load (gr s a).toNat 8 p → x.c.st[11] = 0 →
      exec (.wait a) s = .next (gearCheck (s.setWait s.me (.wait (some (p.pa / 64)) false)) (tileOf s.me))) ∧
    (∀ (a : GReg) (l : Option Nat) (w : Bool), x.live.wait = .wait l w → (w = true ∨ x.c.st[11] ≠ 0) → exec (.wait a) s = .next (passed s 4)) ∧
    (∀ (h : HartId) (l : Option Nat) (w : Bool), (s.hart h).live.wait = .wait l w → (s.hart h).state = .running →
      Moves s h →
      exec (.waitWake h) s = .next (s.onHart h fun y => { y with
        c := { y.c with pc := y.c.pc + 4 }, live := { y.live with wait := .none } })) ∧
    (∀ (u : State) (pa n : Nat) (h : HartId) (l : Nat), (u.hart h).live.wait = .wait (some l) false → pa / 64 ≤ l → l ≤ (pa + n - 1) / 64 →
      ((wakeWaits u pa n).hart h).live.wait = .wait (some l) true)

/-- R292, R293: where the wanted gear is not the current one and no change is in progress, a change begins: NCHG counts it,
CYCLE stands, and its end is to come; else nothing happens. -/
def Sys2Proof.Claims.GearChangeBegins : Prop :=
  ∀ (s : State) (t : TileId),
    let x := s.tile t
    (x.gchg = false → (WantsNear s t ↔ x.gcur = false) →
      gearCheck s t = (s.setTile t { x with gchg := true, nchg := x.nchg + 1, cycBase := s.cycle t, cycSince := s.now }).later (.gearChangeEnd t)) ∧
    (x.gchg = true ∨ (WantsNear s t ↔ x.gcur = true) → gearCheck s t = s)

/-- R290, R295: `gear` sets REQ, `setst` of register 5 its bit 0, and the tile compares; B above 1 is illegal. -/
def Sys2Proof.Claims.GearRequests : Prop :=
  ∀ (s : State), InControl s → ∀ (x : Fld5) (a : GReg),
    (x.val < 2 → exec (.gear x) s = .next (passed (gearCheck (s.setSt s.me 5 (BitVec.ofNat 64 x.val)) (tileOf s.me)) 4)) ∧
    (2 ≤ x.val → exec (.gear x) s = .next (trapped s 0x01 (BitVec.ofNat 64 (encode (.gear x))))) ∧
    ((gr s a &&& ~~~0x101#64) = 0 →
      exec (.setst 5 a) s = .next (passed (gearCheck (s.setSt s.me 5 (gr s a &&& 1#64)) (tileOf s.me)) 4))

/-- R293, R296: at the end of a change the tile stands at the other gear, CYCLE goes on, and the wanted gear is compared again.
(No event arrived during the change.) -/
def Sys2Proof.Claims.GearChangeEnds : Prop :=
  ∀ (s : State) (t : TileId), (s.tile t).gchg = true → (∀ i : Fin 8, (s.hart (hartOf t i)).evlate = []) →
    ∃ u, exec (.gearChangeEnd t) s = .next (gearCheck u t) ∧
      u.tile t = { s.tile t with gchg := false, gcur := !(s.tile t).gcur, cycSince := s.now } ∧
      (∀ h, u.hart h = s.hart h) ∧ (∀ t', t' ≠ t → u.tile t' = s.tile t') ∧ u.mem = s.mem

/-! Vector integer, mask and fixed-point instructions. -/

/-- R105 to R110: where no queued instruction may still cut VL (R109), `setvl` and `setvlr` without bit 12 validate the type, cut VL to VLMAX and write it to g[D]; an illegal type
leaves VT illegal and VL 0. -/
def Sys2Proof.Claims.SetVl : Prop :=
  ∀ (s : State), InControl s → homeOnLoan s s.me = false → trimPending s s.me = false → ∀ (d a b : GReg) (t : VType),
    let ill := wrote ((s.setSt s.me 1 0x8000000000000000#64).setSt s.me 0 0) d 0 4
    let set (t : Nat) :=
      let vl := BitVec.ofNat 64 (min (gr s a).toNat (vlmaxOf s s.me t))
      wrote ((s.setSt s.me 1 (BitVec.ofNat 64 t)).setSt s.me 0 vl) d vl 4
    exec (.setvl d a t) s = .next (if vtIllegal t.toNat = true then ill else set t.toNat) ∧
    ((gr s b).toNat < 4096 → exec (.setvlr d a b) s = .next (if vtIllegal (gr s b).toNat = true then ill else set (gr s b).toNat)) ∧
    (8192 ≤ (gr s b).toNat → exec (.setvlr d a b) s = .next ill)


/-- R224: `setvlg`, and `setvlr` with bit 12 of a legal type, renegotiate the lanes.  They wait until the vector unit has nothing
left to do; with home groups out on loan the thread stalls and their borrowers are asked for them (R223).  An illegal type leaves VT
illegal and VL 0, and the lanes as they were. -/
def Sys2Proof.Claims.SetVlRenegotiates : Prop :=
  ∀ (s : State), InControl s → ∀ (d a b : GReg) (t : VType),
    let h := s.me
    let w := s.slotWord h
    let ill := wrote ((s.setSt h 1 0x8000000000000000#64).setSt h 0 0) d 0 4
    let v := (gr s b).toNat
    let homes := slotHN w ∈ ([1, 2, 4, 8] : List Nat) ∧ slotPN w ∈ ([1, 2, 4, 8] : List Nat) ∧ slotHF w % slotHN w = 0
    (homeOnLoan s h = false → vIdle (s.hart h) = true → homes →
      (vtIllegal t.toNat = false → Renegotiates s (.setvlg d a t) d (gr s a).toNat t.toNat) ∧
      (4096 ≤ v → v < 8192 → vtIllegal (v - 4096) = false → Renegotiates s (.setvlr d a b) d (gr s a).toNat (v - 4096))) ∧
    (homeOnLoan s h = false → trimPending s h = false →
      (vtIllegal t.toNat = true → exec (.setvlg d a t) s = .next ill) ∧
      (4096 ≤ v → v < 8192 → vtIllegal (v - 4096) = true → exec (.setvlr d a b) s = .next ill) ∧
      (vtIllegal t.toNat = false → vIdle (s.hart h) = false →
        exec (.setvlg d a t) s = .next (gearCheck (s.setWait h .join) (tileOf h)))) ∧
    (homeOnLoan s h = true → exec (.setvlg d a t) s = .next (gearCheck ((recallHome s h).setWait h .lent) (tileOf h)))

/-- R127, R86, R111: the integer instructions on two groups, on a group and a scalar, and on a group and an immediate. -/
def Sys2Proof.Claims.VectorInteger : Prop :=
  ∀ (s : State), Ready s → fmtOf s ≤ 5 → ∀ p ∈ intForms, ∀ (d a b : VReg) (g : GReg) (i : Imm5) (m : Option MReg),
    let w := wOf s
    Starts s d w → Starts s a w → Apart s d w a w →
    (Starts s b w → Apart s d w b w →
      Writes s (p.vv d a b m false) d w (results s m fun k => wrapTo w (p.f w (vel s a w k) (vel s b w k))) 0) ∧
    Writes s (p.vx d a g m false) d w (results s m fun k => wrapTo w (p.f w (vel s a w k) ((gr s g).toNat % 2 ^ w))) 0 ∧
    Writes s (p.vi d a i m false) d w (results s m fun k => wrapTo w (p.f w (vel s a w k) (wrapTo w (if p.signed then i.toInt else i.toNat)))) 0

/-- R128: `vmerge` writes every element from VSI to VL: the second operand where the mask bit is set, else the first. -/
def Sys2Proof.Claims.VectorMerge : Prop :=
  ∀ (s : State), Ready s → fmtOf s ≤ 5 → ∀ (d a b : VReg) (g : GReg) (i : Imm5) (m : MReg),
    let w := wOf s
    let pick (y : Nat → Nat) := results s none fun k => if mbitOf s m k then y k else vel s a w k
    Starts s d w → Starts s a w → Apart s d w a w →
    (Starts s b w → Apart s d w b w → Writes s (.vmergeVv d a b m false) d w (pick fun k => vel s b w k) 0) ∧
    Writes s (.vmergeVx d a g m false) d w (pick fun _ => (gr s g).toNat % 2 ^ w) 0 ∧
    Writes s (.vmergeVi d a i m false) d w (pick fun _ => wrapTo w i.toInt) 0

/-- R129, R39: the saturating instructions, with SAT where an element saturates. -/
def Sys2Proof.Claims.VectorSaturating : Prop :=
  ∀ (s : State), Ready s → fmtOf s ≤ 3 → ∀ (d a b : VReg) (m : Option MReg),
    let w := wOf s
    Starts s d w → Starts s a w → Starts s b w → Apart s d w a w → Apart s d w b w →
    ∀ p ∈ ([(.vsadd, true, fun a b => sgn w a + sgn w b), (.vsaddu, false, fun a b => (a : Int) + b),
        (.vssub, true, fun a b => sgn w a - sgn w b), (.vssubu, false, fun a b => (a : Int) - b)] :
        List ((VReg → VReg → VReg → Option MReg → Bool → Instr) × Bool × (Nat → Nat → Int))),
      let r (k : Nat) := saturated p.2.1 w (p.2.2 (vel s a w k) (vel s b w k))
      Writes s (p.1 d a b m false) d w (results s m fun k => (r k).1) (flagsOf s m fun k => (r k).2)

/-- R129, R38, R39: averages, scaled products and scaling shifts round by RMODE. -/
def Sys2Proof.Claims.VectorRounding : Prop :=
  ∀ (s : State), Ready s → fmtOf s ≤ 3 → ∀ (d a b : VReg) (n : Imm5) (m : Option MReg),
    let w := wOf s
    Starts s d w → Starts s a w → Starts s b w → Apart s d w a w → Apart s d w b w →
    ∃ y : Nat → Int → Int, (∀ sh x, Rounded x sh (fixMode s) (y sh x)) ∧
      Writes s (.vaadd d a b m false) d w (results s m fun k => wrapTo w (y 1 (sgn w (vel s a w k) + sgn w (vel s b w k)))) 0 ∧
      Writes s (.vaaddu d a b m false) d w (results s m fun k => wrapTo w (y 1 ((vel s a w k : Int) + vel s b w k))) 0 ∧
      Writes s (.vssrl d a n m false) d w (results s m fun k => wrapTo w (y n.toNat (vel s a w k))) 0 ∧
      Writes s (.vssra d a n m false) d w (results s m fun k => wrapTo w (y n.toNat (sgn w (vel s a w k)))) 0 ∧
      (let r (k : Nat) := saturated true w (y (w - 1) (sgn w (vel s a w k) * sgn w (vel s b w k)))
       Writes s (.vsmul d a b m false) d w (results s m fun k => (r k).1) (flagsOf s m fun k => (r k).2))

/-- R129: the narrowing instructions read a group of twice the width. -/
def Sys2Proof.Claims.VectorNarrowing : Prop :=
  ∀ (s : State), Ready s → fmtOf s ≤ 2 → w2Of s = 2 * wOf s → ∀ (d a : VReg) (n : Imm5) (m : Option MReg),
    let w := wOf s
    let w2 := w2Of s
    Starts s d w → Starts s a w2 → Apart s d w a w2 →
    ∃ y : Int → Int, (∀ x, Rounded x n.toNat (fixMode s) (y x)) ∧
      Writes s (.vnsrl d a n m false) d w (results s m fun k => vel s a w2 k / 2 ^ n.toNat % 2 ^ w) 0 ∧
      Writes s (.vnsra d a n m false) d w (results s m fun k => wrapTo w (sgn w2 (vel s a w2 k) / 2 ^ n.toNat)) 0 ∧
      (let r (k : Nat) := saturated true w (y (sgn w2 (vel s a w2 k)))
       Writes s (.vnclip d a n m false) d w (results s m fun k => (r k).1) (flagsOf s m fun k => (r k).2)) ∧
      (let r (k : Nat) := saturated false w (y (vel s a w2 k))
       Writes s (.vnclipu d a n m false) d w (results s m fun k => (r k).1) (flagsOf s m fun k => (r k).2))

/-- R131, R132: the widening instructions, and the sums of four products of the quarters of an element. -/
def Obligations.VectorWidening : Prop :=
  ∀ (s : State), Ready s → ∀ (d a b : VReg) (m : Option MReg),
    let w := wOf s
    let u := w2Of s
    let x (r : VReg) (k : Nat) : Int := sgn w (vel s r w k)
    let y (r : VReg) (k : Nat) : Int := sgn u (vel s r u k)
    let out (i : Instr) (f : Nat → Int) := Writes s i d w (results s m fun k => wrapTo w (f k)) 0
    ((fmtOf s = 1 ∧ fmt2Of s = 0 ∨ fmtOf s = 2 ∧ fmt2Of s = 1 ∨ fmtOf s = 3 ∧ fmt2Of s = 2) → Starts s d w → Starts s b u → Apart s d w b u →
      (Starts s a w → Apart s d w a w →
        out (.vwadd d a b m false) (fun k => x a k + y b k) ∧
        out (.vwaddu d a b m false) (fun k => (vel s a w k : Int) + vel s b u k) ∧
        out (.vwsub d a b m false) (fun k => x a k - y b k) ∧
        out (.vwsubu d a b m false) (fun k => (vel s a w k : Int) - vel s b u k)) ∧
      (Starts s a u → Apart s d w a u →
        out (.vwmul d a b m false) (fun k => y a k * y b k) ∧
        out (.vwmulu d a b m false) (fun k => (vel s a u k : Int) * vel s b u k) ∧
        out (.vwmulsu d a b m false) (fun k => y a k * vel s b u k) ∧
        out (.vwmacc d a b m false) (fun k => vel s d w k + y a k * y b k) ∧
        out (.vwmaccu d a b m false) (fun k => (vel s d w k : Int) + vel s a u k * vel s b u k) ∧
        out (.vwmaccsu d a b m false) (fun k => vel s d w k + y a k * vel s b u k))) ∧
    ((fmtOf s = 2 ∧ fmt2Of s = 0 ∨ fmtOf s = 3 ∧ fmt2Of s = 1 ∨ fmtOf s = 1 ∧ fmt2Of s = 4) →
      Starts s d w → Starts s a w → Starts s b w → Apart s d w a w → Apart s d w b w →
      out (.vqmacc d a b m false) (fun k => vel s d w k +
        ((List.range 4).map fun q => sgn u (vel s a w k / 2 ^ (q * u)) * sgn u (vel s b w k / 2 ^ (q * u))).sum))

/-- R133: the compares write a mask, and leave bits of elements that they do not act on. -/
def Sys2Proof.Claims.VectorCompare : Prop :=
  ∀ (s : State), Ready s → fmtOf s ≤ 5 → ∀ (d : MReg) (a b : VReg) (m : Option MReg),
    let w := wOf s
    Starts s a w → Starts s b w →
    ∀ p ∈ ([(.vseq, fun a b => decide (a = b)), (.vsne, fun a b => decide (a ≠ b)),
        (.vslt, fun a b => decide (sgn w a < sgn w b)), (.vsltu, fun a b => decide (a < b)),
        (.vsle, fun a b => decide (sgn w a ≤ sgn w b)), (.vsleu, fun a b => decide (a ≤ b)),
        (.vsgt, fun a b => decide (sgn w b < sgn w a)), (.vsgtu, fun a b => decide (b < a))] :
        List ((MReg → VReg → VReg → Option MReg → Bool → Instr) × (Nat → Nat → Bool))),
      WritesMask s (p.1 d a b m false) d (maskResults s m fun k => p.2 (vel s a w k) (vel s b w k)) 0

/-- R134: sums and differences with the mask's bit as carry or borrow in, and the carry or borrow out as a mask; every element
from VSI to VL takes part. -/
def Sys2Proof.Claims.VectorCarry : Prop :=
  ∀ (s : State), Ready s → fmtOf s ≤ 5 → ∀ (d a b : VReg) (k : MReg) (m : Option MReg),
    let w := wOf s
    let c (i : Nat) : Nat := match m with | some j => (mbitOf s j i).toNat | none => 0
    let x := vel s a w
    let y := vel s b w
    Starts s a w → Starts s b w →
    (Starts s d w → Apart s d w a w → Apart s d w b w →
      Writes s (.vadc d a b m false) d w (results s none fun i => (x i + y i + c i) % 2 ^ w) 0 ∧
      Writes s (.vsbc d a b m false) d w (results s none fun i => wrapTo w ((x i : Int) - y i - c i)) 0) ∧
    WritesMask s (.vmadc k a b m false) k (maskResults s none fun i => decide (2 ^ w ≤ x i + y i + c i)) 0 ∧
    WritesMask s (.vmsbc k a b m false) k (maskResults s none fun i => decide ((x i : Int) - y i - c i < 0)) 0

/-- R135: logic on masks, from element 0 whatever VSI holds, and between masks and groups. -/
def Sys2Proof.Claims.MaskLogic : Prop :=
  ∀ (s : State), Ready s → ∀ (d a b : MReg) (v : VReg) (g : GReg),
    let out (i : Instr) (f : Nat → Bool) := WritesMask s i d (fun k => some (f k)) 0
    out (.mand d a b false) (fun k => mbitOf s a k && mbitOf s b k) ∧
    out (.mor d a b false) (fun k => mbitOf s a k || mbitOf s b k) ∧
    out (.mxor d a b false) (fun k => mbitOf s a k != mbitOf s b k) ∧
    out (.mandn d a b false) (fun k => mbitOf s a k && !mbitOf s b k) ∧
    out (.mnot d a false) (fun k => !mbitOf s a k) ∧
    out (.mmv d a false) (fun k => mbitOf s a k) ∧
    out (.mset d false) (fun _ => true) ∧
    out (.mclr d false) (fun _ => false) ∧
    out (.mshl d a g false) (fun k => if k = 0 then (gr s g).getLsbD 0 else mbitOf s a (k - 1)) ∧
    (Starts s v (wOf s) → out (.mfromv d v false) (fun k => vel s v (wOf s) k % 2 == 1)) ∧
    (Starts s v (wOf s) → fmtOf s ≤ 5 →
      Writes s (.mtov v a false) v (wOf s) (fun k => if k < vlOf s then some (mbitOf s a k).toNat else none) 0)

/-- R135, R126: counts and positions in the first VL bits of a mask go to g[D]; −1 where no bit is set. -/
def Sys2Proof.Claims.MaskCounts : Prop :=
  ∀ (s : State), Ready s → ∀ (d : GReg) (a : MReg),
    let vl := vlOf s
    let on := (List.range vl).filter fun k => mbitOf s a k
    exec (.mpop d a false) s = .next (wrote (numbered (s.setSt s.me 2 0)) d (BitVec.ofNat 64 on.length) 4) ∧
    exec (.mfirst d a false) s = .next (wrote (numbered (s.setSt s.me 2 0)) d (match on.head? with | some k => BitVec.ofNat 64 k | none => -1) 4) ∧
    exec (.mlast d a false) s = .next (wrote (numbered (s.setSt s.me 2 0)) d (match on.getLast? with | some k => BitVec.ofNat 64 k | none => -1) 4) ∧
    exec (.mtop d a false) s = .next (wrote (numbered (s.setSt s.me 2 0)) d (if vl ≠ 0 ∧ mbitOf s a (vl - 1) = true then 1 else 0) 4)

/-! Floating point, conversions, permutes, reductions, the matrix unit. -/

/-- R136, R137, R40: arithmetic, minima and maxima, signs and compares of floating-point groups, with the flags of every element. -/
def Sys2Proof.Claims.VectorFloat : Prop :=
  ∀ (s : State), Ready s → isWide (fmtOf s) = true → ∀ (d a b : VReg) (k : MReg) (m : Option MReg),
    let w := wOf s
    let f := fmtOf s
    let q := fpMode s
    let x := vel s a w
    let y := vel s b w
    let z := vel s d w
    let out (i : Instr) (r : Nat → Nat × Nat) := Writes s i d w (results s m fun j => (r j).1 % 2 ^ w) (flagsOf s m fun j => (r j).2)
    Starts s a w → Starts s b w →
    (Starts s d w → Apart s d w a w → Apart s d w b w →
      out (.vfadd d a b m false) (fun j => fpAdd f q (x j) (y j)) ∧
      out (.vfsub d a b m false) (fun j => fpSub f q (x j) (y j)) ∧
      out (.vfmul d a b m false) (fun j => fpMul f q (x j) (y j)) ∧
      out (.vfdiv d a b m false) (fun j => fpDiv f q (x j) (y j)) ∧
      out (.vfmin d a b m false) (fun j => fpMinMax f false (x j) (y j)) ∧
      out (.vfmax d a b m false) (fun j => fpMinMax f true (x j) (y j)) ∧
      out (.vfsqrt d a m false) (fun j => fpSqrt f q (x j)) ∧
      out (.vfmacc d a b m false) (fun j => fpFma f q false false (x j) (y j) (z j)) ∧
      out (.vfnmacc d a b m false) (fun j => fpFma f q true true (x j) (y j) (z j)) ∧
      out (.vfmsac d a b m false) (fun j => fpFma f q false true (x j) (y j) (z j)) ∧
      out (.vfabs d a m false) (fun j => (x j % 2 ^ (w - 1), 0)) ∧
      out (.vfsgnj d a b m false) (fun j => (x j % 2 ^ (w - 1) + y j / 2 ^ (w - 1) * 2 ^ (w - 1), 0)) ∧
      out (.vfsgnjn d a b m false) (fun j => (x j % 2 ^ (w - 1) + (1 - y j / 2 ^ (w - 1)) * 2 ^ (w - 1), 0))) ∧
    (let cmp (i : Instr) (r : Nat → Bool × Nat) := WritesMask s i k (maskResults s m fun j => (r j).1) (flagsOf s m fun j => (r j).2)
     cmp (.vfeq k a b m false) (fun j => fpEq f (x j) (y j)) ∧
     cmp (.vflt k a b m false) (fun j => fpLt f (x j) (y j)) ∧
     cmp (.vfle k a b m false) (fun j => fpLe f (x j) (y j)))

/-- R26, R28: a finite value that a format holds rounds to itself, in every mode and with no flag. -/
def Sys2Proof.Claims.RoundingKeeps : Prop :=
  ∀ (f mode x : Nat), 6 ≤ f → f ≤ 12 → x < 2 ^ fpWidth f → (∃ n m e, decodeFP f x = .fin n m e false) →
    roundFP f mode (decodeFP f x) = (x, 0)

/-- R28, R35, R36, R40: the sum, difference, product, quotient, square root and fused multiply-add of finite values is the exact value
rounded once by the mode, with the flags of that rounding; and an exact zero has the sign of the rule. -/
def Obligations.RoundedOnce : Prop :=
  ∀ (f mode : Nat), isWide f = true → mode ≤ 4 →
    (∀ n m e, m ≠ 0 → Rounds f mode (valueOf (.fin n m e false)) (roundFP f mode (.fin n m e false))) ∧
    ∀ (a b c : Nat), FinCode f a → FinCode f b → FinCode f c →
      let x := codeVal f a
      let y := codeVal f b
      let z := codeVal f c
      let zero (n : Bool) : Nat × Nat := (if n then 2 ^ (fpWidth f - 1) else 0, 0)
      let done (v : ℝ) (n : Bool) (r : Nat × Nat) : Prop := (v ≠ 0 → Rounds f mode v r) ∧ (v = 0 → r = zero n)
      let crossed := negCode f a != negCode f b
      done (x + y) (if a = b then negCode f a else mode == 2) (fpAdd f mode a b) ∧
      done (x - y) (if x = 0 ∧ y = 0 ∧ crossed = true then negCode f a else mode == 2) (fpSub f mode a b) ∧
      done (x * y) crossed (fpMul f mode a b) ∧
      (y ≠ 0 → done (x / y) crossed (fpDiv f mode a b)) ∧
      (0 ≤ x → done (Real.sqrt x) (negCode f a) (fpSqrt f mode a)) ∧
      ∀ np nd : Bool,
        let p := (if np then -x else x) * y
        let d := if nd then -z else z
        done (p + d) (if p = 0 ∧ d = 0 ∧ (crossed != np) = (negCode f c != nd) then crossed != np else mode == 2) (fpFma f mode np nd a b c)

/-- R27, R28, R36, R40: what the operations answer for NaNs, infinities and zeros: the canonical NaN for every NaN, with NV where one
signals or the operation has no value, and DZ for a quotient by zero. -/
def Sys2Proof.Claims.FloatSpecials : Prop :=
  ∀ (f mode x y : Nat), isWide f = true →
    let a := decodeFP f x
    let b := decodeFP f y
    let nv := if a.isSnan || b.isSnan then 0x20 else 0
    (a.isNaN = true ∨ b.isNaN = true →
      fpAdd f mode x y = (canonNaN f, nv) ∧ fpMul f mode x y = (canonNaN f, nv) ∧ fpDiv f mode x y = (canonNaN f, nv)) ∧
    (∀ n k, a = .inf n → b = .inf k →
      fpAdd f mode x y = (if n = k then infCode f n else canonNaN f, if n = k then 0 else 0x20) ∧
      fpMul f mode x y = (infCode f (n != k), 0) ∧ fpDiv f mode x y = (canonNaN f, 0x20)) ∧
    (∀ n k m e, a = .inf n → b = .fin k m e false →
      fpAdd f mode x y = (infCode f n, 0) ∧
      fpMul f mode x y = (if m = 0 then canonNaN f else infCode f (n != k), if m = 0 then 0x20 else 0) ∧
      fpDiv f mode x y = (infCode f (n != k), 0)) ∧
    (∀ n m e k g, a = .fin n m e false → b = .fin k 0 g false →
      fpDiv f mode x y = (if m = 0 then canonNaN f else infCode f (n != k), if m = 0 then 0x20 else 0x10))

/-- R138, R41: the special functions, under round-to-nearest-even whatever RMODE holds (their last bit: log 16). -/
def Sys2Proof.Claims.VectorSpecial : Prop :=
  ∀ (s : State), Ready s → (fmtOf s = 8 ∨ fmtOf s = 6) → ∀ (d a : VReg) (m : Option MReg),
    let w := wOf s
    Starts s d w → Starts s a w → Apart s d w a w →
    ∀ p ∈ ([(.vexp2, 0), (.vlog2, 1), (.vrcp, 2), (.vrsqrt, 3), (.vtanh, 4), (.vsigm, 5)] :
        List ((VReg → VReg → Option MReg → Bool → Instr) × Nat)),
      Writes s (p.1 d a m false) d w (results s m fun j => (special p.2 (fmtOf s) (vel s a w j)).1 % 2 ^ w)
        (flagsOf s m fun j => (special p.2 (fmtOf s) (vel s a w j)).2)

/-- R139, R140, R29 to R34: conversions read a group of EW2 and write one of EW; `vdenc` and `vscl` use the scale of the element's
block. -/
def Obligations.VectorConvert : Prop :=
  ∀ (s : State), Ready s → ∀ (d a : VReg) (m : Option MReg),
    let w := wOf s
    let u := w2Of s
    let f := fmtOf s
    let g := fmt2Of s
    let q := fpMode s
    let x := vel s a u
    let block := vtBlock (s.hart s.me).c.vt
    let scale (r : VReg) (j : Nat) : Nat :=
      ((s.hart s.me).c.k[r.val / 4]).toNat / 2 ^ (8 * (j / (8 * 2 ^ block))) % 256
    let out (i : Instr) (r : Nat → Nat × Nat) := Writes s i d w (results s m fun j => (r j).1 % 2 ^ w) (flagsOf s m fun j => (r j).2)
    Starts s d w → Starts s a u → Apart s d w a u →
    (floatF f = true → floatF g = true → out (.vcvtf d a m false) (fun j => roundFP f q (decodeFP g (x j)))) ∧
    (f ≤ 3 → floatF g = true → out (.vcvtfi d a m false) (fun j => fpToInt g w q (x j))) ∧
    (floatF f = true → g ≤ 5 → out (.vcvtif d a m false) (fun j => roundFP f q (ofInt (sgn u (x j)) 0))) ∧
    (isWide f = true → g = 13 → out (.vddec d a m false) (fun j => roundFP f q (ofInt (d8Value (x j)) (-7)))) ∧
    (f = 13 → isWide g = true →
      out (.vdenc d a m false) (fun j => encodeD8 (unscaled (decodeFP g (x j)) (if block = 0 then 127 else scale d j)))) ∧
    (isWide f = true → 10 ≤ g → g ≤ 13 → block ≠ 0 →
      out (.vscl d a m false) (fun j => roundFP f q (scaled (decodeFP g (x j)) (scale a j))))

/-- R141: `vqnt` gives each block with an active element a scale byte from its largest magnitude, and writes the active elements
divided by it and rounded. -/
def Obligations.VectorQuantise : Prop :=
  ∀ (s : State), Ready s → 10 ≤ fmtOf s → fmtOf s ≤ 13 → isWide (fmt2Of s) = true → vtBlock (s.hart s.me).c.vt ≠ 0 →
    ∀ (d a : VReg) (m : Option MReg),
      let w := wOf s
      let u := w2Of s
      let b := 8 * 2 ^ vtBlock (s.hart s.me).c.vt
      let val (j : Nat) : FV := decodeFP (fmt2Of s) (vel s a u j)
      let on (k : Nat) : List Nat := (actList s m).filter fun j => j / b == k
      let bad (k : Nat) : Bool := (on k).any fun j => (val j).bad
      let scale (k : Nat) : Nat := if bad k then 0xFF else blockScale (fmtOf s) ((on k).map val)
      let code (j : Nat) : Nat × Nat :=
        if bad (j / b) then (if fmtOf s = 13 then 0x08 else 0, 0x20)
        else if fmtOf s = 13 then encodeD8 (unscaled (val j) (scale (j / b)))
        else roundFP (fmtOf s) (fpMode s) (unscaled (val j) (scale (j / b)))
      Starts s d w → Starts s a u → Apart s d w a u →
      ∃ (v : Vector (BitVec 8192) 32) (k : BitVec 4096),
        exec (.vqnt d a m false) s = .next ((vecDone s 4 ((actList s m).foldl (fun f j => f ||| (code j).2) 0) d.val (regsOf s w)
            (fun j => markAt (lanesOf s s.me) w (vlOf s) (j - d.val)) v).onHart s.me fun y =>
              { y with c := { y.c with k := y.c.k.set (d.val / 4) k } }) ∧
        GroupAfter s v d.val w (regsOf s w) (results0 s m fun j => some ((code j).1 % 2 ^ w)) ∧ Kept s v d.val (regsOf s w) ∧
        (∀ j, j < 512 → k.toNat / 2 ^ (8 * j) % 256 = if on j = [] then ((s.hart s.me).c.k[d.val / 4]).toNat / 2 ^ (8 * j) % 256 else scale j)

/-- R142 to R145: the permutes read every source element before they write any, whatever VSI holds. -/
def Sys2Proof.Claims.VectorPermute : Prop :=
  ∀ (s : State), Ready s → ∀ (d a b : VReg) (g : GReg) (k : MReg) (m : Option MReg),
    let w := wOf s
    let vl := vlOf s
    let n := (gr s g).toNat
    let x := vel s a w
    let ix := vel s b (w2Of s)
    Starts s d w →
    (Starts s a w →
      Writes s (.vslup d a g m false) d w (results0 s m fun i => if n ≤ i then some (x (i - n)) else none) 0 ∧
      Writes s (.vsldn d a g m false) d w (results0 s m fun i => some (if i + n < vl then x (i + n) else 0)) 0 ∧
      Writes s (.vcomp d a k false) d w (fun i => (((actList s (some k))[i]?).map fun j => x j)) 0 ∧
      (Indexed s b →
        Writes s (.vrgat d a b m false) d w (results0 s m fun i => some (if ix i < vl then x (ix i) else 0)) 0 ∧
        Writes s (.vscat d a b m false) d w (fun i => (((actList s m).filter fun j => ix j == i).getLast?).map fun j => x j)
          (if (((actList s m).map ix).filter fun j => j < vl).Nodup then 0 else 0x40))) ∧
    (fmtOf s ≤ 5 →
      Writes s (.vid d m false) d w (results0 s m fun i => some (i % 2 ^ w)) 0 ∧
      Writes s (.viota d k m false) d w (results0 s m fun i => some (((List.range i).filter fun j => mbitOf s k j).length % 2 ^ w)) 0) ∧
    Writes s (.vbcast d g m false) d w (results0 s m fun _ => some (n % 2 ^ w)) 0

/-- R143, R204: `vmvsg` moves element 0 to g[D] whatever VL is, and `vmvgs` g[A] to element 0 alone, with no tail and a mark that only
grows; where element 0 is not active, nothing is written or marked. -/
def Sys2Proof.Claims.VectorMoves : Prop :=
  ∀ (s : State), Ready s → ∀ (d : VReg) (g : GReg) (m : Option MReg),
    let w := wOf s
    let n := regsOf s w
    let L := lanesOf s s.me
    Starts s d w →
    exec (.vmvsg g d m false) s = .next (if lets s m 0
      then wrote (numbered (s.setSt s.me 2 0)) g (if fmtOf s ≤ 5 then BitVec.ofInt 64 (sgn w (vel s d w 0)) else BitVec.ofNat 64 (vel s d w 0)) 4
      else passed (numbered (s.setSt s.me 2 0)) 4) ∧
    (acts0 s m 0 = false → exec (.vmvgs d g m false) s = .next (vecPassed (numbered s) 0 4)) ∧
    (acts0 s m 0 = true → ∃ v, exec (.vmvgs d g m false) s = .next (vecDone s 4 0 d.val n
        (fun j => max ((s.hart s.me).c.hw[j]!).toNat (markAt L w (vlOf s) (j - d.val))) v) ∧
      (∀ i, i < n * (L * 256 / w) → element v L d.val w i = if i = 0 then (gr s g).toNat % 2 ^ w else vel s d w i) ∧ Kept s v d.val n)

/-- R146, R43, R27: the reductions start at element 0 of B and take the active elements of A in ascending order; a NaN is written as the
canonical one.  With no active element a signalling initial value sets NV (log 73), and the mark of element 0 stands whatever VL
is (log 29). -/
def Sys2Proof.Claims.VectorReduce : Prop :=
  ∀ (s : State), Ready s → ∀ (d a b : VReg) (m : Option MReg),
    let w := wOf s
    let xs := (actList s m).map fun i => vel s a w i
    let z := vel s b w 0
    let out (i : Instr) (f : Nat → Nat → Nat × Nat) := Reduces s i d (foldFlags f z xs).1 (foldFlags f z xs).2
    let number (x : Nat) : Nat := if (decodeFP (fmtOf s) x).isNaN then canonNaN (fmtOf s) else x
    let first : Nat := if xs = [] ∧ (decodeFP (fmtOf s) z).isSnan = true then 0x20 else 0
    let outF (i : Instr) (f : Nat → Nat → Nat × Nat) := Reduces s i d (number (foldFlags f z xs).1) ((foldFlags f z xs).2 ||| first)
    Starts s d w → Starts s a w → Starts s b w →
    (fmtOf s ≤ 3 →
      Reduces s (.vredsum d a b m false) d ((z + xs.sum) % 2 ^ w) 0 ∧
      out (.vredmax d a b m false) (fun x y => (if sgn w x < sgn w y then y else x, 0)) ∧
      out (.vredmin d a b m false) (fun x y => (if sgn w y < sgn w x then y else x, 0))) ∧
    (isWide (fmtOf s) = true →
      outF (.vfredsum d a b m false) (fun x y => fpAdd (fmtOf s) (fpMode s) x y) ∧
      outF (.vfredmax d a b m false) (fun x y => fpMinMax (fmtOf s) true x y))

/-- R147: `vcapp` appends i + g[B] for each i from VSI on whose mask bit is set, in ascending order, to the INDEX queue at g[A], as
many as the ring has room for.  Where one was appended and SINCE has reached VLMAX, SINCE becomes 0 and event 0x103 is raised.  Where
one did not fit, it is a fault of that element, at which VSI stands. -/
def Sys2Proof.Claims.VectorAppend : Prop :=
  ∀ (s : State), Ready s → ∀ (a b : GReg) (k : MReg) (x : Xl),
    let h := s.me
    let va := (gr s a).toNat
    let q := (x.pa - 0x200400000000) / 0x4000
    let y := s.queue q
    let on := actsList s (some k)
    let room := qCap y - qCount y
    let u := (appendIndices q h (gr s b).toNat on (storing s)).1
    let since := (u.queue q).w[6].toNat / 2 ^ 32
    let told : State := if on ≠ [] ∧ room ≠ 0 ∧ vlmaxOf s h (s.hart h).c.vt ≤ since
      then raiseEvent (u.setQueue q { u.queue q with w := (u.queue q).w.set 6 (BitVec.ofNat 64 ((u.queue q).w[6].toNat % 2 ^ 32)) }) h 2 (gr s a)
      else u
    xlate s (whoV s h) .load va = .ok x → xlate s (whoV s h) .store va = .ok x → va % 0x4000 = 0 → eKind x.leaf = 2 →
    0x200400000000 ≤ x.pa → x.pa < 0x200440000000 → touch s x true = s → qKind y = 2 → qEn y = true → qCount y ≤ qCap y →
    (∀ j, j < min on.length room → quarantined s (ringAddr y (qTail y + j)) = false) →
    (qBase y % 4 = 0 → qBase y + 4 * qCap y ≤ 0xD800000000 → ∀ j, j < min on.length room →
      memRead u.mem (ringAddr y (qTail y + j)) 4 = (on.getD j 0 + (gr s b).toNat) % 2 ^ 32) ∧
    (on.length ≤ room → exec (.vcapp a b k false) s = .next (vecPassed told 0 4)) ∧
    (room < on.length → Handled s h → ∃ t, exec (.vcapp a b k false) s = .next t ∧ t.mem = told.mem ∧ t.queues = told.queues ∧
      (t.hart h).live.frozen = true ∧ (t.hart h).c.st[7] = 0x210 ∧ (t.hart h).c.st[8] = gr s a ∧ (t.hart h).c.st[9] = pcOf s ∧
      (t.hart h).c.st[17] = BitVec.ofNat 64 (on.getD room 0) ∧ (t.hart h).c.st[2] = BitVec.ofNat 64 (on.getD room 0) ∧
      (t.hart h).c.cresume = pcOf s + 4 ∧ (t.hart h).c.pc = (s.hart h).c.st[6])

/-- R170 to R176, R42: `mma`.  With ASRC = 0 A is the group at vA, by rows or, with TR, by columns.  With ASRC = 1 it stands in a tile
store at the addresses that the pair g[A], g[A + 1] gives, and TPITCH is added to g[A] at issue (discarded where A is 0).  With VL = 0
nothing but that happens, and no tag is written. -/
def Obligations.MatrixMultiply : Prop :=
  ∀ (s : State), Ready s → ∀ (t : AReg) (b a : VReg) (tr i32 accum : Bool) (mm1 : Fin 32) (x : Nat → Nat → Xl),
    let G := vtG (s.hart s.me).c.vt
    let w := wOf s
    let L := lanesOf s s.me
    let M := mm1.val + 1
    let n := Claims.bytesOf w
    let idx (m k : Nat) : Nat := if tr then k * M + m else m * G + k
    let q := gr s (a + 1)
    let va := pairVa w tr (gr s a) q
    let stepped := s.setG s.me a (gr s a + BitVec.ofNat 64 (q.toNat / 2 ^ 20 % 2 ^ 20))
    (∀ j : Fin 4, (s.hart s.me).live.aPois[j] = 0) → mmaPair (fmtOf s) (fmt2Of s) i32 = true → b.val % G = 0 →
    (0 < vlOf s → vlOf s ≤ L * 8 →
      (a.val % G = 0 → M * G ≤ L * 256 * G / w →
        Multiplies s s (.mma t b a false tr i32 accum mm1 false) t b a.val i32 accum M (fun m k => vel s a w (idx m k)) idx) ∧
      (a.val % 2 = 0 → (∀ m k, m < M → k < G → VPlain s .load (va m k) n (x m k) ∧ (x m k).region = .store) →
        Multiplies s stepped (.mma t b a true tr i32 accum mm1 false) t b a.val i32 accum M
          (fun m k => memRead s.mem (x m k).pa n / 2 ^ (if w < 8 then (if tr then m else k) * w % 8 else 0) % 2 ^ w) idx)) ∧
    (vlOf s = 0 → a.val % 2 = 0 →
      exec (.mma t b a true tr i32 accum mm1 false) s = .next (passed (numbered stepped) 8))

/-- R177 to R180: `mzero` clears an accumulator; `mrow` writes a row of one, converted, to a register of the format's width. -/
def Sys2Proof.Claims.MatrixDrain : Prop :=
  ∀ (s : State), Ready s → ∀ (t : AReg) (d : VReg) (row : Fin 32) (fmt : Fin 8) (m : Option MReg),
    let L := lanesOf s s.me
    exec (.mzero t false) s = .next ((numbered s).onHart s.me fun x => { x with
      c := { x.c with pc := x.c.pc + 8, st := x.c.st.set 2 0, accst := accstWith x.c.accst t false }
      live := { x.live with acc := x.live.acc.set t 0, aPois := x.live.aPois.set t 0, wait := .none } }) ∧
    (fmt.val < 7 → (∀ j : Fin 4, (s.hart s.me).live.aPois[j] = 0) → vlOf s ≤ L * 8 →
      let r (n : Nat) : Nat × Nat := drainConv fmt.val (tagOf s t) (fpMode s) (accOf (s.hart s.me).live.acc L t row.val n)
      WritesRegs s (.mrow d t row fmt m false) d (drainWidth fmt.val) 1 (results s m fun n => (r n).1 % 2 ^ drainWidth fmt.val)
        (flagsOf s m fun n => (r n).2))

/-! Vector memory. -/

/-- R113, R117: unit-stride, strided and indexed loads of a group. -/
def Sys2Proof.Claims.VectorLoads : Prop :=
  ∀ (s : State), Ready s → ∀ (d : VReg) (a g : GReg) (b : VReg) (m : Option MReg), Starts s d (wOf s) →
    LoadsGroup s (.vld d a m false) d m (unitVa s a) ∧
    (8 ≤ wOf s → LoadsGroup s (.vlds d a g m false) d m (strideVa s a g)) ∧
    (8 ≤ wOf s → Indexed s b → LoadsGroup s (.vldx d a b m false) d m (indexVa s a b))

/-- R113, R117: the stores, in ascending order of elements. -/
def Sys2Proof.Claims.VectorStores : Prop :=
  ∀ (s : State), Ready s → ∀ (d : VReg) (a g : GReg) (b : VReg) (m : Option MReg), Starts s d (wOf s) →
    StoresGroup s (.vst d a m false) m (vel s d (wOf s)) (unitVa s a) ∧
    (8 ≤ wOf s → StoresGroup s (.vsts d a g m false) m (vel s d (wOf s)) (strideVa s a g)) ∧
    (8 ≤ wOf s → Indexed s b → StoresGroup s (.vstx d a b m false) m (vel s d (wOf s)) (indexVa s a b)) ∧
    (8 ≤ wOf s → Indexed s b → StoresGroup s (.vstxo d a b m false) m (vel s d (wOf s)) (indexVa s a b))

/-- R118: the segment loads and stores, whose fields lie side by side in memory and a group apart in registers. -/
def Obligations.VectorSegments : Prop :=
  ∀ (s : State), Ready s → ∀ (d : VReg) (a : GReg) (m : Option MReg), 8 ≤ wOf s → Starts s d (wOf s) →
    ∀ p ∈ ([(.vlseg2, .vsseg2, 2), (.vlseg3, .vsseg3, 3), (.vlseg4, .vsseg4, 4), (.vlseg8, .vsseg8, 8)] :
        List ((VReg → GReg → Option MReg → Bool → Instr) × (VReg → GReg → Option MReg → Bool → Instr) × Nat)),
      d.val + p.2.2 * regsOf s (wOf s) ≤ 32 →
      LoadsFields s (p.1 d a m false) d p.2.2 m (segVa s a p.2.2) ∧ StoresFields s (p.2.1 d a m false) d p.2.2 m (segVa s a p.2.2)

/-- R119: `vldff` loads as `vld` where no active element faults; where element j above VSI is the first that finds no translation, it
loads those below j and cuts VL to j, without a trap. -/
def Sys2Proof.Claims.VectorFirstFault : Prop :=
  ∀ (s : State), Ready s → ∀ (d : VReg) (a : GReg) (m : Option MReg) (x : Nat → Xl), 8 ≤ wOf s → Starts s d (wOf s) →
    let L := lanesOf s s.me
    let w := wOf s
    let n := regsOf s w
    ((∀ k, acts s m k = true → VPlain s .load (unitVa s a k) (Claims.bytesOf w) (x k)) →
      Writes s (.vldff d a m false) d w (results s m fun k => memElemAt s w k (x k).pa) 0) ∧
    (∀ j, acts s m j = true → vsiOf s < j → unitVa s a j % Claims.bytesOf w = 0 → leafFor s (whoV s s.me) .load (unitVa s a j) = none →
      (∀ k, k < j → acts s m k = true → VPlain s .load (unitVa s a k) (Claims.bytesOf w) (x k)) →
      ∃ v, exec (.vldff d a m false) s = .next ((vecDone s 4 0 d.val n (fun r => markAt L w j (r - d.val)) v).setSt s.me 0 (BitVec.ofNat 64 j)) ∧
        (∀ i, i < n * (L * 256 / w) → element v L d.val w i =
          if j ≤ i then 0 else if acts s m i then memElemAt s w i (x i).pa else vel s d w i) ∧ Kept s v d.val n)

/-- R120: masks move in ⌈VL / 8⌉ bytes and scales in 512, whatever VSI holds; bits of a mask from VL on become zero. -/
def Sys2Proof.Claims.MaskScaleMoves : Prop :=
  ∀ (s : State), Ready s → ∀ (k : MReg) (c : KReg) (a : GReg) (x : Nat → Xl),
    let va := (gr s a).toNat
    let n := (vlOf s + 7) / 8
    let bits : Nat := (s.hart s.me).c.m[k].toNat % 2 ^ vlOf s
    (va % 8 = 0 → PlainPieces s .load va n x →
      WritesMask s (.mld k a false) k (fun j => some ((gathered s n x).testBit j)) 0) ∧
    (va % 8 = 0 → PlainPieces s .store va n x →
      exec (.mst k a false) s = .next (vecPassed (scattered n bits x (storing s)) 0 4)) ∧
    (va % 64 = 0 → PlainPieces s .load va 512 x →
      exec (.kld c a false) s = .next ((vecPassed (numbered s) 0 4).onHart s.me fun y => { y with
        c := { y.c with k := y.c.k.set c (BitVec.ofNat 4096 (gathered s 512 x)) } })) ∧
    (va % 64 = 0 → PlainPieces s .store va 512 x →
      exec (.kst c a false) s = .next (vecPassed (scattered 512 (s.hart s.me).c.k[c].toNat x (storing s)) 0 4))

/-- R121, R122, R61: the scatter atomics combine the elements that name one address, lowest first, and update each address once,
indivisibly; the order of addresses is not fixed.  (`vxorAtomic` is the mnemonic whose combine is OR.) -/
def Obligations.ScatterAtomics : Prop :=
  ∀ (s : State), Ready s → ∀ (d : VReg) (a : GReg) (b : VReg) (m : Option MReg) (x : Nat → Xl),
    let w := wOf s
    let at_ := indexVa s a b
    let on := actList s m
    Starts s d w → Indexed s b →
    (∀ i ∈ on, VPlain s .atomic (at_ i) (w / 8) (x (at_ i))) →
    let done (i : Instr) (f : Nat → Nat → Nat × Nat) : Prop :=
      let own (va : Nat) : List Nat := (on.filter fun i => at_ i == va).map fun i => vel s d w i
      let one (u : State × Nat) (va : Nat) : State × Nat :=
        match own va with
        | [] => u
        | z :: r =>
          let c := foldFlags f z r
          let n := f (memRead u.1.mem (x va).pa (w / 8)) c.1
          (performed u.1 (x va).pa (w / 8) (n.1 % 256 ^ (w / 8)), u.2 ||| c.2 ||| n.2)
      ∃ order : List Nat, order.Nodup ∧ (∀ va, va ∈ order ↔ ∃ i ∈ on, at_ i = va) ∧
        exec i s = .next (vecPassed (order.foldl one (storing s, 0)).1 (order.foldl one (storing s, 0)).2 4)
    ((fmtOf s = 2 ∨ fmtOf s = 3) →
      done (.vxadd d a b m false) (fun y z => ((y + z) % 2 ^ w, 0)) ∧
      done (.vxmax d a b m false) (fun y z => (if sgn w y < sgn w z then z else y, 0)) ∧
      done (.vxmin d a b m false) (fun y z => (if sgn w z < sgn w y then z else y, 0)) ∧
      done (.vxand d a b m false) (fun y z => (y &&& z, 0)) ∧
      done (.vxorAtomic d a b m false) (fun y z => (y ||| z, 0)) ∧
      done (.vxmaxu d a b m false) (fun y z => (max y z, 0)) ∧
      done (.vxminu d a b m false) (fun y z => (min y z, 0))) ∧
    ((fmtOf s = 8 ∨ fmtOf s = 9) → done (.vxfadd d a b m false) (fun y z => fpAdd (fmtOf s) (fpMode s) y z))

/-- R180: `mstr` and `mstx` store a row of an accumulator, converted, an element at a time. -/
def Sys2Proof.Claims.MatrixStores : Prop :=
  ∀ (s : State), Ready s → ∀ (t : AReg) (r a g : GReg) (b : VReg) (fmt : Fin 8) (m : Option MReg) (x : Nat → Xl),
    let L := lanesOf s s.me
    let w := drainWidth fmt.val
    let row := (gr s r).toNat
    let z (n : Nat) : Nat × Nat := drainConv fmt.val (tagOf s t) (fpMode s) (accOf (s.hart s.me).live.acc L t row n)
    let stores (i : Instr) (va : Nat → Nat) : Prop :=
      (∀ k, acts s m k = true → VPlain s .store (va k) (w / 8) (x k)) →
      exec i s = .next (vecPassed ((actsList s m).foldl (fun u k => performed u (x k).pa (w / 8) ((z k).1 % 256 ^ (w / 8))) (storing s))
        (flagsOf s m fun k => (z k).2) 8)
    (∀ j : Fin 4, (s.hart s.me).live.aPois[j] = 0) → fmt.val < 7 → row < 32 → vlOf s ≤ L * 8 →
      stores (.mstr t r a g fmt m false) (strideVa s a g) ∧
      (Indexed s b → stores (.mstx t r a b fmt m false) (indexVa s a b))

/-- R99, R114, R115, R164: a vector load whose element j is the first active one at a misaligned address, in a page that restarts by group,
traps there, with TELEM = j and VSI at the start of its group; nothing of that group is written.  The fault is a vector-side one, met in the
step that issues the load (log 8, log 18). -/
def Sys2Proof.Claims.VectorLoadTraps : Prop :=
  ∀ (s : State), Ready s → ∀ (d : VReg) (a g : GReg) (m : Option MReg) (j : Nat), 16 ≤ wOf s → Starts s d (wOf s) →
    vsiOf s = 0 → acts s m j = true → strideVa s a g j % Claims.bytesOf (wOf s) ≠ 0 → (let k := endKind s (whoV s s.me) (strideVa s a g j) [0, 1, 2, 3] (s.hart s.me).space.toNat; k ≠ 1 ∧ k ≠ 2) →
    j < lanesOf s s.me * 64 / wOf s → (∀ k, k < j → acts s m k = false) → Handled s s.me →
    ∃ t, exec (.vlds d a g m false) s = .next t ∧ (t.hart s.me).live.v = (s.hart s.me).live.v ∧ (t.hart s.me).live.frozen = true ∧
      (t.hart s.me).c.st[7] = 0x203 ∧ (t.hart s.me).c.st[8] = BitVec.ofNat 64 (strideVa s a g j) ∧ (t.hart s.me).c.st[9] = pcOf s ∧
      (t.hart s.me).c.st[17] = BitVec.ofNat 64 j ∧ (t.hart s.me).c.st[2] = 0 ∧ (t.hart s.me).c.cresume = pcOf s + 4 ∧
      (t.hart s.me).c.pc = (s.hart s.me).c.st[6] ∧ t.mem = s.mem

/-- R89, R162 to R164: a convoy whose second member needs the unit of the first (two of the ALU, two of the multiplier, two loads, two stores)
traps before any member executes: TCAUSE 0x202 (log 19: the vector unit finds it), TPC the first member, TVAL the second, TELEM 0, CRESUME
after the convoy.  One whose next instruction is not a member is illegal.  One of an ALU and a multiplier member performs both, each
element of the second after that of the first. -/
def Obligations.Convoys : Prop :=
  ∀ (s : State), Ready s → ∀ (d a b d' a' b' : VReg) (g g' : GReg) (m m' : Option MReg) (bits : Nat),
    (fetchAt (whoS s s.me) false (pcOf s + 4).toNat).run.run s = (.ok bits, s) →
    let after := decode (bits % 2 ^ (8 * parcelLen bits))
    let w := wOf s
    let apart := ∀ p ∈ [(d, a), (d, b), (d', a'), (d', b')], Starts s p.1 w ∧ Starts s p.2 w ∧ Apart s p.1 w p.2 w
    let sameUnit (first second : Instr) : Prop :=
      (∃ p q, ((p ∈ aluForms ∧ q ∈ aluForms) ∨ (p ∈ mulForms ∧ q ∈ mulForms)) ∧ first = p.vv d a b m true ∧ second = q.vv d' a' b' m' false) ∨
      (first = .vld d g m true ∧ second = .vld d' g' m' false) ∨ (first = .vst d g m true ∧ second = .vst d' g' m' false)
    (fmtOf s ≤ 5 → apart → Handled s s.me → ∀ first second, sameUnit first second → after = some second →
      ∃ t, exec first s = .next t ∧ (t.hart s.me).live.v = (s.hart s.me).live.v ∧ (t.hart s.me).live.frozen = true ∧
        (t.hart s.me).c.st[7] = 0x202 ∧ (t.hart s.me).c.st[8] = pcOf s + 4 ∧ (t.hart s.me).c.st[9] = pcOf s ∧
        (t.hart s.me).c.st[17] = 0 ∧ (t.hart s.me).c.cresume = pcOf s + 8 ∧ (t.hart s.me).c.pc = (s.hart s.me).c.st[6] ∧ t.mem = s.mem) ∧
    (∀ p ∈ intForms, ∀ j, after = some j → vopOf j = none →
      exec (p.vv d a b m true) s = .next (takeTrap
        { cause := 0x01, tval := BitVec.ofNat 64 (bits % 2 ^ (8 * parcelLen bits)), tpc := some (pcOf s) } s)) ∧
    (fmtOf s ≤ 5 → apart → ∀ p ∈ aluForms, ∀ q ∈ mulForms, after = some (q.vv d' a' b' m' false) →
      let mark (r : VReg) (j : Nat) : Nat := markAt (lanesOf s s.me) w (vlOf s) (j - r.val)
      let n := regsOf s w
      ∃ v1 v : Vector (BitVec 8192) 32,
        let s1 := s.onLive s.me fun l => { l with v := v1 }
        exec (p.vv d a b m true) s = .next { vecDone (vecDone s 4 0 d.val n (mark d) v1) 4 0 d'.val n (mark d') v with storeNo := 4096 * s.now + 2 } ∧
        GroupAfter s v1 d.val w n (results s m fun k => wrapTo w (p.f w (vel s a w k) (vel s b w k))) ∧ Kept s v1 d.val n ∧
        GroupAfter s1 v d'.val w n (results s1 m' fun k => wrapTo w (q.f w (vel s1 a' w k) (vel s1 b' w k))) ∧ Kept s1 v d'.val n)

/-! Futures, barriers, tasks. -/

/-- R229 to R233: `fpoll` reads STATE; `fres` resolves, and walks the links where there are any, and poisons a future that was
resolved, with a trap; `fjoin` pushes its link on one that is not resolved, else a walker steps for its block. -/
def Sys2Proof.Claims.Futures : Prop :=
  ∀ (s : State), InControl s → Unscrubbed s → ∀ (d a b : GReg) (x lx jx bx : Xl),
    let w := whoS s s.me
    let v := memRead s.mem x.pa 8
    let st := futureState v
    let l := (gr s b).toNat
    let j := memRead s.mem jx.pa 8
    (Clear s w .load (gr s a).toNat 8 x → exec (.fpoll d a) s = .next (wrote s d (BitVec.ofNat 64 st) 4)) ∧
    (Clear s w .atomic (gr s a).toNat 8 x →
      (st = 0 → exec (.fres a) s = .next (completed (performed s x.pa 8 2))) ∧
      (st = 1 → exec (.fres a) s = .next (completed (forkWalk (performed s x.pa 8 2) (issuer s s.me) (newestLink v) false false))) ∧
      (2 ≤ st → exec (.fres a) s = .next (trapped (performed s x.pa 8 3) 0x08 (gr s a))) ∧
      (l % 16 = 0 → Clear s w .atomic l 8 lx → Clear s w .load (l + 8) 8 jx → j % 32 = 0 → Clear s w .atomic j 8 bx →
        (st < 2 → exec (.fjoin a b) s = .next (completed (performed (performed s lx.pa 8 (newestLink v)).nextStore x.pa 8 (newestLink l + 1)))) ∧
        (2 ≤ st → exec (.fjoin a b) s = .next (completed (forkWalk s (issuer s s.me) j true (decide (st = 3)))))))

/-- R234: a walker decrements the count of the block of each link, newest first, and marks errors; a count already 0 is marked; the
decrement to 0 enqueues the block's task. -/
def Sys2Proof.Claims.Walks : Prop :=
  ∀ (s : State) (n : Nat) (k : Walk) (x : Xl), s.walks.lookup n = some k → Unscrubbed s →
    let w := walkWho k.iss
    let c := countWord (memRead s.mem x.pa 8) k.err
    let drop (u : State) : State := { u with walks := mdel s.walks n }
    (k.block = true → Clear s w .atomic k.at_.toNat 8 x →
      (c % 2 ^ 32 = 0 → exec (.walkerStep n) s = .next (drop (performed s x.pa 8 (c ||| 2 ^ 62)))) ∧
      (2 ≤ c % 2 ^ 32 → exec (.walkerStep n) s = .next (drop (performed s x.pa 8 (c - 1)))) ∧
      (c % 2 ^ 32 = 1 → k.at_.toNat % 32 = 0 → ∀ (q : Nat) (t : List Word),
        let u := (performed s x.pa 8 (c - 1)).nextStore
        QueuePage u w (memRead u.mem (x.pa + 8) 8) q → TaskAt u w (memRead u.mem (x.pa + 16) 8) t → TaskQueue u q →
        countQ u q < capQ u q → RingClear u q (tailQ u q) →
        exec (.walkerStep n) s = .next (drop (counted (appended u q t) (k.iss.hart.map tileOf) q)))) ∧
    (k.block = false → k.at_ = 0 → exec (.walkerStep n) s = .next (drop s)) ∧
    (k.block = false → k.at_ ≠ 0 → ∀ (nx jx : Xl), Clear s w .load k.at_.toNat 8 nx → Clear s w .load (k.at_.toNat + 8) 8 jx →
      Clear s w .atomic (memRead s.mem jx.pa 8) 8 x → 2 ≤ c % 2 ^ 32 →
      let u := performed s x.pa 8 (c - 1)
      let next := memRead s.mem nx.pa 8
      exec (.walkerStep n) s = .next (if next = 0 then drop u
        else { u with walks := mset s.walks n { k with at_ := BitVec.ofNat 64 next } }.later (.walkerStep n)))

/-- R229, R236 to R240, R242: arrivals, announcements and waits. -/
def Sys2Proof.Claims.Barriers : Prop :=
  ∀ (s : State), InControl s → Unscrubbed s → ∀ (a b : GReg) (x : Xl),
    let v := memRead s.mem x.pa 8
    let gen := v / 2 ^ 32 % 2 ^ 16
    (Clear s (whoS s s.me) .atomic (gr s a).toNat 8 x →
      exec (.bara a) s = .next (if 2 ^ 63 ≤ v then trapped s 0x01 (gr s a)
        else completed (performed (recorded s (gr s a) gen) x.pa 8 (arrived v))) ∧
      exec (.barx a b) s = .next (if v < 2 ^ 63 then trapped s 0x01 (gr s a)
        else completed (performed s x.pa 8 (announced v (gr s b).toInt)))) ∧
    (Clear s (whoS s s.me) .load (gr s a).toNat 8 x →
      let k := eKey x.leaf
      (2 ^ 63 ≤ v → (∀ g p q m, (s.hart s.me).live.wait ≠ .barw g p q (some m)) → exec (.barw a) s = .next (
        if v / 2 ^ 32 % 2 ^ 31 ≠ 0 then trapped s 0x0A (gr s a) else if v % 2 ^ 32 = 0 then completed s else waiting s (.barw 0 x.pa k none))) ∧
      (v < 2 ^ 63 → (∀ g p q m, (s.hart s.me).live.wait ≠ .barw g p q m) → exec (.barw a) s = .next (
        if gen = awaited s (gr s a) v then waiting s (.barw gen x.pa k none) else completed (released s v))) ∧
      (v < 2 ^ 63 → ∀ g p q, (s.hart s.me).live.wait = .barw g p q none → exec (.barw a) s = .next (
        if gen = g then waiting s (.barw g x.pa k none) else completed (released s v)))) ∧
    -- a value that a change of the word brought meanwhile ends the wait, whatever the word has become
    (∀ g p q m, (s.hart s.me).live.wait = .barw g p q (some m) →
      (m < 2 ^ 63 → m / 2 ^ 32 % 2 ^ 16 ≠ g → exec (.barw a) s = .next (completed (released s m))) ∧
      (2 ^ 63 ≤ m → m / 2 ^ 32 % 2 ^ 31 = 0 → m % 2 ^ 32 = 0 → exec (.barw a) s = .next (completed s)) ∧
      (2 ^ 63 ≤ m → m / 2 ^ 32 % 2 ^ 31 ≠ 0 → exec (.barw a) s = .next (trapped s 0x0A (gr s a))))

/-- R240, R291: a waiting `barw` returns when the generation that it waits for has ended, or the bytes are delivered: by the word as it
stands, or by the value that a change of the word brought. -/
def Sys2Proof.Claims.BarrierReturns : Prop :=
  ∀ (s : State) (h : HartId) (g p k bits : Nat) (u : State) (a : GReg), (s.hart h).state = .running → Moves s h →
    (fetchAt (whoS s h) false (s.hart h).c.pc.toNat).run.run s = (.ok bits, u) → decode (bits % 2 ^ (8 * parcelLen bits)) = some (.barw a) →
    let t := { u with cur := ⟨h, .control⟩ }
    (∀ x, (u.hart h).live.wait = .barw g p k none → (s.hart h).live.wait = .barw g p k none →
      Unscrubbed t → Clear t (whoS t h) .load (gr t a).toNat 8 x →
      let v := memRead t.mem x.pa 8
      (v < 2 ^ 63 → v / 2 ^ 32 % 2 ^ 16 ≠ g → exec (.barwReturn h) s = .next { completed (released t v) with cur := s.cur }) ∧
      (2 ^ 63 ≤ v → v / 2 ^ 32 % 2 ^ 31 = 0 → v % 2 ^ 32 = 0 → exec (.barwReturn h) s = .next { completed t with cur := s.cur })) ∧
    (∀ m, (u.hart h).live.wait = .barw g p k (some m) → (s.hart h).live.wait = .barw g p k (some m) →
      (m < 2 ^ 63 → m / 2 ^ 32 % 2 ^ 16 ≠ g → exec (.barwReturn h) s = .next { completed (released t m) with cur := s.cur }) ∧
      (2 ^ 63 ≤ m → m / 2 ^ 32 % 2 ^ 31 = 0 → m % 2 ^ 32 = 0 → exec (.barwReturn h) s = .next { completed t with cur := s.cur }))

/-- R244, R248: `spawn` appends a task and writes 0, or writes 1 where the queue is full; a page that is no enabled queue of tasks, and
an address that is no queue's, trap. -/
def Sys2Proof.Claims.Spawns : Prop :=
  ∀ (s : State), InControl s → ∀ (d a b : GReg) (n : Nat) (t : List Word),
    let w := whoS s s.me
    QueuePage s w (gr s a).toNat n → TaskAt s w (gr s b).toNat t →
    (¬ TaskQueue s n → exec (.spawn d a b) s = .next (trapped s 0x05 (gr s a))) ∧
    (TaskQueue s n → countQ s n = capQ s n → exec (.spawn d a b) s = .next (wrote s d 1 4)) ∧
    (TaskQueue s n → countQ s n < capQ s n → RingClear s n (tailQ s n) →
      exec (.spawn d a b) s = .next (wrote (counted (appended s n t) (some (tileOf s.me)) n) d 0 4))

/-- R249, R263, R266, R321: `tget` binds the slot to its queue's kernel; where the queue is no enabled queue of tasks it answers 0, 0, else it
makes a pass.  EN and KIND are looked at then alone: while it waits it stays so until a TAIL has grown, and then makes another
pass; one whose kernel has closed answers 0, 1, and one whose function was reset 0, 0. -/
def Sys2Proof.Claims.TasksTaken : Prop :=
  ∀ (s : State), InControl s → ∀ (d a : GReg) (n : Nat), d.val % 4 = 0 → d.val ≠ 0 →
    let w0 := (s.queue n).w[0].toNat
    let u := if w0 / 2 ^ 28 % 2 = 1 then
        s.onTile (tileOf s.me) fun t => { t with bind := t.bind.set (slotOf s.me) (BitVec.ofNat 64 (w0 / 65536 % 4096 + 4096)) } else s
    let wt := (s.hart s.me).live.wait
    ((∀ m v, wt ≠ .tget m v) → QueuePage s (whoS s s.me) (gr s a).toNat n →
      (¬ TaskQueue s n → exec (.tget d a) s = .next (completed (wroteAll u d [0, 0]))) ∧ (TaskQueue s n → Passes s u (.tget d a) d n)) ∧
    (wt = .tget n .grown → Passes s s (.tget d a) d n) ∧
    (wt = .tget n .quiet → exec (.tget d a) s = .next s) ∧
    (wt = .tget n .closed → exec (.tget d a) s = .next (completed (wroteAll s d [0, 1]))) ∧
    (wt = .tget n .gone → exec (.tget d a) s = .next (completed (wroteAll s d [0, 0])))

/-- R251, R249: where its own queue is empty, `tget` takes the oldest task of the first victim that has one; a waiting `tget` is tried
again, and takes the newest task where a TAIL has grown. -/
def Sys2Proof.Claims.TasksStolen : Prop :=
  (∀ (s : State), InControl s → ∀ (d a : GReg) (n v : Nat) (r : List Nat), d.val % 4 = 0 → d.val ≠ 0 → QueuePage s (whoS s s.me) (gr s a).toNat n →
    (∀ m b, (s.hart s.me).live.wait ≠ .tget m b) → TaskQueue s n → countQ s n = 0 → (s.queue n).w[0].toNat / 2 ^ 28 % 2 = 0 →
    victims (s.queue n) (tileOf s.me).val = v :: r → v < 65536 →
    TaskQueue s v → countQ s v ≠ 0 → (s.queue v).w[0].toNat / 1024 % 2 = 0 → (s.queue v).w[7].toNat % 512 = (s.queue n).w[7].toNat % 512 →
    RingClear s v (headQ s v) →
    exec (.tget d a) s = .next (completed (tookTask
      (s.setQueue v { s.queue v with w := (s.queue v).w.set 3 (BitVec.ofNat 64 ((headQ s v + 1) % 2 ^ 32)) }) d (entryWords s v (headQ s v))))) ∧
  (∀ (s : State) (h : HartId) (bits n : Nat) (b : TgetNews) (u : State) (d a : GReg), (s.hart h).state = .running → (s.hart h).live.wait = .tget n b →
    Moves s h →
    (fetchAt (whoS s h) false (s.hart h).c.pc.toNat).run.run s = (.ok bits, u) → decode (bits % 2 ^ (8 * parcelLen bits)) = some (.tget d a) →
    let v := { u with cur := ⟨h, .control⟩ }
    (∃ t, exec (.tget d a) v = .next t ∧ exec (.tgetWake h) s = .next { t with cur := s.cur }) ∧
    (d.val % 4 = 0 → d.val ≠ 0 → (v.hart h).live.wait = .tget n .grown → countQ v n ≠ 0 → (v.queue n).w[0].toNat / 1024 % 2 = 0 →
      RingClear v n (newestQ v n) →
      exec (.tgetWake h) s = .next { completed (tookTask (withoutNewest v n) d (entryWords v n (newestQ v n))) with cur := s.cur }))

/-! Streams. -/

/-- R150, R151: `vfetch` and `vfetchr` put a stream in the vector queue, with VL, VT, RMODE, and FBASE from g3; the checks of the addresses
trap, and a full queue is waited for. -/
def Sys2Proof.Claims.StreamsQueued : Prop :=
  ∀ (s : State), InControl s → homeOnLoan s s.me = false → trimPending s s.me = false → (s.hart s.me).c.st[1].toNat < 2 ^ 63 → ∀ (n : BitVec 16) (a : GReg),
    let base := gr s 3
    let v := gr s a
    let count := queuedN (s.hart s.me)
    (base.toNat % 64 ≠ 0 → exec (.vfetch n) s = .next (trapped s 0x03 base) ∧ exec (.vfetchr a) s = .next (trapped s 0x03 base)) ∧
    (base.toNat % 64 = 0 → count < 12 → exec (.vfetch n) s = .next (enqueued s (captured s (.vfetch n) base 0))) ∧
    (base.toNat % 64 = 0 → v.toNat % 64 ≠ 0 → exec (.vfetchr a) s = .next (trapped s 0x03 v)) ∧
    (base.toNat % 64 = 0 → v.toNat % 64 = 0 → (v.toNat < base.toNat ∨ 65535 < (v.toNat - base.toNat) / 64) →
      exec (.vfetchr a) s = .next (trapped s 0x01 v)) ∧
    (base.toNat % 64 = 0 → v.toNat % 64 = 0 → base.toNat ≤ v.toNat → (v.toNat - base.toNat) / 64 ≤ 65535 → count < 12 →
      exec (.vfetchr a) s = .next (enqueued s (captured s (.vfetchr a) v base))) ∧
    (base.toNat % 64 = 0 → count = 12 → exec (.vfetch n) s = .next (waiting s .vqueue))

/-- R151, R158, R166: the stream of the first entry begins: the VPs below its VL enter the facet, but for those that an earlier fetch has
threaded. -/
def Sys2Proof.Claims.StreamBegins : Prop :=
  ∀ (s : State) (h : HartId) (n : BitVec 16) (a : GReg), UnitWorks s h →
    let x := s.hart h
    let e := x.c.vq[0]
    1 ≤ x.c.vqcount.toNat → (∀ j : Fin 12, x.c.vq[j][7].toNat % 4 = 0) →
    ∃ ins : BitVec 4096, (∀ j, j < 4096 → ins.getLsbD j = (decide (j < e[3].toNat % 8192) && x.live.tvps.all fun t => t.vp.val != j)) ∧
    let begun (base vpc : Word) : State := s.onHart h fun x => { x with
      c := { x.c with vq := x.c.vq.set 0 (e.set 7 1), vpc := vpc, fbase := base, convoy := 0, region := 0, regend := 0 }
      live := { x.live with inStream := ins } }
    (e[1] = BitVec.ofNat 64 (encode (.vfetch n)) → exec (.streamBegin h) s = .next (begun e[4] (e[4] + BitVec.ofNat 64 (64 * n.toNat)))) ∧
    (e[1] = BitVec.ofNat 64 (encode (.vfetchr a)) →
      exec (.streamBegin h) s = .next (begun e[5] (e[5] + BitVec.ofNat 64 (64 * ((e[4] - e[5]).toNat / 64)))))

/-- R152, R153: in the stream, `vtfetch` threads the VPs whose bits are set, each with a copy of the counters, at the facet it names; where
some stay, the stream goes on.  It waits for the VPs of earlier fetches, which R158 does not say of it (log 36), and
its masks hold no poison (log 34).  A VP goes to the facet itself, which commits what it wrote, or goes on. -/
def Sys2Proof.Claims.VpsLeave : Prop :=
  ∀ (s : State) (n : BitVec 15) (m : MReg), MasksClean (s.hart s.me) m →
    let x := s.hart s.me
    (InStream s → x.c.treg.toNat / 4 % 4 ≠ 3 → ¬ Joined s → exec (.vtfetch n m) s = .next s) ∧
    (InStream s → x.c.treg.toNat / 4 % 4 ≠ 3 → Joined s → ∀ k : Fin 12, Current x k →
      let base := if x.c.vq[k][1].toNat / 512 % 32 = 7 then x.c.vq[k][5] else x.c.vq[k][4]
      let go := chosen s m
      x.c.vq[k][1].toNat % 4 = 1 → x.c.vq[k][1].toNat / 8 % 64 = 0x36 → (go = [] ∨ ∃ i, i < 4096 ∧ x.live.inStream.getLsbD i = true ∧ i ∉ go) →
      ∃ left : BitVec 4096, (∀ i, left.getLsbD i = (x.live.inStream.getLsbD i && !decide (i ∈ go))) ∧
        exec (.vtfetch n m) s = .next (streamAt (s.onHart s.me fun y => { y with live := { y.live with
          inStream := left
          tvps := y.live.tvps ++ go.map fun i => { vp := Fin.ofNat 4096 i, facet := n.toNat, pc := base + BitVec.ofNat 64 (64 * n.toNat)
                                                   cnt := x.c.cnt, entry := k.val } } }) (x.c.vpc + 4))) ∧
    (∀ (i : Fin 4096) (t : TVP), InVp s i → (x.live.tvps.find? fun y => y.vp == i) = some t → t.entry < 12 →
      let e := x.c.vq[Fin.ofNat 12 t.entry]
      let base := if e[1].toNat / 512 % 32 = 7 then e[5] else e[4]
      e[1].toNat % 4 = 1 → e[1].toNat / 8 % 64 = 0x36 →
      exec (.vtfetch n m) s = .next (vpTo s i fun y =>
        if mbitOf s m i.val then { y with undo := [], facet := n.toNat, pc := (let f := x.c.vq[Fin.ofNat 12 y.entry]
            (if f[1].toNat / 512 % 32 = 7 then f[5] else f[4]) + BitVec.ofNat 64 (64 * n.toNat)) }
        else { y with pc := t.pc + 4 }))

/-- R153, R150: `vstop` ends the stream, whose entry leaves the queue once none of its VPs runs, after the VPs of earlier fetches (log 36: R158 does not name it); or it
stops the VP.  In control-thread code it is illegal. -/
def Sys2Proof.Claims.VpsStop : Prop :=
  ∀ (s : State), ∀ i ∈ ([.vstop, .cVstop] : List Instr),
    let x := s.hart s.me
    (InStream s → x.c.treg.toNat / 4 % 4 ≠ 3 → ¬ Joined s → exec i s = .next s) ∧
    (InStream s → x.c.treg.toNat / 4 % 4 ≠ 3 → Joined s → ∀ k : Fin 12, Current x k → ∃ y : Hart, exec i s = .next (s.setHart s.me y) ∧
      y.live.inStream = 0 ∧ y.c.vpc = 0 ∧ y.c.convoy = 0 ∧ y.c.region = 0 ∧ y.c.regend = 0 ∧
      (if x.live.tvps.any (fun t => t.entry == k.val) then y.c.vqcount = x.c.vqcount ∧ y.c.vq = x.c.vq.set k (x.c.vq[k].set 7 3) ∧ y.live.tvps = x.live.tvps
        else y.c.vqcount = x.c.vqcount - 1 ∧ (∀ j : Fin 12, (hj : j.val + 1 < 12) → k ≤ j → y.c.vq[j] = x.c.vq[j.val + 1]) ∧
          (∀ j : Fin 12, j < k → y.c.vq[j] = x.c.vq[j])) ∧
      y.c.g = x.c.g ∧ y.c.pc = x.c.pc ∧ y.c.st = x.c.st ∧ y.c.cnt = x.c.cnt ∧ y.c.m = x.c.m ∧ y.live.v = x.live.v ∧ y.live.acc = x.live.acc) ∧
    (∀ (p : Fin 4096) (t : TVP), InVp s p → (x.live.tvps.find? fun y => y.vp == p) = some t →
      ∃ y : Hart, exec i s = .next (s.setHart s.me y) ∧ (∀ u ∈ y.live.tvps, u.vp ≠ p) ∧
        (y.live.tvps.map (·.vp) = (x.live.tvps.map (·.vp)).filter (· != p)) ∧
        (y.c.vqcount = x.c.vqcount ∨ ((∀ u ∈ x.live.tvps, u.vp ≠ p → u.entry ≠ t.entry) ∧ y.c.vqcount = BitVec.ofNat 64 (min 12 x.c.vqcount.toNat - 1))) ∧
        y.live.v = x.live.v ∧ y.c.m = x.c.m ∧ y.c.g = x.c.g ∧ y.c.st = x.c.st ∧ y.c.vpc = x.c.vpc) ∧
    (InControl s → exec i s = .next (trapped s 0x01 (BitVec.ofNat 64 (encode i))))

/-- R154: `vskip` goes to its label where no VP of the stream has its bit set, and else opens the region; it waits for the VPs of
earlier fetches, which R158 does not say of it (log 36). -/
def Sys2Proof.Claims.Regions : Prop :=
  ∀ (s : State) (m : MReg) (i : Imm13), InStream s →
    let x := s.hart s.me
    let label := x.c.vpc + BitVec.ofNat 64 (2 * i.toNat)
    let ok := x.c.region.toNat / 8 % 2 = 0 ∧ x.c.vpc.toNat < label.toNat ∧ inFacet s s.me (threadFacet s s.me .stream) label = true
    let on := (List.range 4096).filter fun k => x.live.inStream.getLsbD k && mbitOf s m k
    (¬ ok → exec (.vskip m i) s = .next (takeTrap { cause := 0x01, tval := BitVec.ofNat 64 (encode (.vskip m i)) } s)) ∧
    (ok → ¬ Joined s → exec (.vskip m i) s = .next s) ∧
    (ok → Joined s → x.c.mPois[m] = 0 → on = [] → exec (.vskip m i) s = .next (streamAt s label)) ∧
    (ok → Joined s → x.c.mPois[m] = 0 → on ≠ [] → exec (.vskip m i) s = .next (streamAt (s.onHart s.me fun y => { y with
      c := { y.c with region := BitVec.ofNat 64 (8 + m.val), regend := label } }) (x.c.vpc + 4)))

/-- R155: `vlset` sets a counter, and `vlbr` counts one down and branches while it is not 0: the counters of the stream, or those of the VP. -/
def Sys2Proof.Claims.Loops : Prop :=
  ∀ (s : State) (n : CReg) (i : Imm13),
    let x := s.hart s.me
    let back (pc : Word) : Word := pc + i.signExtend 64 * 2
    (InStream s →
      exec (.vlset n i) s = .next (streamAt (s.onHart s.me fun y => { y with c := { y.c with cnt := withCounter x.c.cnt n i.toNat } }) (x.c.vpc + 4)) ∧
      (inFacet s s.me (threadFacet s s.me .stream) (back x.c.vpc) = true →
        let v := counterAt x.c.cnt n - 1
        exec (.vlbr n i) s = .next (streamAt (s.onHart s.me fun y => { y with c := { y.c with cnt := withCounter x.c.cnt n v } })
          (if v ≠ 0 then back x.c.vpc else x.c.vpc + 4)))) ∧
    (∀ (p : Fin 4096) (t : TVP), InVp s p → (x.live.tvps.find? fun y => y.vp == p) = some t → (∀ u ∈ x.live.tvps, u.vp = p → u = t) →
      exec (.vlset n i) s = .next (vpTo s p fun y => { y with cnt := withCounter t.cnt n i.toNat, undo := counterUndo t.cnt :: t.undo, pc := t.pc + 4 }) ∧
      (inFacet s s.me (threadFacet s s.me (.vp p)) (back t.pc) = true →
        let v := counterAt t.cnt n - 1
        exec (.vlbr n i) s = .next (vpTo s p fun y => { y with cnt := withCounter t.cnt n v, undo := counterUndo t.cnt :: t.undo
                                                               pc := if v ≠ 0 then back t.pc else t.pc + 4 })))

/-- R156: `vreply` posts its value for the stream's VPs, and event 0x104 where the reply queue was empty; it waits while that is full, and for the VPs of
earlier fetches, which R158 does not say of it (log 36). -/
def Sys2Proof.Claims.RepliesPosted : Prop :=
  ∀ (s : State) (m : MReg) (c : Fin 4), InStream s → MasksClean (s.hart s.me) m → ∀ k : Fin 12, Current (s.hart s.me) k →
    let x := s.hart s.me
    let e := x.c.vq[k]
    let on := (chosen s m).length
    let all := ((List.range 4096).filter (takesPart s)).length
    let facet := if e[1].toNat / 512 % 32 = 7 then (e[4] - e[5]).toNat / 64 else e[1].toNat / 16384 % 65536
    let value := match c with | 0 => if on = 0 then 0 else 1 | 1 => if on = all then 1 else 0 | 2 => if on = 0 then 1 else 0 | 3 => on
    let held := x.c.rqstate.toNat % 16
    let first := x.c.rqstate.toNat / 16 % 8
    (held = 8 ∨ ¬ Joined s → exec (.vreply m c) s = .next s) ∧
    (held < 8 → Joined s →
      let u := s.onHart s.me fun y => { y with c := { y.c with
        rq := Vector.ofFn fun j : Fin 8 => if j.val = (first + held) % 8 then BitVec.ofNat 64 (value + facet % 65536 * 2 ^ 32 + c.val * 2 ^ 48 + 2 ^ 63) else y.c.rq[j]
        rqstate := BitVec.ofNat 64 (held + 1 + 16 * first) } }
      exec (.vreply m c) s = .next (streamAt (if held = 0 then raiseEvent u s.me 3 0 else u) (x.c.vpc + 4)))

/-- R157: `qrecv` pops the oldest reply, writes 0 where none is left to come, and else waits; a waiting one is tried again. -/
def Sys2Proof.Claims.RepliesTaken : Prop :=
  (∀ (s : State), InControl s → ∀ d : GReg,
    let x := s.hart s.me
    let held := x.c.rqstate.toNat % 16
    let first := x.c.rqstate.toNat / 16 % 8
    (0 < held → held ≤ 8 → exec (.qrecv d) s = .next (wrote (s.onHart s.me fun y => { y with c := { y.c with
      rqstate := BitVec.ofNat 64 (held - 1 + 16 * ((first + 1) % 8)) } }) d x.c.rq[Fin.ofNat 8 first] 4)) ∧
    (held = 0 → vIdle x = true → exec (.qrecv d) s = .next (wrote s d 0 4)) ∧
    (held = 0 → vIdle x = false → exec (.qrecv d) s = .next (waiting s .qrecv))) ∧
  (∀ (s : State) (h : HartId) (bits : Nat) (u : State) (d : GReg), (s.hart h).state = .running → (s.hart h).live.wait = .qrecv →
    Moves s h →
    (fetchAt (whoS s h) false (s.hart h).c.pc.toNat).run.run s = (.ok bits, u) → decode (bits % 2 ^ (8 * parcelLen bits)) = some (.qrecv d) →
    let v := { u with cur := ⟨h, .control⟩ }
    let held := (u.hart h).c.rqstate.toNat % 16
    let first := (u.hart h).c.rqstate.toNat / 16 % 8
    (0 < held → held ≤ 8 → exec (.qrecvWake h) s = .next { wrote (v.onHart h fun y => { y with c := { y.c with
      rqstate := BitVec.ofNat 64 (held - 1 + 16 * ((first + 1) % 8)) } }) d (u.hart h).c.rq[Fin.ofNat 8 first] 4 with cur := s.cur }) ∧
    (held = 0 → vIdle (u.hart h) = true → exec (.qrecvWake h) s = .next { wrote v d 0 4 with cur := s.cur }) ∧
    (∃ t, exec (.qrecv d) v = .next t ∧ exec (.qrecvWake h) s = .next { t with cur := s.cur }))

/-- R150, R114: a queued `vadd` performs one element group, from VSI to the next boundary; with its last group it leaves the queue. -/
def Sys2Proof.Claims.QueuedGroups : Prop :=
  ∀ (s : State) (h : HartId) (d a b : VReg), UnitWorks s h →
    let x := s.hart h
    let e := x.c.vq[0]
    let vt := e[2].toNat
    let L := lanesOf s h
    let w := fmtWidth (vtEw vt)
    let n := groupRegs vt w
    let vl := e[3].toNat % 8192
    let lo := x.c.st[2].toNat
    let size := L * 64 / w
    let hi := min vl ((lo / size + 1) * size)
    x.c.vqcount = 1 → e[7].toNat % 4 = (if lo = 0 then 0 else 1) → e[1] = BitVec.ofNat 64 (encode (.vaddVv d a b none false)) →
    vt < 4096 → vtIllegal vt = false → vtEw vt ≤ 3 → d.val % n = 0 → a.val % n = 0 → b.val % n = 0 → x.live.tvps = [] →
    (slotN (s.slotWord h) = 1 ∨ slotN (s.slotWord h) = 2 ∨ slotN (s.slotWord h) = 4 ∨ slotN (s.slotWord h) = 8) →
    vl ≤ min 4096 (L * 256 * vtG vt / w) → lo < vl → lo % size = 0 → (∀ r : Fin 8, x.c.rays[r][0].toNat % 2 = 0) → (∀ j : Fin 32, x.live.vPois[j] = 0) →
    ∃ y : Hart, exec (.elementGroupComplete h) s = .next { s.setHart h y with
        storeNo := if lo = 0 ∨ x.live.vstore = 0 then 4096 * s.now + 1 else x.live.vstore } ∧
      (∀ i, i < n * (L * 256 / w) → element y.live.v L d.val w i =
        if lo ≤ i ∧ i < hi then (element x.live.v L a.val w i + element x.live.v L b.val w i) % 2 ^ w
        else if hi = vl ∧ vl ≤ i then 0 else element x.live.v L d.val w i) ∧
      (∀ j : Fin 32, j.val < d.val ∨ d.val + n ≤ j.val → y.live.v[j] = x.live.v[j]) ∧
      y.c.st[2] = (if hi = vl then 0 else BitVec.ofNat 64 hi) ∧ y.c.vqcount = (if hi = vl then 0 else 1) ∧
      y.c.g = x.c.g ∧ y.c.pc = x.c.pc ∧ y.c.st[4] = x.c.st[4] ∧ y.c.m = x.c.m

/-! Rays, copies, exit. -/

/-- R186, R191: `sbind` binds the first free ray (log 78) to the descriptor and joins the vector queue; a register that is bound, and a ninth ray,
are ray errors.  When it leaves the queue the ray is live and the register holds nothing. -/
def Sys2Proof.Claims.RaysBound : Prop :=
  (∀ (s : State), InControl s → ∀ (v : VReg) (a : GReg) (d : Vector Word 8), Descriptor s (gr s a).toNat d →
    let x := s.hart s.me
    (¬ Unbound x v → exec (.sbind v a) s = .next (trapped s 0x09 (BitVec.ofNat 64 (v.val + 0x1100)))) ∧
    (Unbound x v → (∀ r : Fin 8, x.c.rays[r][0].toNat % 2 = 1) → exec (.sbind v a) s = .next (trapped s 0x09 (BitVec.ofNat 64 (v.val + 0x1200)))) ∧
    (Unbound x v → ∀ r : Fin 8, x.c.rays[r][0].toNat % 2 = 0 → (∀ q : Fin 8, q < r → x.c.rays[q][0].toNat % 2 = 1) → queuedN x < 12 →
      exec (.sbind v a) s = .next (enqueued (s.onHart s.me fun y => { y with
        c := { y.c with rays := y.c.rays.set r (boundEntry v (gr s a) d) }, live := { y.live with rdesc := y.live.rdesc.set r d }
        rayRest := y.rayRest &&& ~~~(BitVec.ofNat 8 (2 ^ r.val)) })
        (captured s (.sbind v a) (gr s a) 0)))) ∧
  (∀ (s : State) (h : HartId) (v : VReg) (a : GReg) (r : Fin 8), AtHead s h (.sbind v a) → BoundTo (s.hart h) v r →
    exec (.sbindStart h) s = .next (s.onHart h fun x => emptied (rctl (shifted x) r fun w => w ||| 0x200) v))

/-- R187, R188: `sfree` of a load ray without a completion future ends the binding at once where the vector unit is idle; else it joins the
queue, and where the ray has no future the control thread stalls at it until it leaves that.  When it leaves the queue it ends the binding,
resolves the future and raises event 0x102; `sstat` reports.  A unit that a fault froze is not idle: the `sfree` waits in its queue (log 37,
log 42). -/
def Sys2Proof.Claims.RaysFreed : Prop :=
  (∀ (s : State), InControl s → ∀ (v : VReg),
    let x := s.hart s.me
    (x.live.wait = .sfree → exec (.sfree v) s = .next s) ∧
    (x.live.wait ≠ .sfree → Unbound x v → exec (.sfree v) s = .next (trapped s 0x09 (BitVec.ofNat 64 (v.val + 0x2000)))) ∧
    (x.live.wait ≠ .sfree → ∀ r : Fin 8, BoundTo x v r →
      (descWord s s.me r 6 ≠ 0 → queuedN x < 12 → exec (.sfree v) s = .next (enqueued s (captured s (.sfree v) 0 0))) ∧
      (descWord s s.me r 6 = 0 → (vIdle x = false ∨ x.live.frozen = true) → queuedN x < 12 →
        exec (.sfree v) s = .next (waiting (joined s (captured s (.sfree v) 0 0)) .sfree)) ∧
      (descWord s s.me r 6 = 0 → vIdle x = true → x.live.frozen = false → rayAtWord s s.me r 0 / 64 % 2 = 0 → rayAtWord s s.me r 0 / 2 ^ 24 % 256 = 0 →
        exec (.sfree v) s = .next (passed (s.onHart s.me fun y => emptied (rctl y r fun w => w &&& ~~~rctlEnds) v) 4)))) ∧
  (∀ (s : State) (h : HartId) (v : VReg) (r : Fin 8) (p : Xl), AtHead s h (.sfree v) → BoundTo (s.hart h) v r →
    rayAtWord s h r 0 / 64 % 2 = 0 → rayAtWord s h r 0 / 2 ^ 24 % 256 = 0 → descWord s h r 6 ≠ 0 → (s.hart h).live.wait ≠ .sfree → Unscrubbed s →
    Clear s (rayWho s h) .atomic (descWord s h r 6) 8 p → futureState (memRead s.mem p.pa 8) = 0 →
    exec (.sfreeAct h) s = .next ((raiseEvent (performed (s.onHart h shifted) p.pa 8 2) h 1 (BitVec.ofNat 64 (descWord s h r 6))).onHart h
      fun y => emptied (rctl y r fun w => w &&& ~~~rctlEnds) v)) ∧
  (∀ (s : State) (h : HartId) (v : VReg) (r : Fin 8), AtHead s h (.sfree v) → BoundTo (s.hart h) v r →
    rayAtWord s h r 0 / 64 % 2 = 0 → rayAtWord s h r 0 / 2 ^ 24 % 256 = 0 → descWord s h r 6 = 0 →
    (s.hart h).live.wait = .sfree → (s.hart h).c.pc = (s.hart h).c.vq[0][0] →
    exec (.sfreeAct h) s = .next (s.onHart h fun x =>
      let y := emptied (rctl (shifted x) r fun w => w &&& ~~~rctlEnds) v
      { y with c := { y.c with pc := y.c.pc + 4 }, live := { y.live with wait := .none } })) ∧
  (∀ (s : State), InControl s → ∀ (d : GReg) (v : VReg), queuedN (s.hart s.me) = 0 →
    (Unbound (s.hart s.me) v → exec (.sstat d v) s = .next (wrote s d 0 4)) ∧
    (∀ r : Fin 8, BoundTo (s.hart s.me) v r →
      let h := s.me
      let dir := rayAtWord s h r 0 / 64 % 2
      let avail := if dir = 1 then posOf s h r - heldOf s h r - engOf s h r else engOf s h r - posOf s h r
      let ended := if dir = 1 then engOf s h r = posOf s h r - heldOf s h r else posOf s h r = descWord s h r 1 % 2 ^ 32
      exec (.sstat d v) s = .next (wrote s d (BitVec.ofNat 64 (avail % 2 ^ 32 + 2 ^ 32 + dir * 2 ^ 33 + rayAtWord s h r 0 / 128 % 2 * 2 ^ 34
        + (if ended then 2 ^ 35 else 0) + rayAtWord s h r 0 / 2 ^ 24 % 256 * 2 ^ 36)) 4)))

/-- R185, R191, R194, R200: the engine fetches the next element of a load ray into its ring, drains the next appended one of a store ray,
and records a fault of the move in the ray's entry and in its own page, which is that of engine 0 of the tile (log 43).  What the hart's V
agent has stored is performed before the move (log 70). -/
def Sys2Proof.Claims.RaysMove : Prop :=
  ∀ (s : State) (h : HartId) (r : Fin 8) (x y : Xl),
    let n := elemBytes s h r
    let k := engOf s h r
    let w := rayWho s h
    (Streaming s h r 0 → k < descWord s h r 1 % 2 ^ 32 → k < posOf s h r - heldOf s h r + ringHolds s h r →
      ((s.hart h).live.vfence = false → Clear s w .load (inStreamAt s h r k) n x → Clear s w .store (inRingAt s h r k) n y →
        exec (.rayPrefetch h r) s = .next (engAt (performed s y.pa n (memRead s.mem x.pa n)) h r (k + 1))) ∧
      (inStreamAt s h r k % n ≠ 0 →
        exec (.rayEngineFault h r) s = .next (engineFaulted ((performHart s h).onHart h fun z =>
          let e := ((z.c.rays[r].set 0 (BitVec.ofNat 64 (rayAtWord s h r 0 + 7 * 2 ^ 24))).set 5 (BitVec.ofNat 64 (inStreamAt s h r k))).set 6
            (BitVec.ofNat 64 (3 + 256 * k))
          { z with c := { z.c with rays := z.c.rays.set r e } }) (4 * (tileOf h).val) 3 (BitVec.ofNat 64 (inStreamAt s h r k))))) ∧
    (Streaming s h r 1 → k < posOf s h r - heldOf s h r → (s.hart h).live.vfence = false →
      Clear s w .load (inRingAt s h r k) n x → Clear s w .store (inStreamAt s h r k) n y →
      exec (.rayDrain h r) s = .next (engAt (performed s y.pa n (memRead s.mem x.pa n)) h r (k + 1)))

/-- R196, R198: `scopy` and `scopyb` fork a copy of VL elements' bytes, in strips, and go on; the object's address is checked.  What stands dirty in the
tile's data cache goes home first (R64; log 7). -/
def Sys2Proof.Claims.CopiesForked : Prop :=
  ∀ (s : State), InControl s → ∀ (d a b : GReg) (x : Xl),
    let vt := (s.hart s.me).c.vt
    let n := vlOf s * fmtWidth (vtEw vt) / 8
    let u := sendHome s (tileOf s.me)
    ∀ p ∈ ([(.scopy d a b, 0), (.scopyb d a b, 1)] : List (Instr × Fin 3)), trimPending s s.me = false → vt < 2 ^ 63 →
      (fmtWidth (vtEw vt) < 8 → exec p.1 s = .next (trapped s 0x01 (BitVec.ofNat 64 (encode p.1)))) ∧
      (8 ≤ fmtWidth (vtEw vt) → (gr s b).toNat % 8 ≠ 0 → exec p.1 s = .next (trapped s 0x03 (gr s b))) ∧
      (8 ≤ fmtWidth (vtEw vt) → (gr s b).toNat % 8 = 0 → xlate s (whoS s s.me) .store (gr s b).toNat = .ok x →
        (x.region = .host → exec p.1 s = .next (trapped s 0x05 (gr s b))) ∧
        (x.region ≠ .host → eKind x.leaf = 2 → exec p.1 s = .next (trapped s 0x0E (gr s b))) ∧
        (x.region ≠ .host → eKind x.leaf ≠ 2 → n ≠ 0 → ∃ k, (∀ q ∈ s.copies, q.1 < k) ∧ exec p.1 s = .next (passed
          ({ u with copies := s.copies ++ [(k, newCopy s (gr s a) (gr s d) (gr s b) n p.2)] }.later (.copyStripTake (Fin.ofNat 2048 (4 * (tileOf s.me).val)))) 4)) ∧
        (x.region ≠ .host → eKind x.leaf ≠ 2 → n = 0 → p.2 = 1 → exec p.1 s = .next (passed (raiseEvent u s.me 0 (gr s b)) 4)))

/-- R197, R200: an idle engine takes the lowest strip of its own tile's copies (one that touches no page whose bytes go in order). -/
def Sys2Proof.Claims.StripsTaken : Prop :=
  ∀ (s : State) (e : EngineId) (n o : Nat) (r : List Nat) (c : Copy), (s.engine e.val).strip = none → s.copies = [(n, c)] →
    c.tile.val = e.val / 4 → c.suspended = false → (s.func c.iss.func).inSlice = true → c.untaken = o :: r → o ∉ r → stripOrdered s c o = false →
    let len := min 4096 (c.len - o)
    let w := (s.engine e.val).w
    exec (.copyStripTake e) s = .next (({ s with copies := [(n, { c with untaken := r, running := c.running + 1 })] }.setEngine e.val
      { strip := some (n, o, len)
        w := ((((w.set 0 (BitVec.ofNat 64 (1 + 256 * (c.iss.func % 256)))).set 1 (c.src + BitVec.ofNat 64 o)).set 2 (c.dst + BitVec.ofNat 64 o)).set 3
          (BitVec.ofNat 64 len)).set 4 c.obj }).later (.copyStripComplete e))

/-- R197, R198: a strip that completes has moved its bytes and no others; the last strip of an `scopy` resolves the future and raises
event 0x101. -/
def Sys2Proof.Claims.StripsDone : Prop :=
  ∀ (s : State) (e : EngineId) (n off len : Nat) (c : Copy) (x y : Nat → Xl), Carries s e n off len c → StripClear s c off len x y → c.kind ≠ 1 →
    (s.copies.map (·.1)).Nodup →
    (2 ≤ c.running ∨ c.untaken ≠ [] → ∃ t, exec (.copyStripComplete e) s = .next t ∧
      (∀ i, i < len → memGet t.mem (y i).pa = memGet s.mem (x i).pa) ∧
      (∀ a, (∀ i, i < len → a ≠ (y i).pa) → memGet t.mem a = memGet s.mem a) ∧
      t.copies.lookup n = some { c with running := c.running - 1 } ∧ (t.engine e.val).strip = none ∧
      (∀ h, (t.hart h).c = (s.hart h).c) ∧ t.queues = s.queues ∧ t.kernels = s.kernels) ∧
    (c.running = 1 → c.untaken = [] → c.failed = false → c.kind = 0 → c.obj ≠ 0 → Unscrubbed s → ∀ (h : HartId) (p : Xl), c.iss.hart = some h →
      Clear s (c.iss.eng c.tile) .atomic c.obj.toNat 8 p → futureState (memRead s.mem p.pa 8) = 0 →
      (∀ i, i < len → (y i).pa + 1 ≤ p.pa ∨ p.pa + 8 ≤ (y i).pa) → (s.hart h).state = .running → (s.tile (tileOf h)).gchg = false →
      ∃ t, exec (.copyStripComplete e) s = .next t ∧ (∀ i, i < len → memGet t.mem (y i).pa = memGet s.mem (x i).pa) ∧
        memRead t.mem p.pa 8 = 2 ∧ t.copies.lookup n = none ∧ (t.engine e.val).strip = none ∧
        (t.hart h).c.st[11] = (s.hart h).c.st[11] ||| 1#64 ∧ (t.hart h).evval[0] = c.obj)

/-- R198, R200: a strip whose source cannot be read stops its copy: the engine records the cause and the address, event 0x101 is raised, and
the remaining strips are abandoned. -/
def Sys2Proof.Claims.StripsFault : Prop :=
  ∀ (s : State) (e : EngineId) (n off len : Nat) (c : Copy) (tr : Trap) (h : HartId), Carries s e n off len c → 0 < len → 2 ≤ c.running →
    (c.src.toNat + off) < 2 ^ 64 → xlate s (c.iss.eng c.tile) .load (c.src.toNat + off) = .error tr → c.iss.hart = some h →
    (s.hart h).state = .running → (s.tile (tileOf h)).gchg = false →
    ∀ i ∈ ([.copyStripFault e, .copyStripComplete e] : List Instr), ∃ t, exec i s = .next t ∧
      t.copies.lookup n = some { c with untaken := [], failed := true, running := c.running - 1 } ∧ (t.engine e.val).strip = none ∧
      (t.engine e.val).w[5] = BitVec.ofNat 64 (tr.cause + 256) ∧ (t.engine e.val).w[6] = tr.tval ∧ (t.engine e.val).w[7] = (s.engine e.val).w[7] + 1 ∧
      (t.hart h).c.st[11] = (s.hart h).c.st[11] ||| 1#64 ∧ (t.hart h).evval[0] = c.obj ∧ t.mem = s.mem

/-- R216: `exit` waits for vector work, and then leaves the hart EXITED with its context in the images, PC after the `exit`, and its slot bound
to no kernel. -/
def Sys2Proof.Claims.Exits : Prop :=
  ∀ (s : State), InControl s →
    let x := s.hart s.me
    (vIdle x = false → exec .exit s = .next (waiting s .exit)) ∧
    (vIdle x = true → (∀ r : Fin 8, x.c.rays[r][0].toNat % 2 = 0) → x.live.late = none → ∃ t, exec .exit s = .next t ∧
      (t.hart s.me).state = .exited ∧ (t.hart s.me).img.pc = x.c.pc + 4 ∧ (t.hart s.me).img.g = x.c.g ∧ (t.hart s.me).img.sh = x.c.sh ∧
      (∀ i : Fin 18, i.val ∈ [0, 1, 2, 3, 4, 6, 7, 8, 9, 10, 11, 17] → (t.hart s.me).img.st[i] = x.c.st[i]) ∧
      (t.hart s.me).img.inh = x.c.inh ∧ (t.hart s.me).nstop = x.nstop + 1 ∧ (t.hart s.me).lcause = x.lcause ∧
      (t.tile (tileOf s.me)).bind[slotOf s.me] = 0)

/-! Tangent regions. -/

/-- R158, R278, R277: `apx` waits until every VP of earlier fetches has stopped and every earlier queued instruction has completed.  Then,
with its slot OFF, it makes the dependency read, counts the call, opens the region and goes on into it, and TSTAGE and TNUM stand; with
a region open already, in the hands of another hart, or on a quarantined tile (R20, as log 61 reads it), it traps.  The dependency read
performs what the hart has stored and what stands dirty in the range (log 7, log 70), and nothing else.  A unit that a fault froze is
waited for too (log 37). -/
def Sys2Proof.Claims.RegionsOpen : Prop :=
  ∀ (s : State) (k : Fld5) (i : Imm13),
    let n := slotOfK s k
    let j := joinV s s.me
    let u := depended s n
    let sl := u.tslot n
    (OpensRegion s k i → sl.st = 0 → exec (.apx k i) s = .next (passed (regionAt (u.setTslot n { sl with calls := sl.calls + 1 })
      (openedTreg s k) sl.epoch) 4)) ∧
    (InControl s → (s.hart s.me).live.wait ≠ .apx → vIdle (s.hart s.me) = false → exec (.apx k i) s = .next (waiting s .join)) ∧
    (InControl s → (s.hart s.me).live.wait ≠ .apx → vIdle (s.hart s.me) = true →
      ((s.hart s.me).c.treg.toNat / 4 % 2 = 1 → exec (.apx k i) s = .next (trapped j 0x01 (BitVec.ofNat 64 (encode (.apx k i))))) ∧
      ((s.hart s.me).c.treg.toNat / 4 % 2 = 0 → TileThere s → ¬ Owns s n →
        exec (.apx k i) s = .next (trapped j 0x05 (BitVec.ofNat 64 (0x200300000000 + n * 0x4000)))) ∧
      ((s.hart s.me).c.treg.toNat / 4 % 2 = 0 → ¬ TileThere s →
        exec (.apx k i) s = .next (trapped j 0x04 (BitVec.ofNat 64 (0x200300000000 + n * 0x4000))))) ∧
    -- where nothing is dirty and nothing stored is unperformed, the dependency read changes nothing
    (s.dcache = [] → s.vbuf = [] → (s.hart s.me).live.vfence = false → u = s)

/-- R278, R272: with its slot FITTED, and in a call that is not sampled, `apx` writes the surrogate's outputs to the active elements and goes
behind the region. -/
def Sys2Proof.Claims.RegionsAnswered : Prop :=
  ∀ (s : State) (k : Fld5) (i : Imm13), OpensRegion s k i → Ready s →
    let n := slotOfK s k
    let sl := (depended s n).tslot n
    let g := vtG (s.hart s.me).c.vt
    let period := if sl.samp.toNat % 65536 = 0 then 65536 else sl.samp.toNat % 65536
    sl.st = 2 → (sl.calls + 1).toNat % period ≠ 0 → vtEw (s.hart s.me).c.vt = 8 → vlOf s ≤ 512 → vsiOf s = 0 →
    sl.shape.toNat / 2048 % 32 + ninOf sl * g ≤ 32 → voutOf sl + noutOf sl * g ≤ 32 →
    ∃ t, exec (.apx k i) s = .next t ∧
      t.tslot n = { sl with calls := sl.calls + 1 } ∧ pcOf t = pcOf s + BitVec.ofNat 64 (2 * i.toNat) ∧ (t.hart s.me).c.treg = (s.hart s.me).c.treg ∧
      (∀ o j, o < noutOf sl → j < vlOf s → element (t.hart s.me).live.v (lanesOf s s.me) (voutOf sl + o * g) 32 j
        = ((surrogate sl (inputsOf s sl j)).y.getD o 0) % 2 ^ 32) ∧
      (∀ r : Fin 32, r.val < voutOf sl ∨ voutOf sl + noutOf sl * g ≤ r.val → (t.hart s.me).live.v[r] = (s.hart s.me).live.v[r]) ∧
      (s.dcache = [] → s.vbuf = [] → t.mem = s.mem) ∧ (t.hart s.me).c.g = (s.hart s.me).c.g

/-- R280, R281: `apxend` waits as `apx` does (R158; of a frozen unit too: log 37); it closes a region of an OFF slot, and one whose slot has
changed meanwhile, with no further effect; outside a region it is illegal.  `apxinv` invalidates its slot; on a quarantined tile it
traps as an access of the slot's page does (R20; log 61). -/
def Sys2Proof.Claims.RegionsEnd : Prop :=
  ∀ (s : State), InControl s → ∀ (k : Fld5),
    let x := s.hart s.me
    let t := x.c.treg.toNat
    let n := slotOfK s k
    let j := joinV s s.me
    (vIdle x = false → exec (.apxend k) s = .next (waiting s .join)) ∧
    (t / 4 % 2 = 0 → vIdle x = true → exec (.apxend k) s = .next (trapped j 0x01 (BitVec.ofNat 64 (encode (.apxend k))))) ∧
    (t / 4 % 2 = 1 → t / 8 % 2 = 0 → t % 4 = k.val % 4 → vIdle x = true → TileThere s → Owns s n →
      (t / 16 % 4 = 0 ∨ ((s.tslot n).st ≠ t / 256 % 8 ∨ (s.tslot n).epoch ≠ x.c.tepoch) ∧ vtEw x.c.vt = 8 ∧ x.c.vt < 2 ^ 63) →
      exec (.apxend k) s = .next (passed (regionShut j) 4)) ∧
    (¬ TileThere s → exec (.apxinv k) s = .next (trapped s 0x04 (BitVec.ofNat 64 (0x200300000000 + n * 0x4000)))) ∧
    (TileThere s → Owns s n → exec (.apxinv k) s = .next (passed (s.setTslot n (invalidated (s.tslot n))) 4)) ∧
    (TileThere s → ¬ Owns s n → exec (.apxinv k) s = .next (trapped s 0x05 (BitVec.ofNat 64 (0x200300000000 + n * 0x4000))))

/-- R286, R291: an `apx` that waits is tried again when its dependency read has returned: where its slot is OFF and no step is queued it
opens the region.  Its checks, its join and its dependency read were made before it waited. -/
def Sys2Proof.Claims.RegionsRetried : Prop :=
  ∀ (s : State) (h : HartId) (bits : Nat) (u : State) (k : Fld5) (i : Imm13), (s.hart h).state = .running → (s.hart h).live.wait = .apx →
    Moves s h →
    (fetchAt (whoS s h) false (s.hart h).c.pc.toNat).run.run s = (.ok bits, u) → decode (bits % 2 ^ (8 * parcelLen bits)) = some (.apx k i) →
    let v := { u with cur := ⟨h, .control⟩ }
    let n := slotOfK v k
    (∃ t, exec (.apx k i) v = .next t ∧ exec (.dependencyReadComplete h) s = .next { t with cur := s.cur }) ∧
    ((v.hart h).live.wait = .apx → (v.tslot n).steps = 0 → (v.tslot n).st = 0 → exec (.dependencyReadComplete h) s = .next
      { passed (regionAt (v.setTslot n { v.tslot n with calls := (v.tslot n).calls + 1 }) (openedTreg v k) (v.tslot n).epoch) 4
        with cur := s.cur })

/-- R274, R275: the commands of a slot page.  An ENABLE or LOAD that a check refuses records the check's number and changes nothing else.
One of a slot that is not OFF keeps SBPHYS: R271 says that the command latches it, R275 only of a slot that is OFF (log 61). -/
def Sys2Proof.Claims.SlotCommands : Prop :=
  ∀ (s : State) (k : TSlotId),
    let sl := s.tslot k.val
    let batch := sl.samp.toNat / 65536 % 256
    let fits := sl.samp.toNat / 2 ^ 32 % 256
    let ok (x : Nat) : Prop := x % 2 ^ 31 ≤ 0x7F800000 ∧ x ≤ 0x80000000
    let lo := 0x100000000000 + 0x200000 * (k.val / 4)
    let range := sl.depbase.toNat % 64 = 0 ∧ sl.deplimit.toNat % 64 = 0 ∧ sl.depbase.toNat ≤ sl.deplimit.toNat ∧
      (sl.depbase = sl.deplimit ∨ (lo ≤ sl.depbase.toNat ∧ sl.deplimit.toNat ≤ lo + 0x200000))
    (sl.owner.toNat / 256 % 2 = 0 → ∀ i ∈ ([.enable k, .load k] : List Instr), exec i s = .next (s.setTslot k.val { sl with cerr := 1 })) ∧
    (sl.owner.toNat / 256 % 2 = 1 → (batch = 0 ∨ fits = 0) → ∀ i ∈ ([.enable k, .load k] : List Instr),
      exec i s = .next (s.setTslot k.val { sl with cerr := 2 })) ∧
    (sl.owner.toNat / 256 % 2 = 1 → batch ≠ 0 → fits ≠ 0 → ok (sl.thr.toNat % 2 ^ 32) → ok (sl.thr.toNat / 2 ^ 32) → range →
      ∀ p, sampleRing s k.val sl = some p →
      let fresh := { sl with cerr := 0, epoch := sl.epoch + 1, sbphys := BitVec.ofNat 64 p, calls := 0, fallbacks := 0, invals := 0 }
      (sl.st = 0 → exec (.enable k) s = .next (s.setTslot k.val { resetSlot fresh with st := 1 }) ∧
        exec (.load k) s = .next (s.setTslot k.val { resetSlot fresh with w := sl.w, st := 2 })) ∧
      (sl.st ≠ 0 → exec (.enable k) s = .next (s.setTslot k.val
          { resetSlot sl with cerr := 0, epoch := sl.epoch + 1, st := 1, invals := sl.invals + 1 }) ∧
        exec (.load k) s = .next (s.setTslot k.val
          { sl with cerr := 0, epoch := sl.epoch + 1, st := 2, sbcount := 0, good := 0, steps := 0 }))) ∧
    exec (.disable k) s = .next (s.setTslot k.val { sl with st := 0, steps := 0, epoch := sl.epoch + 1 }) ∧
    exec (.invalidate k) s = .next (s.setTslot k.val (invalidated sl))

/-- R282, R275, R287: a step trains on the BATCH oldest samples and frees them; FITBATCHES good ones in a row make the slot FITTED; none is made
while the function is switched out, or has been and no hart of it has run on the tile since (log 57), and in a gear change it is put off. -/
def Sys2Proof.Claims.TrainingSteps : Prop :=
  ∀ (s : State) (k : TSlotId) (xs : List (List Nat × List Nat)),
    let sl := s.tslot k.val
    let batch := sl.samp.toNat / 65536 % 256
    let fits := sl.samp.toNat / 2 ^ 32 % 256
    let t : TileId := Fin.ofNat 512 (k.val / 4)
    ((s.func (sl.owner.toNat / 65536 % 32)).inSlice = false ∨ sl.held = true → exec (.trainingStep k) s = .next s) ∧
    ((s.func (sl.owner.toNat / 65536 % 32)).inSlice = true → sl.held = false → (s.tile t).quar = false → (s.tile t).gchg = true →
      sl.steps ≠ 0 → (sl.st = 1 ∨ sl.st = 3) →
      exec (.trainingStep k) s = .next { s with agenda := s.agenda ++ [.own, .event (.trainingStep k)] }) ∧
    ((s.func (sl.owner.toNat / 65536 % 32)).inSlice = true → sl.held = false → (s.tile t).quar = false → (s.tile t).gchg = false → sl.steps ≠ 0 → (sl.st = 1 ∨ sl.st = 3) → Samples s sl batch xs →
      let w := (trained sl xs).1.w
      let next := { sl with w := w, sbhead := (sl.sbhead + batch) % 1024, sbcount := sl.sbcount - batch, steps := sl.steps - 1 }
      exec (.trainingStep k) s = .next (s.setTslot k.val (
        if (trained sl xs).2 = false then { next with good := 0 }
        else if sl.good + 1 = fits then { next with st := 2, good := 0, sbcount := 0, steps := 0 }
        else { next with good := (sl.good + 1) % 256 })))

/-! Contexts, slices, pages, errors. -/

/-- R206, R208: RESUME and STEP of a parked hart restore it from its images; of a running one RESUME has no effect and STEP begins a stop; of
a stopping one they latch or clear; outside its slice, and in a mode of its cluster (R332; log 81), they are held; and one that is refused
is FAULTED. -/
def Sys2Proof.Claims.HartsStart : Prop :=
  ∀ (s : State) (h : HartId),
    (Parked s h → MayRun s h → Startable s h →
      (∃ t, exec (.resume h) s = .next t ∧ (t.hart h).state = .running ∧ Restored (s.hart h).img (t.hart h)) ∧
      (∃ t, exec (.step h) s = .next t ∧ (t.hart h).state = .stopping ∧ (t.hart h).step1 = true ∧ Restored (s.hart h).img (t.hart h))) ∧
    (Parked s h → MayRun s h → (s.hart h).space.toNat % 0x4000 = 0 → (s.hart h).space.toNat < 2 ^ 48 →
      (s.hart h).vsave.toNat % 0x4000 = 0 → (s.hart h).vsave.toNat < 2 ^ 48 → 5 ≤ (s.hart h).img.st[3].toNat / 4 →
      ∃ t, exec (.resume h) s = .next t ∧ (t.hart h).state = .faulted ∧ (t.hart h).lcause = 5 ∧ (t.hart h).nstop = (s.hart h).nstop + 1 ∧
        (t.hart h).img.st[7] = 5 ∧ (t.hart h).img.st[8] = (s.hart h).img.st[3] ∧ (t.hart h).img.st[9] = (s.hart h).img.pc) ∧
    (Parked s h → ¬ MayRun s h → exec (.resume h) s = .next (s.onHart h fun x => { x with held := some false })
      ∧ exec (.step h) s = .next (s.onHart h fun x => { x with held := some true })) ∧
    ((s.hart h).state = .running → exec (.resume h) s = .next s
      ∧ exec (.step h) s = .next (gearCheck ((s.onHart h fun x => { x with state := .stopping }).later (.saveComplete h)) (tileOf h))) ∧
    ((s.hart h).state = .stopping → exec (.resume h) s = .next (s.onHart h fun x => { x with latched := true })
      ∧ exec (.step h) s = .next (s.onHart h fun x => { x with latched := false }))

/-- R206, R207, R218: STOP of a running hart begins a stop, at whose end its context stands in the images and NSTOP counts it; a gear change
and an access that waits for the outside come first (R90, R297), and so does an `exit` that can complete; in a mode of its cluster it does not
move (R332; log 81); CLEAR of a parked one zeroes its images. -/
def Sys2Proof.Claims.HartsStop : Prop :=
  ∀ (s : State) (h : HartId),
    ((s.hart h).state = .running → exec (.stop h) s = .next (gearCheck
      ((s.onHart h fun x => { x with state := .stopping }).later (.saveComplete h)) (tileOf h))) ∧
    (Parked s h → exec (.stop h) s = .next (s.onHart h fun x => { x with held := none })) ∧
    (StopReady s h → (s.hart h).latched = false → ∃ t, exec (.saveComplete h) s = .next t ∧ (t.hart h).state = .stopped ∧
      (t.hart h).nstop = (s.hart h).nstop + 1 ∧ Saved (s.hart h).c (t.hart h)) ∧
    ((s.hart h).state = .stopping → (s.hart h).step1 = false → (s.hart h).falling = false →
      ((s.tile (tileOf h)).gchg = true → exec (.saveComplete h) s = .next (s.later (.saveComplete h))) ∧
      ((s.tile (tileOf h)).gchg = false → ¬ ClusterFree s h →
        exec (.saveComplete h) s = .next { s with agenda := s.agenda ++ [.own, .event (.saveComplete h)] }) ∧
      (Moves s h → (s.hart h).live.wait.isOutside = true →
        exec (.saveComplete h) s = .next { s with agenda := s.agenda ++ [.run ⟨h, .control⟩, .event (.saveComplete h)] }) ∧
      (Moves s h → (s.hart h).live.wait.isOutside = false → (s.hart h).live.tvps = [] → (s.hart h).live.vfault = none →
        exitsNow s h = true → ∃ t, exec (.saveComplete h) s = .next t ∧ (t.hart h).state = .exited ∧ (t.hart h).nstop = (s.hart h).nstop + 1)) ∧
    (StopReady s h → (s.hart h).latched = true → (s.hart h).space.toNat % 0x4000 = 0 → (s.hart h).space.toNat < 2 ^ 48 →
      (s.hart h).vsave.toNat % 0x4000 = 0 → (s.hart h).vsave.toNat < 2 ^ 48 → (s.hart h).c.st[3].toNat < 20 → (s.slotWord h).toNat % 16 ≠ 0 → ∃ t, exec (.saveComplete h) s = .next t ∧
      (t.hart h).state = .running ∧ (t.hart h).nstop = (s.hart h).nstop + 1 ∧ (t.hart h).c.pc = (s.hart h).c.pc ∧ (t.hart h).c.g = (s.hart h).c.g) ∧
    (Parked s h → ∃ t, exec (.clear h) s = .next t ∧ (t.hart h).state = .empty ∧ (t.hart h).space = 0 ∧ (t.hart h).vsave = 0 ∧
      (t.hart h).img = {} ∧ (t.hart h).img.st[1] = 0x8000000000000000#64 ∧ (t.tile (tileOf h)).bind[slotOf h] = 0 ∧ (t.hart h).func = (s.hart h).func) ∧
    ((s.hart h).state = .running → exec (.clear h) s = .next s)

/-- R199, R329 to R331: a world switch, once every hart of the outgoing function has stopped and no engine carries a strip of it, suspends its
copies and begins the slice of the function that is served, whose remembered harts resume and whose copies are released; until then its
harts go to their stops.  Where another function still holds tiles of the incoming one, it waits (log 23).  A function that is served again
runs on, and those passed over count it.  A budget that is used up ends a slice, and the function that is served next begins its own. -/
def Obligations.Slices : Prop :=
  (∀ (s : State) (a b : FuncId), nextServed s a.val = some b.val →
    (a ≠ b → (s.func a.val).inSlice = true → (∀ h ∈ hartsOf s a.val, Parked s h) → Flushed s a.val → SliceFree s a b →
      ∃ t, exec (.worldSwitch a b) s = .next t ∧ SliceBegun s t b ∧ (t.func a.val).inSlice = false ∧
      (∀ n c, s.copies.lookup n = some c → c.iss.func = a.val → ∃ d, t.copies.lookup n = some d ∧ d.suspended = true ∧ d.untaken = c.untaken)) ∧
    (a ≠ b → (s.func a.val).inSlice = true → ((∃ h ∈ hartsOf s a.val, ¬ Parked s h) ∨ ¬ Flushed s a.val) → ∃ t, exec (.worldSwitch a b) s = .next t ∧
      (t.func a.val).inSlice = true ∧ Turn.event (.worldSwitch a b) ∈ t.agenda ∧
      (∀ n c, s.copies.lookup n = some c → c.iss.func = a.val → ∃ d, t.copies.lookup n = some d ∧ d.suspended = true) ∧
      ∀ h ∈ hartsOf s a.val, (s.hart h).state = .running →
        (t.hart h).state = .stopping ∧ (t.hart h).remembered = true ∧ Turn.event (.saveComplete h) ∈ t.agenda) ∧
    ((s.func a.val).inSlice = false → SliceFree s a b → ∃ t, exec (.worldSwitch a b) s = .next t ∧ SliceBegun s t b) ∧
    ((s.func a.val).inSlice = false → (s.func b.val).inSlice = false →
      (∃ f : FuncId, f ≠ b ∧ (s.func f.val).w[0].toNat % 2 = 1 ∧ (s.func f.val).inSlice = true ∧ partitionsMeet (s.func b.val) (s.func f.val) = true) →
      exec (.worldSwitch a b) s = .next { s with agenda := s.agenda ++ [.own, .event (.worldSwitch a b)] }) ∧
    (a = b → (s.func a.val).inSlice = true → ∃ t, exec (.worldSwitch a b) s = .next t ∧ t = { s with funcs := t.funcs } ∧
      (t.func a.val).inSlice = true ∧ (t.func a.val).passed = 0 ∧ (t.func a.val).w[7] = 0 ∧
      ∀ f : FuncId, f ≠ a → partitionsMeet (s.func a.val) (s.func f.val) = true →
        (t.func f.val).passed = if f.val ∈ contenders s a.val then (s.func f.val).passed + 1 else 0)) ∧
  (∀ (s : State) (a b : FuncId), nextServed s a.val ≠ some b.val → (∀ h ∈ hartsOf s a.val, (s.hart h).remembered = false) →
    exec (.worldSwitch a b) s = .next s) ∧
  (∀ (s : State) (f : FuncId),
    let used := decide ((s.func f.val).w[4].toNat / 2 ^ 32 ≠ 0 ∧ (s.func f.val).w[4].toNat / 2 ^ 32 ≤ funcUsed s f.val)
    ((used = false ∨ (s.func f.val).inSlice = false) → exec (.budgetExhausted f) s = .next s) ∧
    -- the end of the step in which USED reaches BUDGET sees it
    (used = true → (s.func f.val).inSlice = true → Turn.event (.budgetExhausted f) ∈ (charge s).agenda) ∧
    (used = true → (s.func f.val).inSlice = true → (∀ h ∈ hartsOf s f.val, Parked s h) → Flushed s f.val →
      ∃ t, exec (.budgetExhausted f) s = .next t ∧ (t.func f.val).inSlice = false ∧ t.harts = s.harts ∧ t.mem = s.mem ∧
        (∀ b : FuncId, nextServed { t with agenda := s.agenda } f.val = some b.val → t.agenda = s.agenda ++ [.event (.worldSwitch f b)])) ∧
    (used = true → (s.func f.val).inSlice = true → ((∃ h ∈ hartsOf s f.val, ¬ Parked s h) ∨ ¬ Flushed s f.val) →
      ∃ t, exec (.budgetExhausted f) s = .next t ∧ (t.func f.val).inSlice = true ∧ Turn.event (.budgetExhausted f) ∈ t.agenda ∧
      (∀ h ∈ hartsOf s f.val, (s.hart h).state = .running → (t.hart h).state = .stopping ∧ (t.hart h).remembered = true) ∧
      (∀ n c, s.copies.lookup n = some c → c.iss.func = f.val → ∃ d, t.copies.lookup n = some d ∧ d.suspended = true)))

/-- R54, R201, R202, R21, R246: what stores to pages do.  Of a parked hart, a store by the root core, a hart, a function core or a peer sets an
image, and of a hart on the core it does not; the root core clears an error log, and no other agent; TAIL and HEAD of a queue take what
leaves no more entries than fit, and a store to ERR clears it and HALT; the function core of a HOSTCMD queue then looks at it (R254).
Where the line of the page is watched by a `wait`, that returns (R217). -/
def Sys2Proof.Claims.PageStores : Prop :=
  ∀ (s : State) (v : Word), TablesInHbm s →
    (∀ (h : HartId) (ag : Agent), (∀ f, ag ≠ .host f) → (s.tile (tileOf h)).quar = false → ∀ p ∈ imageWords,
      let pa : BitVec 48 := BitVec.ofNat 48 (0x200000000000 + h.val * 0x4000 + p.1)
      (Parked s h → exec (.controlPageWrite ag pa v) s = .next (wakeWaits ((storesAfter s ag).onHart h fun x => p.2 x v) pa.toNat 8)) ∧
      (¬ Parked s h → exec (.controlPageWrite ag pa v) s = .next s)) ∧
    (∀ (t : TileId), (s.tile t).quar = false →
      exec (.errorLogClear .root t v) s =
        .next (wakeWaits (s.onTile t fun x => { x with elog := [], next := 0, nheld := 0, lost := 0 }) (0x200100000208 + t.val * 0x4000) 8) ∧
      (∀ f, exec (.errorLogClear (.func f) t v) s = .next s)) ∧
    (∀ (q : QueueId), (s.queue q.val).w[3].toNat < 2 ^ 32 → (s.queue q.val).w[4].toNat < 2 ^ 32 →
      let n := q.val
      let old := s.queue n
      (countQ (queueWord s n 4 v) n ≤ capQ s n → exec (.queueHeadStore .root q 0x20 v) s =
        .next (wakeWaits (tailMoved s n v) (0x200400000020 + n * 0x4000) 8)) ∧
      (capQ s n < countQ (queueWord s n 4 v) n → exec (.queueHeadStore .root q 0x20 v) s = .next s) ∧
      (countQ (queueWord s n 3 v) n ≤ capQ s n → exec (.queueHeadStore .root q 0x18 v) s =
        .next (wakeWaits ((queueWord s n 3 v).coreGo n) (0x200400000018 + n * 0x4000) 8)) ∧
      (capQ s n < countQ (queueWord s n 3 v) n → exec (.queueHeadStore .root q 0x18 v) s = .next s) ∧
      exec (.queueErrClear .root q v) s = .next (wakeWaits
        ((s.setQueue n { old with w := (old.w.set 5 0).set 0 (old.w[0] &&& ~~~0x400#64) }).coreGo n) (0x200400000028 + n * 0x4000) 8) ∧
      (∀ u : State, (u.queue n).w[0].toNat % 8 ≠ 3 → u.coreGo n = u))

/-- R220, R221: a store to the slot word of a hart that is EMPTY or EXITED sets its runs, where they are aligned, the home run lies in the
partition and meets no other home run; the hart then holds its home run.  Of any other hart it changes nothing. -/
def Sys2Proof.Claims.SlotWords : Prop :=
  ∀ (s : State) (h : HartId) (v : Word), TablesInHbm s → (s.tile (tileOf h)).quar = false →
    ((s.hart h).state ≠ .empty → (s.hart h).state ≠ .exited → exec (.slotWordStore .root h v) s = .next s) ∧
    (((s.hart h).state = .empty ∨ (s.hart h).state = .exited) → goodRun (slotPN v) (slotPF v) → goodRun (slotHN v) (slotHF v) →
      slotPF v ≤ slotHF v → slotHF v + slotHN v ≤ slotPF v + slotPN v →
      (∀ j : Fin 8, j ≠ slotOf h → let w := (s.tile (tileOf h)).slots[j]
        slotHN w = 0 ∨ slotHF w + slotHN w ≤ slotHF v ∨ slotHF v + slotHN v ≤ slotHF w) →
      ∃ t, exec (.slotWordStore .root h v) s = .next t ∧
        let w := t.slotWord h
        slotHN w = slotHN v ∧ slotHF w = slotHF v ∧ slotPN w = slotPN v ∧ slotPF w = slotPF v ∧ slotN w = slotHN v ∧ slotF w = slotHF v ∧
        (∀ j : Fin 8, j ≠ slotOf h → (t.tile (tileOf h)).slots[j] = (s.tile (tileOf h)).slots[j]) ∧
        (∀ t', t' ≠ tileOf h → t.tile t' = s.tile t') ∧ t.mem = s.mem)

/-- R20, R21, R219, R332: a quarantine is recorded with its cluster in the mode, which a later step ends (log 81), and leaves the harts of the
tile as they are (log 48); a word of a store that cannot be corrected is poisoned and logged; so is an element of a register, of any class,
that is in error (log 60); and the mode of a cluster, whose end lets held commands act. -/
def Obligations.HardwareErrors : Prop :=
  ∀ (s : State),
    (∀ t : TileId,
      let n : ClusterId := Fin.ofNat 64 (t.val / 8)
      let u := s.onTile t fun x => logged { x with quar := true } 1 0 s.tick
      ((s.tile t).quar = true → exec (.tileQuarantine t) s = .next s) ∧
      ((s.tile t).quar = false → s.hub.cluster.getLsbD n.val = true → exec (.tileQuarantine t) s = .next u) ∧
      ((s.tile t).quar = false → s.hub.cluster.getLsbD n.val = false → ∃ c : BitVec 64,
        exec (.tileQuarantine t) s = .next { u with hub := { s.hub with cluster := c }, agenda := s.agenda ++ [.event (.clusterModeChange n false)] } ∧
        ∀ i, c.getLsbD i = (s.hub.cluster.getLsbD i || decide (i = n.val)))) ∧
    (∀ (t : TileId) (o : Nat) (pa : BitVec 48), o < 0x200000 → o % 8 = 0 → pa.toNat = 0x100000000000 + t.val * 0x200000 + o → ∃ u,
      exec (.storeUncorrectable pa) s = .next (u.onTile t fun x => logged x 3 (BitVec.ofNat 64 pa.toNat) s.tick) ∧
      poisoned u pa.toNat 8 = true ∧ u = { s with poison := u.poison } ∧ ∀ q, q ∈ u.poison ↔ q ∈ s.poison ∨ q = pa.toNat / 8) ∧
    (∀ (h : HartId) (c : RegClass) (r : Fin 32) (e : BitVec 13), (s.hart h).state = .running ∨ (s.hart h).state = .stopping →
      let y := s.hart h
      let p := softPlace s h c e.toNat
      ∃ x : Hart, exec (.softError h c r e) s = .next (s.setHart h x) ∧ x.soft.tail = y.soft ∧
        x = { y with soft := x.soft, c := { y.c with mPois := x.c.mPois, kPois := x.c.kPois }, live := { y.live with vPois := x.live.vPois, aPois := x.live.aPois } } ∧
        (∀ j : Fin 32, marksBits y.live.vPois[j] x.live.vPois[j] (c = .vector ∧ j = r) p) ∧
        (∀ j : Fin 8, marksBits y.c.mPois[j] x.c.mPois[j] (c = .mask ∧ j.val = r.val % 8) p) ∧
        (∀ j : Fin 8, marksBits y.c.kPois[j] x.c.kPois[j] (c = .scale ∧ j.val = r.val % 8) p) ∧
        (∀ j : Fin 4, marksBits y.live.aPois[j] x.live.aPois[j] (c = .accumulator ∧ j.val = r.val % 4) p)) ∧
    (∀ (h : HartId) (c : RegClass) (r : Fin 32) (e : BitVec 13), Parked s h → exec (.softError h c r e) s = .next s) ∧
    (∀ (n : ClusterId) (on : Bool), ∃ c : BitVec 64, (∀ i, c.getLsbD i = if i = n.val then on else s.hub.cluster.getLsbD i) ∧
      ((on = true ∨ ∀ p ∈ s.harts, p.1 / 64 = n.val → p.2.held = none) →
        exec (.clusterModeChange n on) s = .next { s with hub := { s.hub with cluster := c } }) ∧
      (∀ h : HartId, on = false → (∀ p ∈ s.harts, p.1 / 64 = n.val → p.2.held.isSome → p.1 = h.val) → h.val / 64 = n.val → Parked s h →
        (s.hart h).held = some false → (s.func (s.hart h).func.toNat).inSlice = true → Startable s h →
        ∃ t, exec (.clusterModeChange n on) s = .next t ∧ t.hub.cluster = c ∧ (t.hart h).state = .running ∧ Restored (s.hart h).img (t.hart h)))

/-! Kernels. -/

/-- R260, R266, R267: ARM reads the descriptor and arms an idle kernel, or fails it; ABORT and RESET. A kernel that fails releases the harts that
wait for its tasks. -/
def Sys2Proof.Claims.KernelCommands : Prop :=
  ∀ (s : State) (n : KernelId) (d : Vector Word 16),
    let k := s.kernel n.val
    (k.kstate = 0 → KernelDesc s n.val d → KernelGood s n.val d → exec (.arm n) s = .next ((s.setKernel n.val { k with
      kstate := 1, desc := d, placed := 0, late := decide (d[7] ≠ 0 ∧ d[7].toNat < s.tick.toNat), cursor := 0, allPlaced := false }).later (.kernelStart n))) ∧
    (k.kstate = 0 → KernelDesc s n.val d → (d[0] = 0 ∨ d[0].toNat % 2 = 1) → exec (.arm n) s = .next (ended s n.val { k with
      kstate := 5, kerr := 0x30, kdetail := d[0] })) ∧
    (k.kstate = 0 → Unreadable s k.kdesc.toNat → exec (.arm n) s = .next (ended s n.val { k with kstate := 5, kerr := 0x34, kdetail := k.kdesc })) ∧
    (k.kstate ≠ 0 → exec (.arm n) s = .next s) ∧
    (k.desc[8] = 0 → exec (.abort n) s = .next (if k.kstate = 1 ∨ k.kstate = 2 ∨ k.kstate = 3
      then ended s n.val { k with kstate := 5, kerr := 0x33, kdetail := 0 } else s)) ∧
    exec (.reset n) s = .next (if k.kstate = 4 ∨ k.kstate = 5
      then s.setKernel n.val { k with kstate := 0, kerr := 0, late := false, phase := 0, placed := 0, sent := 0, recv := 0, notidle := 0 } else s)

/-- R262, R269: an armed kernel starts when TICK reaches START_TICK; the launcher appends the task of each point to the queue of the point's
tile, in order, and waits where that is full; a place in a quarantined store takes no entry, and the kernel fails (R20; log 83). -/
def Sys2Proof.Claims.KernelsLaunch : Prop :=
  (∀ (s : State) (n : KernelId), (s.kernel n.val).kstate = 1 → exec (.kernelStart n) s = .next (
    if (s.kernel n.val).desc[7].toNat ≤ s.tick.toNat then phaseLaunched s n (s.kernel n.val) 0
    else { s with agenda := s.agenda ++ [.own, .event (.kernelStart n)] })) ∧
  (∀ (s : State) (n : KernelId), (s.kernel n.val).kstate = 2 → (s.kernel n.val).allPlaced = false →
    let k := s.kernel n.val
    let q := k.desc[9].toNat % 65536 + pointTile k k.cursor
    let next : Kernel := { k with placed := k.placed + 1, cursor := k.cursor + 1 }
    (TaskQueue s q → (s.queue q).w[7].toNat % 32 = k.own.toNat % 32 → (s.queue q).w[7].toNat / 256 % 2 = k.own.toNat / 256 % 2 →
      (countQ s q = capQ s q → exec (.launcherAppend n) s = .next { s with agenda := s.agenda ++ [.own, .event (.launcherAppend n)] }) ∧
      (countQ s q < capQ s q → quarantined s (entryQ s q (tailQ s q)) = true → k.desc[8] = 0 → (s.queue q).w[1].toNat % 64 = 0 →
        exec (.launcherAppend n) s = .next (ended s n.val { k with kstate := 5, kerr := 0x31, kdetail := BitVec.ofNat 64 q })) ∧
      (countQ s q < capQ s q → RingClear s q (tailQ s q) → exec (.launcherAppend n) s = .next (
        if k.cursor + 1 = points k.desc
        then ((appended s q (pointTask k k.cursor)).setKernel n.val { next with allPlaced := true }).later (.closureSample n)
        else ((appended s q (pointTask k k.cursor)).setKernel n.val next).later (.launcherAppend n)))) ∧
    (¬ TaskQueue s q → k.desc[8] = 0 →
      exec (.launcherAppend n) s = .next (ended s n.val { k with kstate := 5, kerr := 0x31, kdetail := BitVec.ofNat 64 q }))) ∧
  -- R261, for a kernel of one loop over tiles: point i goes to the i-th tile of the set, with i in its coordinate word
  (∀ (k : Kernel) (i : Nat), kindOf k.desc 0 = 2 → kindOf k.desc 1 = 0 → kindOf k.desc 2 = 0 → i < extentOf k.desc 0 → extentOf k.desc 0 ≤ 2 ^ 20 →
    k.tset.toNat % 16 = 1 → k.tset.toNat / 2048 % 256 ≠ 0 →
    points k.desc = extentOf k.desc 0 ∧
    pointTile k i = (k.tset.toNat / 16 % 128 + i % (k.tset.toNat / 2048 % 256)) % 128 ∧
    pointTask k i = [k.desc[0], k.desc[1], BitVec.ofNat 64 i, BitVec.ofNat 64 (k.desc[5].toNat % 4 + 16 * (k.desc[6].toNat % 2))])

/-- R263 to R266: a kernel whose tiles are idle and whose sums of SENT and RECV agree closes at the second such sample in a row with the same
sums; it then launches its next phase, or is done. -/
def Sys2Proof.Claims.KernelsClose : Prop :=
  ∀ (s : State) (n : KernelId) (busy a b : Nat),
    let k := s.kernel n.val
    let closed := busy = 0 ∧ a = b
    let sampled (st : Nat) : Kernel := { k with sent := BitVec.ofNat 64 a, recv := BitVec.ofNat 64 b, notidle := BitVec.ofNat 4 busy, lastsamp := s.tick, kstate := st }
    let again (u : State) : State := { u with agenda := u.agenda ++ [.own, .event (.closureSample n)] }
    sampleTrees s n.val k = (busy, a, b) → k.allPlaced = true →
    (k.kstate = 2 → exec (.closureSample n) s = .next (again (s.setKernel n.val (sampled (if closed then 3 else 2))))) ∧
    (k.kstate = 3 → ¬ (closed ∧ k.sent.toNat = a ∧ k.recv.toNat = b) → exec (.closureSample n) s = .next (again (s.setKernel n.val (sampled 2)))) ∧
    (k.kstate = 3 → closed → k.sent.toNat = a → k.recv.toNat = b →
      (k.phase + 1 < phases k.desc → exec (.closureSample n) s = .next (phaseLaunched s n (sampled 2) (k.phase + 1))) ∧
      (phases k.desc ≤ k.phase + 1 → k.desc[8] = 0 → exec (.closureSample n) s = .next (ended s n.val (sampled 4))))

/-! Host commands. -/

/-- R335, R254: the packets with no operand in memory, and those that start work. -/
def Sys2Proof.Claims.HostCommands : Prop :=
  ∀ (s : State) (q : QueueId) (tag : Nat) (ws : List Word),
    let op (i : Nat) : Word := ws.getD i 0
    let w := coreWho s q.val
    (Command s q.val 0 tag 1 ws → PacketDone (.nop q) s q.val 1 s) ∧
    (Command s q.val 1 tag 1 ws →
      let n := (op 1).toNat % 4096
      (s.kernel n).kstate = 0 → (op 2).toNat % 64 = 0 → 1 ≤ (op 3).toNat / 2048 % 256 → (op 3).toNat / 2048 % 256 ≤ 128 →
      (op 3).toNat / 16 % 128 + (op 3).toNat / 2048 % 256 ≤ 128 →
      PacketDone (.launch q) s q.val 1 (kernelArm (s.setKernel n { s.kernel n with
        kdesc := op 2, kspace := BitVec.ofNat 64 w.iss.space, tset := op 3 &&& 0x7FFFF#64 }) n)) ∧
    (Command s q.val 2 tag 1 ws → (op 4).toNat % 8 = 0 → (op 3).toNat ≠ 0 → (op 3).toNat < 2 ^ 32 → (op 5).toNat < 512 →
      ∃ k, (∀ p ∈ s.copies, p.1 < k) ∧ PacketDone (.copyHost q) s q.val 1 { s with copies := s.copies ++ [(k,
        { iss := w.iss, tile := Fin.ofNat 512 (op 5).toNat, src := op 2, dst := op 1, len := (op 3).toNat, obj := op 4
          kind := if op 4 = 0 then 2 else 0, queue := some q.val
          untaken := (List.range (((op 3).toNat + 4095) / 4096)).map fun i => 4096 * i })] }) ∧
    (Command s q.val 8 tag 1 ws → (op 1).toNat < 5 →
      ((∀ p ∈ s.copies, p.2.queue ≠ some q.val) → PacketDone (.fence q) s q.val 1 s) ∧
      ((∃ p ∈ s.copies, p.2.queue = some q.val) → exec (.fence q) s = .next (keptWaiting s q.val (.fence q))))

/-- R335, R231, R307, R310: the packets that act on memory: values, waits, futures and mappings.  A step that faults halts the queue with code
0x22 and the cause in DETAIL[7:0]; the bits of DETAIL above it are 0 (log 53).  A mapping's KEY is of the function's range (R334; log 25), and
no agent translates through an old value of its entry afterwards. -/
def Sys2Proof.Claims.HostCommandsOnMemory : Prop :=
  ∀ (s : State) (q : QueueId) (tag : Nat) (ws : List Word) (x y : Xl),
    let op (i : Nat) : Word := ws.getD i 0
    let w := coreWho s q.val
    let n := (op 3).toNat
    let written := performed s x.pa n ((op 2).toNat % 256 ^ n)
    let after : State := { written with storeNo := s.storeNo + 1 }
    let entry := s.hub.aback.toNat + (x.pa - 0x7F8000000000)
    (Command s q.val 3 tag 1 ws → (n = 4 ∨ n = 8) → Clear s w .store (op 1).toNat n x → PacketDone (.writeValue q) s q.val 1 written) ∧
    (Command s q.val 3 tag 1 ws → (n = 4 ∨ n = 8) → (op 1).toNat % n ≠ 0 →
      ∃ t, exec (.writeValue q) s = .next t ∧ Errored s t q.val 0x22 3) ∧
    (Command s q.val 4 tag 1 ws → (op 4).toNat < 4 → Clear s w .load (op 1).toNat 8 x →
      let v := memRead s.mem x.pa 8 &&& (op 3).toNat
      let r := (op 2).toNat
      let met := if (op 4).toNat = 0 then v = r else if (op 4).toNat = 1 then v ≠ r else if (op 4).toNat = 2 then r ≤ v else v < r
      (met → PacketDone (.waitValue q) s q.val 1 s) ∧
      (¬ met → exec (.waitValue q) s = .next (keptWaiting s q.val (.waitValueMet q))) ∧
      (q.val ∈ (s.func ((s.queue q.val).w[7].toNat % 32)).waits → met → PacketDone (.waitValueMet q) s q.val 1 s) ∧
      (q.val ∈ (s.func ((s.queue q.val).w[7].toNat % 32)).waits → ¬ met → exec (.waitValueMet q) s = .next (keptWaiting s q.val (.waitValueMet q)))) ∧
    (Command s q.val 5 tag 1 ws → Unscrubbed s → Clear s w .atomic (op 1).toNat 8 x → futureState (memRead s.mem x.pa 8) = 0 →
      PacketDone (.signal q) s q.val 1 (performed s x.pa 8 2)) ∧
    (Command s q.val 6 tag 2 ws → (n = 4 ∨ n = 8) → Unscrubbed s → Clear s w .store (op 1).toNat n x → Clear after w .atomic (op 8).toNat 8 y →
      futureState (memRead after.mem y.pa 8) = 0 → PacketDone (.writeThenSignal q) s q.val 2 (performed after y.pa 8 2)) ∧
    (Command s q.val 7 tag 1 ws → (op 1).toNat = 1 → (op 2).toNat % 8 = 0 → xlate s w .store (op 2).toNat = .ok x → eKind x.leaf = 3 →
      touch s x true = s → reachOk s w.iss.space x.pa (op 3).toNat = true → keyGranted s w.iss.func (op 3).toNat = true →
      PacketDone (.map q) s q.val 1 (cutEntries (wakeWaits (unpoison { s with mem := memWrite s.mem entry 8 (op 3).toNat } entry 8) x.pa 8) [x.pa])) ∧
    (Command s q.val 7 tag 1 ws → (op 1).toNat = 1 → (op 2).toNat % 8 ≠ 0 → ∃ t, exec (.map q) s = .next t ∧ Errored s t q.val 0x22 3) ∧
    (Command s q.val 7 tag 1 ws → (op 1).toNat = 1 → (op 2).toNat % 8 = 0 → xlate s w .store (op 2).toNat = .ok x → eKind x.leaf ≠ 3 →
      ∃ t, exec (.map q) s = .next t ∧ Errored s t q.val 0x22 5) ∧
    (Command s q.val 7 tag 1 ws → (op 1).toNat = 1 → (op 2).toNat % 8 = 0 → xlate s w .store (op 2).toNat = .ok x → eKind x.leaf = 3 →
      (reachOk s w.iss.space x.pa (op 3).toNat && keyGranted s w.iss.func (op 3).toNat) = false →
      ∃ t, exec (.map q) s = .next t ∧ Errored s t q.val 0x22 6)

/-- R253, R254, R316: a write to a notify register, or an AtomicOp on it, is latched, and its application sets TAIL of the queue that names the
register, where the entries fit, and the function core looks at it; a function under reset answers with all ones and discards writes (R321);
a packet whose code is none halts its queue with error 0x20, and DETAIL is HEAD. -/
def Sys2Proof.Claims.Notifies : Prop :=
  ∀ (s : State),
    (∀ (f : FuncId) (i : Fin 64) (x : HostPut),
      let old : Word := BitVec.ofNat 64 (s.func f.val).latch[i].toNat
      ((s.func f.val).inReset = false → s.hub.lease.state ≠ 2 →
        (∀ v, putOf x old = some v → exec (.notifyWrite f i x) s = .next (answered ((s.onFunc f.val fun a => { a with
          latch := a.latch.set i (BitVec.ofNat 32 v.toNat), pending := a.pending ||| BitVec.ofNat 64 (2 ^ i.val) }).later (.notifyApply f i)) f x old)) ∧
        (putOf x old = none → exec (.notifyWrite f i x) s = .next (answered s f x old))) ∧
      (((s.func f.val).inReset = true ∨ s.hub.lease.state = 2) →
        exec (.notifyWrite f i x) s = .next (answered s f x 0xFFFFFFFFFFFFFFFF#64))) ∧
    (∀ (f : FuncId) (i : Fin 64) (n : Nat) (q : Queue), (s.func f.val).pending.getLsbD i.val = true → s.queues = [(n, q)] →
      q.w[0].toNat % 8 = 3 → q.w[0].toNat / 256 % 2 = 1 → q.w[7].toNat % 32 = f.val → q.w[6].toNat % 128 = 64 + i.val →
      let tail := (s.func f.val).latch[i].toNat
      (tail + 2 ^ 32 - q.w[3].toNat % 2 ^ 32) % 2 ^ 32 ≤ 2 ^ (q.w[2].toNat % 32) → exec (.notifyApply f i) s = .next (((s.onFunc f.val fun a =>
          { a with pending := a.pending &&& ~~~(BitVec.ofNat 64 (2 ^ i.val)) }).setQueue n { q with w := q.w.set 4 (BitVec.ofNat 64 tail) }).coreGo n)) ∧
    (∀ (f : FuncId) (i : Fin 64), (s.func f.val).pending.getLsbD i.val = false → exec (.notifyApply f i) s = .next s) ∧
    (∀ (q : QueueId) (c tag : Nat) (ws : List Word), Command s q.val c tag 1 ws → 9 ≤ c →
      ∃ t, exec (.undefinedOpPacket q) s = .next t ∧ Errored s t q.val 0x20 (headQ s q.val))

/-! Links. -/

/-- R253, R316, R318 to R320: the host reads and writes the pages that its BAR2 table names; what it may not is an error completion, which AER
logs (log 69), or is discarded and reported, and so is an AtomicOp at a control page; a notify register reads its latch; a write to the MSI-X
table, or an AtomicOp on it; and a posted write that is lost. -/
def Sys2Proof.Claims.HostLink : Prop :=
  ∀ (s : State) (f : FuncId),
    (∀ (wr : Bool) (k : QueueId) (p o : Nat) (v : Word) (off : BitVec 30), BarsUp s f → p < 65536 → o < 0x4000 → o % 8 = 0 → off.toNat = p * 0x4000 + o →
      let pa := 0x200400000000 + k.val * 0x4000
      (Bar2 s f p pa wr → exec (.hostBar2Access f off 8 none) s = .next (told s (.completion f true (if o ≤ 0x40 then (s.queue k.val).w[o / 8]! else 0)))) ∧
      (Bar2 s f p pa true → o = 0x28 → exec (.hostBar2Access f off 8 (some (.write v))) s = .next (wakeWaits
        ((s.setQueue k.val { s.queue k.val with w := ((s.queue k.val).w.set 5 0).set 0 ((s.queue k.val).w[0] &&& ~~~0x400#64) }).coreGo k.val) (pa + o) 8)) ∧
      (s.hub.bar2.lookup (65536 * f.val + p) = none → exec (.hostBar2Access f off 8 none) s =
        .next (told (s.onFunc f.val fun x => { x with aer := x.aer ||| 0x100000#32 }) (.completion f false 0)))) ∧
    (BarsUp s f → ∀ i : Fin 64, bar0Read s f (8 * i.val) = ((s.func f.val).latch[i]).setWidth 64) ∧
    (∀ (n : Nat) (p o : Nat) (v : Word) (off : BitVec 30), BarsUp s f → off.toNat = p * 0x4000 + o → o < 0x4000 →
      s.hub.bar2.lookup (65536 * f.val + p) = none → EventRoom s f.val n →
      exec (.hostBar2Access f off 8 (some (.write v))) s = .next (placed s n (eventWords s 0x41 0 0 off.toNat))) ∧
    (BarsUp s f → ∀ (off : BitVec 30) (len : Fin 16) (y : HostPut), (∀ v, y ≠ .write v) → exec (.hostBar2Access f off len (some y)) s =
      .next (told (s.onFunc f.val fun x => { x with aer := x.aer ||| 0x100000#32 }) (.completion f false 0))) ∧
    (¬ BarsUp s f → ∀ (off : BitVec 30) (y : HostPut), exec (.hostBar2Access f off 8 none) s = .next (told s (.completion f true 0xFFFFFFFFFFFFFFFF)) ∧
      exec (.hostBar2Access f off 8 (some y)) s = .next (answered s f y 0xFFFFFFFFFFFFFFFF#64)) ∧
    (BarsUp s f → ∀ (i : Fin 64) (w : Fin 2) (y : HostPut),
      let x := s.func f.val
      let old := x.msix[2 * i.val + w.val]
      (∀ v, putOf y old = some v → exec (.msixTableWrite f i w y) s = .next (answered (
        if w = 1 ∧ v.toNat / 2 ^ 32 % 2 = 0 ∧ x.msixPend.getLsbD i.val = true then
          told (s.setFunc f.val { x with msix := x.msix.set (2 * i.val + w.val) v, msixPend := x.msixPend &&& ~~~(BitVec.ofNat 64 (2 ^ i.val)) }) (.msix f i)
        else s.setFunc f.val { x with msix := x.msix.set (2 * i.val + w.val) v }) f y old)) ∧
      (putOf y old = none → exec (.msixTableWrite f i w y) s = .next (answered s f y old))) ∧
    (∀ (n : Nat) (h : BitVec 44), EventRoom s f.val n →
      exec (.pciePostedWriteLoss f h) s = .next (placed s n (eventWords s 0x42 0 0 (h.toNat % 2 ^ 24))))

/-- R319, R326: a load or an atomic that the host or a peer does not answer in time traps as a page fault at its address, after a gear
change of its tile (R297), or a mode of its cluster (R332; log 81). -/
def Sys2Proof.Claims.RequestTimeouts : Prop :=
  ∀ (s : State) (h : HartId) (va : Word), (s.hart h).state = .running → Handled s h →
    (∀ (peer b : Bool), (s.hart h).live.wait = .outside va peer b →
      let fault : Instr := if peer then .flaodRequestTimeout h else .pcieCompletionTimeout h
      (Moves s h → exec fault s = .next (entered s h 0x04 va (s.hart h).c.pc 0)) ∧
      (¬ Moves s h → exec fault s = .next { s with agenda := s.agenda ++ [.own, .event fault] })) ∧
    ((s.hart h).live.wait = .none → exec (.pcieCompletionTimeout h) s = .next s ∧ exec (.flaodRequestTimeout h) s = .next s)

/-- R321, R266: a function that is reset gives up its notifications and its harts; the copies of its harts are abandoned, and where a strip of one
still runs, its end is waited for; then it gives up its queues and its kernels, whose owner and whose words that RESET keeps stand. -/
def Sys2Proof.Claims.FunctionsReset : Prop :=
  ∀ (s : State) (f : FuncId),
    (Stilled s f.val → (∀ p ∈ s.copies, p.2.iss.func ≠ f.val) → ∃ t, exec (.functionLevelReset f) s = .next t ∧
      (t.func f.val).pending = 0 ∧ (t.func f.val).latch = Vector.replicate 64 0 ∧ (t.func f.val).waits = [] ∧ (t.func f.val).inReset = false ∧
      (∀ n, ((s.queue n).w[7].toNat % 32 = f.val → (t.queue n).w[7] = (s.queue n).w[7] ∧ ∀ i : Fin 9, i ≠ 7 → (t.queue n).w[i] = 0) ∧
        ((s.queue n).w[7].toNat % 32 ≠ f.val → t.queue n = s.queue n)) ∧
      (∀ n, let k := s.kernel n
        (k.own.toNat % 32 = f.val → (t.kernel n).kstate = 0 ∧ (t.kernel n).own = k.own ∧ (t.kernel n).kdesc = k.kdesc ∧
          (t.kernel n).kspace = k.kspace ∧ (t.kernel n).tset = k.tset) ∧
        (k.own.toNat % 32 ≠ f.val → t.kernel n = k)) ∧
      (∀ h ∈ hartsOf s f.val, (t.hart h).state = .empty)) ∧
    (Stilled s f.val → (∃ n c, s.copies.lookup n = some c ∧ c.iss.func = f.val ∧ c.running ≠ 0) → ∃ t, exec (.functionLevelReset f) s = .next t ∧
      (t.func f.val).inReset = true ∧ Turn.event (.functionLevelReset f) ∈ t.agenda ∧ ∀ n c, s.copies.lookup n = some c → c.iss.func = f.val →
        c.running ≠ 0 → ∃ d, t.copies.lookup n = some d ∧ d.failed = true ∧ d.untaken = [] ∧ d.running = c.running) ∧
    ((∃ h ∈ hartsOf s f.val, ¬ Parked s h) → ∃ t, exec (.functionLevelReset f) s = .next t ∧ (t.func f.val).inReset = true ∧
      (t.func f.val).pending = 0 ∧ Turn.event (.functionLevelReset f) ∈ t.agenda)

/-- R324, R325, R240, R243: an access through an inbound window acts in the window's space and is answered; one through a window that is not
valid, or to an address of no page, is answered with a page fault, and one to memory under scrub is discarded.  A peer's `barw` whose wait does
not end hears of each change of the word. -/
def Sys2Proof.Claims.PeerAccesses : Prop :=
  ∀ (s : State) (n : Fin 64) (off : BitVec 52) (v : Word) (lg : Fin 4) (x : Xl),
    let w := inboundWho s n
    let va := inboundVa s n off
    let b := 2 ^ lg.val
    (¬ InboundValid s n off → ∀ op, exec (.flaodInboundAccess n off op) s = .next (told s (.reply n 0x04 0))) ∧
    (InboundValid s n off → Clear s w .load va b x →
      exec (.flaodInboundAccess n off (.load lg)) s = .next (told s (.reply n 0 (BitVec.ofNat 64 (memRead s.mem x.pa b))))) ∧
    (InboundValid s n off → Unscrubbed s → Clear s w .store va b x →
      exec (.flaodInboundAccess n off (.store lg v)) s = .next (told (performed s x.pa b (v.toNat % 256 ^ b)) (.reply n 0 0))) ∧
    (InboundValid s n off → Unscrubbed s → Clear s w .atomic va 8 x →
      let old := memRead s.mem x.pa 8
      (futureState old = 0 → exec (.flaodInboundAccess n off .fres) s = .next (told (performed s x.pa 8 2) (.reply n 0 0))) ∧
      (old < 2 ^ 63 → exec (.flaodInboundAccess n off .bara) s = .next (told (performed s x.pa 8 (arrived old)) (.reply n 0 (BitVec.ofNat 64 old)))) ∧
      (2 ^ 63 ≤ old → exec (.flaodInboundAccess n off (.barx v)) s =
        .next (told (performed s x.pa 8 (announced old v.toInt)) (.reply n 0 (BitVec.ofNat 64 old))))) ∧
    (InboundValid s n off → Unscrubbed s → Clear s w .load va 8 x →
      let old := memRead s.mem x.pa 8
      let gen := old / 2 ^ 32 % 2 ^ 16
      (waitEnds gen old → exec (.flaodInboundAccess n off .barw) s = .next (told s (.reply n 0 (BitVec.ofNat 64 old)))) ∧
      (¬ waitEnds gen old → exec (.flaodInboundAccess n off .barw) s = .next (told
        { s with hub := { s.hub with peerWaits := s.hub.peerWaits ++ [⟨n, BitVec.ofNat 64 va, x.pa, eKey x.leaf, gen⟩] } } (.reply n 0 (BitVec.ofNat 64 old))))) ∧
    -- a store of the word tells such a peer what then stands there, and ends its wait or not
    (∀ (a : Word) (g k : Nat), s.hub.peerWaits = [⟨n, a, x.pa, k, g⟩] → regionOf x.pa = some .store → regionOf (x.pa + 7) = some .store →
      let t := performed s x.pa 8 v.toNat
      t.sent = s.sent ++ [.notice n a v] ∧ (waitEnds g v.toNat → t.hub.peerWaits = []) ∧ (¬ waitEnds g v.toNat → t.hub.peerWaits = s.hub.peerWaits)) ∧
    (InboundValid s n off → va % 8 ≠ 0 → ∀ op ∈ ([.fres, .fpoll, .bara, .barx v, .barw] : List PeerOp),
      exec (.flaodInboundAccess n off op) s = .next (told s (.reply n 0x03 0))) ∧
    (InboundValid s n off → ¬ Unscrubbed s → va % 8 = 0 → (∀ acc, acc ≠ .fetch → xlate s w acc va = .ok x) → x.region = .store → touch s x true = s → touch s x false = s →
      eKind x.leaf ≠ 3 →
      ∀ op ∈ ([.store 3 v, .fres, .fpoll, .bara, .barx v, .barw] : List PeerOp), exec (.flaodInboundAccess n off op) s = .next (told s (.reply n 0x11 0)))

/-- R324, R326, R327: lost posted stores are counted and reported; ports go down and up; a device that joins holds its TICK, and exchanges of
sync flits give its offset, its lock and the end of the hold.  That a device which is not MASTER joins with its first port, and that a hold
ends where TICK is not ahead of the master's, is log 10. -/
def Sys2Proof.Claims.Ports : Prop :=
  ∀ (s : State),
    (∀ (n : Fin 64) (f : FuncId) (q : Nat), EventRoom s f.val q → ∃ d, exec (.flaodPostedStoreError n f) s = .next (placed
      { s with hub := { s.hub with outw := s.hub.outw.set n (BitVec.ofNat 64 ((s.hub.outw[n]).toNat % 2 ^ 32
          + min (2 ^ 32 - 1) ((s.hub.outw[n]).toNat / 2 ^ 32 + 1) * 2 ^ 32)) } } q (eventWords s 0x43 0 0 d))) ∧
    (∀ p : PortId, ∃ u : BitVec 24, exec (.portDown p) s = .next { s with hub := { s.hub with portUp := u } } ∧
      ∀ i, u.getLsbD i = (s.hub.portUp.getLsbD i && decide (i ≠ p.val))) ∧
    (∀ p : PortId, ∃ u : BitVec 24, (∀ i, u.getLsbD i = (s.hub.portUp.getLsbD i || decide (i = p.val))) ∧
      exec (.flaodPortUp p) s = .next { s with hub := if s.hub.portUp = 0 ∧ s.hub.master = false
        then { s.hub with portUp := u, tickHeld := true, tickBase := s.tick, tickSince := s.now } else { s.hub with portUp := u } }) ∧
    (∀ (p : PortId) (offs : BitVec 8),
      let good := if -2 ≤ offs.toInt ∧ offs.toInt ≤ 2 then min 16 (s.hub.syncGood + 1) else 0
      let h := { s.hub with offs := offs, syncGood := good, tlock := decide (good = 16) }
      exec (.syncFlit p offs) s = .next (if s.hub.portUp.getLsbD p.val = false then s
        else { s with hub := if s.hub.tickHeld = true ∧ offs.toInt ≤ 0 then { h with tickHeld := false, tickSince := s.now } else h }))

/-! Functions and trust. -/

/-- R328, R331, R334, R337 to R339, R341: enabling a function, whose first slice waits for those of functions that it meets (log 23, log 57), and
whose windows carry its keys (log 25); power-on, which measures what it boots, a block that fails too (log 59), and first ends a lease that
stands; and hand-over, for which the state block gives its version and its queues' cursors (log 24), and which waits for the packet in hand. -/
def Sys2Proof.Claims.FunctionsBegin : Prop :=
  ∀ (s : State),
    (∀ f : FuncId, s.hub.pfOnly = true → f ≠ 0 → exec (.functionEnable f) s = .next s) ∧
    (∀ f : FuncId, s.hub.pfOnly = false → s.hub.lease.due = false → TablesInHbm s → ∃ t, exec (.functionEnable f) s = .next t ∧
      ((s.func f.val).w[0].toNat % 2 = 0 → ((t.func f.val).inSlice = true ↔ ∀ g : FuncId, g ≠ f → (s.func g.val).w[0].toNat % 2 = 1 →
        (s.func g.val).inSlice = true → partitionsMeet (s.func f.val) (s.func g.val) = false)) ∧
      (t.func f.val).w[0] = (s.func f.val).w[0] ||| 1#64 ∧ t.mem = s.mem ∧ t.copies = s.copies ∧
      (∀ h : HartId, (t.hart h).func = (s.hart h).func ∨
        ((t.hart h).func = BitVec.ofNat 5 f.val ∧ funcDies (s.func f.val) / 2 ^ (h.val / 1024) % 2 = 1 ∧
          funcFirst (s.func f.val) ≤ h.val / 8 % 128 ∧ h.val / 8 % 128 < funcFirst (s.func f.val) + funcCount (s.func f.val))) ∧
      (∀ p ∈ s.hub.tags, p.2.toNat % 4 = 1 → p.2.toNat / 4 % 4 = 0 → p.2.toNat / 65536 % 32 = f.val → ∀ k, k < 8 →
        let x := s.func f.val
        let lo := if x.w[0].toNat / 256 % 2 = 1 then x.w[6].toNat % 4096 else max 1 (x.w[6].toNat % 4096)
        let hi := x.w[6].toNat / 65536 % 4096
        let word (j : Nat) : Nat := (mget t.hub.reach (32 * p.1 + 4 * k + j) 0).toNat
        (hi < lo → word 0 = 0) ∧ (lo ≤ hi → lo ≤ word 3 ∧ word 3 ≤ hi)) ∧
      (∀ n, (t.queue n).w[7] = (s.queue n).w[7] ∨ (t.queue n).w[7] = BitVec.ofNat 64 (f.val + 256 * ((s.func f.val).w[0].toNat / 256 % 2)))) ∧
    (∀ (ok : Bool) (block : BitVec 384), s.hub.lease.state = 0 → exec (.powerOn ok block) s = .next { State.reset with
      now := s.now, agenda := s.agenda, sent := s.sent, staleXlat := s.staleXlat, hostStall := s.hostStall, peerStall := s.peerStall
      outsideErr := s.outsideErr, storeNo := s.storeNo
      tiles := (List.range 512).map fun i => (i, { Tile.reset with cycSince := s.now })
      hub := { State.reset.hub with
        lease := s.hub.lease, pfOnly := !ok, tickSince := s.now, keys := [(0, Config.slot0Key)]
        mx := extended384 (extended384 (extended384 State.reset.hub.mx 0 block) 1 (Config.romDigest false)) 2 (Config.romDigest true) } }) ∧
    (∀ (ok : Bool) (block : BitVec 384), s.hub.lease.state ≠ 0 → ∃ t, exec (.powerOn ok block) s = .next t ∧
      t.hub.lease.state = 2 ∧ t.hub.lease.keyHash = 0 ∧ t.harts = [] ∧ Turn.event .leaseResetComplete ∈ t.agenda) ∧
    (∀ (f : FuncId) (d : BitVec 384) (lo hi : BitVec 8),
      let v := (s.func f.val).w[8].toNat / 256 % 256
      let u := imaged s f d v
      let measured : State := { u with hub := { s.hub with mx := extended384 s.hub.mx 3 d } }
      (f ≠ 0 → s.hub.pfOnly = false → lo.toNat ≤ v → v ≤ hi.toNat → exec (.handOver f true d lo hi) s =
        .next ((measured.onFunc f.val fun x => { x with handOver := some (BitVec.ofNat 8 v) }).later (.handOverSwitch f))) ∧
      (∀ n ok, f ≠ 0 → (ok = false ∨ s.hub.pfOnly = true) → EventRoom s 0 n → ∃ a b,
        exec (.handOver f ok d lo hi) s = .next (placed u n (eventWords s 0x52 0 a b))) ∧
      (∀ n, f ≠ 0 → s.hub.pfOnly = false → (v < lo.toNat ∨ hi.toNat < v) → EventRoom s 0 n → ∃ a b,
        exec (.handOver f true d lo hi) s = .next (placed measured n (eventWords s 0x52 0 a b))) ∧
      (∀ n ok, EventRoom s 0 n → ∃ a b, exec (.handOver 0 ok d lo hi) s = .next (placed s n (eventWords s 0x52 0 a b))) ∧
      mget (u.func f.val).priv (0x3E00 + 0x4000 * bankOf s f) 0 = BitVec.ofNat 64 v ∧
      (∀ i q, i < 511 → ((s.queues.map (·.2)).filter fun q => q.w[0].toNat % 8 == 3 && q.w[7].toNat % 32 == f.val)[i]? = some q →
        mget (u.func f.val).priv (0x3E00 + 0x4000 * bankOf s f + 1 + i) 0 = BitVec.ofNat 64 (q.w[3].toNat % 2 ^ 32 + 2 ^ 32 * (q.w[4].toNat % 2 ^ 32))) ∧
      ((s.func f.val).handOver = none → exec (.handOverSwitch f) s = .next s) ∧
      ((s.func f.val).handOver ≠ none → (s.func f.val).waits ≠ [] → exec (.handOverSwitch f) s =
        .next { s with agenda := s.agenda ++ [.own, .event (.handOverSwitch f)] }) ∧
      ((s.func f.val).handOver ≠ none → (s.func f.val).waits = [] → ∃ t, exec (.handOverSwitch f) s = .next t ∧ (t.func f.val).handOver = none ∧
        (t.func f.val).w[8].toNat % 4 = 1 + 2 * (1 - bankOf s f) ∧ (t.func f.val).blockAt = some (0x1F000 + 0x20000 * bankOf s f)))

/-- R341 to R343: a lease begins once, enrolled in MX4; its reset stops every function without a save, and ends their copies, and its end leaves
nothing of the tenant's, and TICK 0 (R205; log 59), signs the record and makes the module ready. -/
def Sys2Proof.Claims.Leases : Prop :=
  ∀ (s : State) (id : BitVec 128) (key : BitVec 384) (mask : BitVec 32),
    ((s.hub.lease.state ≠ 0 ∨ s.hub.pfOnly = true) → exec (.leaseBegin true id key mask) s = .next (told s (.spdm 7 false []))) ∧
    exec (.leaseBegin false id key mask) s = .next (told s (.spdm 7 false [])) ∧
    (s.hub.lease.state = 0 → s.hub.pfOnly = false → ∃ body, exec (.leaseBegin true id key mask) s = .next (told
      { s with hub := { s.hub with mx := extended384 s.hub.mx 4 (Config.enrolDigest id key mask)
                                   lease := { s.hub.lease with state := 1, id := id, keyHash := key, mask := mask, start := s.tick, begun := true } } }
      (.spdm 7 true body))) ∧
    exec (.leaseReset false) s = .next (told s (.spdm 8 false [])) ∧
    (s.hub.lease.state ≠ 2 → ∃ t, exec (.leaseReset true) s = .next t ∧ t.hub.lease.state = 2 ∧ t.hub.cluster = 0xFFFFFFFFFFFFFFFF ∧ t.copies = [] ∧
      (∀ h, (t.hart h).state = .empty ∧ (t.hart h).img = {} ∧ (s.copies = [] → (t.hart h).c = {})) ∧ t.dcache = [] ∧ t.vbuf = [] ∧ t.hub.lease.keyHash = 0 ∧
      (∀ n i, (t.queue n).w[i]! = if i = 7 then (s.queue n).w[7]! else 0) ∧ t.hub.lease.mx4 = s.hub.mx[4] ∧
      Turn.event .leaseResetComplete ∈ t.agenda) ∧
    (s.hub.lease.state = 2 → ∃ t, exec .leaseResetComplete s = .next t ∧ t.hub.lease.state = 0 ∧ t.hub.lease.due = true ∧
      t.harts = [] ∧ t.queues = [] ∧ t.kernels = [] ∧ t.tslots = [] ∧ t.dcache = [] ∧ t.icache = [] ∧ t.fcache = [] ∧ t.vbuf = [] ∧ t.copies = [] ∧ t.walks = [] ∧
      (∀ a, regionOf a = some .store → inBacking s a = false → quarantined s a = false → memGet t.mem a = 0) ∧
      (∀ a, regionOf a = some .hbm → inBacking s a = false → Config.secureHbm a = false → memGet t.mem a = 0) ∧
      (∀ n x, t.hub.keys.lookup n = some x → n = 0) ∧ t.tick = 0 ∧ t.hub.aframes = 0 ∧ t.hub.tags = [] ∧ t.hub.reach = [] ∧ t.hub.bar2 = [] ∧
      (∀ f : FuncId, (t.func f.val).priv = [] ∧ (t.func f.val).images = #v[none, none] ∧ (t.func f.val).inReset = false) ∧
      ∃ l, t.hub.lease.record = some l ∧ l.length = 512 ∧ l.take 8 = bytesLE 8 0x44524345534C5647 ∧
        (l.drop 16).take 16 = bytesLE 16 (if s.hub.lease.begun = true then s.hub.lease.id.toNat else 0)) ∧
    (s.hub.lease.state ≠ 2 → exec .leaseResetComplete s = .next s)

/-- R340, R343: what the module answers to an SPDM request: measurement blocks 1 to 8 are the MX registers, block 0x10 and GET_RECORD give the
last completion record; the certificate ends in the device identity key, the same at every boot; of the rest the spec leaves the contents to
SPDM (log 15). -/
def Sys2Proof.Claims.Spdm : Prop :=
  (∃ (chain : List Nat) (key : Nat), ∀ s : State, exec (.getCertificate 0) s = .next (told s (.spdm 4 true (chain ++ bytesLE 96 key)))) ∧
  ∀ (s : State),
    (∀ p ∈ ([(.getVersion, 0), (.getCapabilities, 1), (.negotiateAlgorithms true true, 2), (.getDigests, 3), (.getCertificate 0, 4)] : List (Instr × Nat)),
      ∃ body, exec p.1 s = .next (told s (.spdm p.2 true body))) ∧
    (∀ n, ∃ body, exec (.challenge n) s = .next (told s (.spdm 5 true body))) ∧
    exec (.negotiateAlgorithms true false) s = .next (told s (.spdm 2 false [])) ∧
    exec (.negotiateAlgorithms false true) s = .next (told s (.spdm 2 false [])) ∧
    (∀ b : BitVec 8, b ≠ 0 → exec (.getCertificate b) s = .next (told s (.spdm 4 false []))) ∧
    (∀ i : Fin 8, exec (.getMeasurements (BitVec.ofNat 8 (i.val + 1))) s = .next (told s (.spdm 6 true (bytesLE 48 (s.hub.mx[i]).toNat)))) ∧
    (∀ l, s.hub.lease.record = some l → (∀ x ∈ l, x < 256) → exec .getRecord s = .next (told s (.spdm 9 true l)) ∧
      exec (.getMeasurements 0x10) s = .next (told s (.spdm 6 true l))) ∧
    (s.hub.lease.record = none → exec .getRecord s = .next (told s (.spdm 9 false [])) ∧
      exec (.getMeasurements 0x10) s = .next (told s (.spdm 6 false [])))

/-! Translation, and the memory's form. -/

/-- R299, R302: a walk goes through the tables of the space to a leaf, of 16 KiB, 32 MiB or 64 GiB, and gives its frame with the low bits of the
address; an entry that is not valid, an address of 2^52 and more and a space that is no table are page faults; a leaf that does not permit the
access is a permission fault. -/
def Sys2Proof.Claims.Translation : Prop :=
  ∀ (s : State) (w : Who) (acc : Acc) (va t1 t2 t3 : Nat),
    let fault (c : Nat) : Except Trap Xl := .error { cause := c, tval := BitVec.ofNat 64 va }
    let ends (t i b : Nat) : Prop :=
      let e := tableEntry s t i
      let pa := e / 0x4000 % 2 ^ 34 * 0x4000 + va % 2 ^ b
      (Leaf s e b va → Permitted e acc w.iss.secure → ∃ r, regionOf pa = some r ∧ xlate s w acc va = .ok ⟨pa, e, t + 8 * i, r⟩) ∧
      (Leaf s e b va → ¬ Permitted e acc w.iss.secure → xlate s w acc va = fault 0x05) ∧
      (e % 2 = 0 → xlate s w acc va = fault 0x04)
    (Walked s w va t1 t2 t3 → ends t3 (va / 2 ^ 14 % 2048) 14) ∧
    (va < 2 ^ 52 → s.staleXlat = false → TableFrame s w.iss.space 0 → Points s w.iss.space (va / 2 ^ 47 % 32) t1 1 →
      ends t1 (va / 2 ^ 36 % 2048) 36 ∧ (Points s t1 (va / 2 ^ 36 % 2048) t2 2 → ends t2 (va / 2 ^ 25 % 2048) 25)) ∧
    (2 ^ 52 ≤ va → xlate s w acc va = fault 0x04) ∧
    ((∀ lvl, ¬ TableFrame s w.iss.space lvl) → s.hub.aframes.toNat ≤ 2 ^ 20 → xlate s w acc va = fault 0x04)

/-- R303: a load sets A of the leaf it went through, and a store A and D, where the translation it used does not show them set; no other byte
of memory changes. -/
def Sys2Proof.Claims.AccessBits : Prop :=
  ∀ (s : State) (x : Xl) (store : Bool),
    let a := s.hub.aback.toNat + (x.entry - 0x7F8000000000)
    let found := x.leaf.testBit 9 = true ∧ (store = true → x.leaf.testBit 10 = true)
    (touch s x store) = { s with mem := (touch s x store).mem } ∧
    (found → touch s x store = s) ∧
    (¬ found ∨ x.leaf = memRead s.mem a 8 → ∀ i, i < 64 → (memRead (touch s x store).mem a 8).testBit i =
      ((memRead s.mem a 8).testBit i || decide (i = 9) || (store && decide (i = 10)))) ∧
    (∀ b, b < a ∨ a + 8 ≤ b → memGet (touch s x store).mem b = memGet s.mem b)

/-- In every step, the memory keeps its one form: addresses rise, and no byte that reads as an unlisted one is listed. -/
def Obligations.MemoryFormKept : Prop :=
  ∀ (s t : State), Memory.wf s.mem = true → step s = .next t → Memory.wf t.mem = true

/-- The memory has that form at reset, where it lists nothing, and reads as 0 everywhere (log 3: the model's choice). -/
def Obligations.MemoryFormAtReset : Prop :=
  Memory.wf State.reset.mem = true ∧ ∀ a, memGet State.reset.mem a = 0

/-- R201, R205, R35, R36, R105, R166, R168, R204, R220, R245, R294, R328, R332, R339: what reset leaves, of what the maps give a value. -/
def Obligations.Reset : Prop :=
  (∀ h : HartId, let x := State.reset.hart h
    x.state = .empty ∧ x.nstop = 0 ∧ x.space = 0 ∧ x.func = 0 ∧ x.c.pc = 0 ∧ x.c.inh = false ∧ (∀ j : Fin 32, x.c.g[j] = 0 ∧ x.c.hw[j] = 0) ∧
    (∀ j : Fin 8, x.c.sh[j] = 0 ∧ x.c.m[j] = 0 ∧ x.c.k[j] = 0) ∧ (∀ j : Fin 4, x.live.acc[j] = 0) ∧ x.c.accst = 0 ∧ x.c.vqcount = 0 ∧
    (∀ j : Fin 18, x.c.st[j] = if j = 1 then 0x8000000000000000#64 else 0) ∧ x.c.treg = 0) ∧
  (∀ t : TileId, let y := State.reset.tile t
    (∀ i : Fin 8, y.slots[i] = BitVec.ofNat 64 (1 + 16 * i.val + 256 + 4096 * i.val + 2 ^ 19)) ∧ y.holder = 0x76543210#32 ∧ y.gcur = true ∧
    y.gchg = false ∧ y.nchg = 0 ∧ y.quar = false ∧ y.nheld = 0) ∧
  (∀ q : Fin 65536, ∀ j : Fin 9, (State.reset.queue q.val).w[j] = 0) ∧
  (∀ f : FuncId, ∀ j : Fin 10, (State.reset.func f.val).w[j] = if j = 3 then BitVec.ofNat 64 (8 * 2 ^ 23) else 0) ∧
  State.reset.hub.cluster = BitVec.allOnes 64 ∧ (∀ i : Fin 8, State.reset.hub.mx[i] = 0) ∧ State.reset.hub.lease.state = 0

/-! The statements that have parts. -/

/-- Words that the spec writes out decode to their instructions; reserved majors and compressed opcodes are none. -/
def Obligations.Words : Prop :=
  Sys2Proof.Claims.ReservedRefused ∧ Sys2Proof.Claims.Words

/-- Scalar arithmetic: each instruction writes its result to g[D], and nothing else changes. -/
def Obligations.Arithmetic : Prop :=
  Sys2Proof.Claims.RegisterOps ∧ Sys2Proof.Claims.CountOps ∧ Sys2Proof.Claims.DivisionIdentity ∧ Sys2Proof.Claims.ImmediateOps ∧ Sys2Proof.Claims.ParcelOps

/-- Jumps and branches: the next PC, the link, and the trap of an odd target. -/
def Obligations.ControlFlow : Prop :=
  Sys2Proof.Claims.Jumps ∧ Sys2Proof.Claims.Branches

/-- Scalar loads and stores: the bytes read or written, the extension, and the traps of an access that meets a fault. -/
def Obligations.ScalarMemory : Prop :=
  Sys2Proof.Claims.Loads ∧ Sys2Proof.Claims.Stores ∧ Sys2Proof.Claims.ScalarFaults

/-- A step performs the instruction that the bytes at PC decode to. -/
def Obligations.StepPerformsDecoded : Prop :=
  Sys2Proof.Claims.StepPerformsDecoded ∧ Sys2Proof.Claims.StepAddsNothing

/-- Taking a trap, faulting where nothing handles it, and tret. -/
def Obligations.Traps : Prop :=
  Sys2Proof.Claims.ControlOnly ∧ Sys2Proof.Claims.TrapsEnter ∧ Sys2Proof.Claims.TrapsFault ∧ Sys2Proof.Claims.TrapReturns

/-- An event and a vector-side fault enter the handler at a boundary. -/
def Obligations.EventsAndVectorFaults : Prop :=
  Sys2Proof.Claims.EventsEnter ∧ Sys2Proof.Claims.VectorFaultEnters

/-- The fences and tfence: what they perform, when they wait, and which scopes are illegal. -/
def Obligations.Fences : Prop :=
  Sys2Proof.Claims.Fences ∧ Sys2Proof.Claims.SentHome ∧ Sys2Proof.Claims.TableFence ∧ Sys2Proof.Claims.WaitingFences

/-- getst and setst of each of the status registers. -/
def Obligations.StatusRegisters : Prop :=
  Sys2Proof.Claims.StatusRead ∧ Sys2Proof.Claims.StatusWrite

/-- Gears: the wanted gear, what asks for it, and the beginning and the end of a change. -/
def Obligations.Gears : Prop :=
  Sys2Proof.Claims.GearChangeBegins ∧ Sys2Proof.Claims.GearRequests ∧ Sys2Proof.Claims.GearChangeEnds

/-- setvl, setvlr and setvlg: the type, VL, and renegotiated lanes. -/
def Obligations.VectorLength : Prop :=
  Sys2Proof.Claims.SetVl ∧ Sys2Proof.Claims.SetVlRenegotiates

/-- Vector integer instructions and vmerge: elements, tail, marks, and all else unchanged. -/
def Obligations.VectorInteger : Prop :=
  Sys2Proof.Claims.VectorInteger ∧ Sys2Proof.Claims.VectorMerge

/-- Fixed-point vector instructions: saturation, rounding and narrowing. -/
def Obligations.FixedPoint : Prop :=
  Sys2Proof.Claims.VectorSaturating ∧ Sys2Proof.Claims.VectorRounding ∧ Sys2Proof.Claims.VectorNarrowing

/-- Vector compares into a mask, and sums and differences with carry. -/
def Obligations.VectorCompare : Prop :=
  Sys2Proof.Claims.VectorCompare ∧ Sys2Proof.Claims.VectorCarry

/-- Mask logic, moves between masks and groups, counts and positions. -/
def Obligations.MaskLogic : Prop :=
  Sys2Proof.Claims.MaskLogic ∧ Sys2Proof.Claims.MaskCounts

/-- Floating-point vector instructions with their flags (the special functions' last bit: log 16). -/
def Obligations.VectorFloat : Prop :=
  Sys2Proof.Claims.VectorFloat ∧ Sys2Proof.Claims.VectorSpecial

/-- A value that a format holds rounds to itself; results for NaNs, infinities and zeros. -/
def Obligations.FloatValues : Prop :=
  Sys2Proof.Claims.RoundingKeeps ∧ Sys2Proof.Claims.FloatSpecials

/-- Permutes and moves: every source element is read before any is written. -/
def Obligations.VectorPermute : Prop :=
  Sys2Proof.Claims.VectorPermute ∧ Sys2Proof.Claims.VectorMoves

/-- Reductions in ascending order, and vcapp. -/
def Obligations.VectorReduce : Prop :=
  Sys2Proof.Claims.VectorReduce ∧ Sys2Proof.Claims.VectorAppend

/-- mzero, mrow, mstr and mstx. -/
def Obligations.MatrixDrain : Prop :=
  Sys2Proof.Claims.MatrixDrain ∧ Sys2Proof.Claims.MatrixStores

/-- Unit-stride, strided and indexed vector loads and stores. -/
def Obligations.VectorLoadsStores : Prop :=
  Sys2Proof.Claims.VectorLoads ∧ Sys2Proof.Claims.VectorStores

/-- vldff, the trap of a vector load, and the moves of masks and scales. -/
def Obligations.VectorFaults : Prop :=
  Sys2Proof.Claims.VectorFirstFault ∧ Sys2Proof.Claims.VectorLoadTraps ∧ Sys2Proof.Claims.MaskScaleMoves

/-- Futures: fpoll, fres, fjoin, and the walker of links. -/
def Obligations.Futures : Prop :=
  Sys2Proof.Claims.Futures ∧ Sys2Proof.Claims.Walks

/-- Barriers: bara, barx, barw. -/
def Obligations.Barriers : Prop :=
  Sys2Proof.Claims.Barriers ∧ Sys2Proof.Claims.BarrierReturns

/-- Tasks: spawn and tget. -/
def Obligations.Tasks : Prop :=
  Sys2Proof.Claims.Spawns ∧ Sys2Proof.Claims.TasksTaken ∧ Sys2Proof.Claims.TasksStolen

/-- Streams: vfetch and vfetchr, the begin of a stream, and the groups of a queued instruction. -/
def Obligations.Streams : Prop :=
  Sys2Proof.Claims.StreamsQueued ∧ Sys2Proof.Claims.StreamBegins ∧ Sys2Proof.Claims.QueuedGroups

/-- vtfetch threads virtual processors; vstop ends the stream or the processor. -/
def Obligations.VirtualProcessors : Prop :=
  Sys2Proof.Claims.VpsLeave ∧ Sys2Proof.Claims.VpsStop

/-- vskip, vlset and vlbr. -/
def Obligations.Regions : Prop :=
  Sys2Proof.Claims.Regions ∧ Sys2Proof.Claims.Loops

/-- vreply and qrecv. -/
def Obligations.Replies : Prop :=
  Sys2Proof.Claims.RepliesPosted ∧ Sys2Proof.Claims.RepliesTaken

/-- Rays: sbind, sfree, sstat, and the engine. -/
def Obligations.Rays : Prop :=
  Sys2Proof.Claims.RaysBound ∧ Sys2Proof.Claims.RaysFreed ∧ Sys2Proof.Claims.RaysMove

/-- Copies: scopy and scopyb, and the strips of a copy. -/
def Obligations.Copies : Prop :=
  Sys2Proof.Claims.CopiesForked ∧ Sys2Proof.Claims.StripsTaken ∧ Sys2Proof.Claims.StripsDone ∧ Sys2Proof.Claims.StripsFault

/-- Tangent regions: apx, apxend and apxinv. -/
def Obligations.TangentRegions : Prop :=
  Sys2Proof.Claims.RegionsOpen ∧ Sys2Proof.Claims.RegionsAnswered ∧ Sys2Proof.Claims.RegionsEnd ∧ Sys2Proof.Claims.RegionsRetried

/-- The commands of a tangent slot, and a training step. -/
def Obligations.FittingEngine : Prop :=
  Sys2Proof.Claims.SlotCommands ∧ Sys2Proof.Claims.TrainingSteps

/-- RESUME, STEP, STOP, CLEAR, the save of a context, and exit. -/
def Obligations.Harts : Prop :=
  Sys2Proof.Claims.HartsStart ∧ Sys2Proof.Claims.HartsStop ∧ Sys2Proof.Claims.Exits

/-- Stores to control pages: images, error logs, queue heads, slot words. -/
def Obligations.Pages : Prop :=
  Sys2Proof.Claims.PageStores ∧ Sys2Proof.Claims.SlotWords

/-- Kernels: ARM, ABORT, RESET, the launcher, and closure. -/
def Obligations.Kernels : Prop :=
  Sys2Proof.Claims.KernelCommands ∧ Sys2Proof.Claims.KernelsLaunch ∧ Sys2Proof.Claims.KernelsClose

/-- Host commands: each packet, the notify registers, and an undefined code. -/
def Obligations.HostCommands : Prop :=
  Sys2Proof.Claims.HostCommands ∧ Sys2Proof.Claims.HostCommandsOnMemory ∧ Sys2Proof.Claims.Notifies

/-- The host link: BAR2, MSI-X, lost writes, timeouts. -/
def Obligations.HostLink : Prop :=
  Sys2Proof.Claims.HostLink ∧ Sys2Proof.Claims.RequestTimeouts

/-- Functions: reset, enabling, power-on and hand-over. -/
def Obligations.Functions : Prop :=
  Sys2Proof.Claims.FunctionsReset ∧ Sys2Proof.Claims.FunctionsBegin

/-- Peer accesses through inbound windows, and ports. -/
def Obligations.Peers : Prop :=
  Sys2Proof.Claims.PeerAccesses ∧ Sys2Proof.Claims.Ports

/-- Leases and SPDM requests. -/
def Obligations.Leases : Prop :=
  Sys2Proof.Claims.Leases ∧ Sys2Proof.Claims.Spdm

/-- Translation: the walk, permission, and the A and D bits. -/
def Obligations.Translation : Prop :=
  Sys2Proof.Claims.Translation ∧ Sys2Proof.Claims.AccessBits
end

