-- ==== Sys2Proof/Laws/Run.lean ====
section
/-! SUPPORT. Running a computation that may trap: one equation per way of building one. -/
namespace Sys2Proof.Machine
set_option Elab.async false

/-- The outcome and the state that m leaves from s. -/
abbrev M.go {α : Type} (m : M α) (s : State) : Except Trap α × State := m.run.run s

@[simp] theorem go_pure {α : Type} (a : α) (s : State) : (pure a : M α).run.run s = (.ok a, s) := rfl
@[simp] theorem go_get (s : State) : (get : M State).run.run s = (.ok s, s) := rfl
@[simp] theorem go_set (t s : State) : (set t : M Unit).run.run s = (.ok (), t) := rfl
@[simp] theorem go_modify (f : State → State) (s : State) : (modify f : M Unit).run.run s = (.ok (), f s) := rfl
@[simp] theorem go_throw {α : Type} (t : Trap) (s : State) : (throw t : M α).run.run s = (.error t, s) := rfl
@[simp] theorem go_trap {α : Type} (c v e : Nat) (s : State) :
    (trap c v e : M α).run.run s = (.error { cause := c, tval := BitVec.ofNat 64 v, telem := e }, s) := rfl

/-- One after another: a trap of the first ends it. -/
theorem go_bind {α β : Type} (m : M α) (f : α → M β) (s : State) :
    (m >>= f).run.run s = match m.run.run s with
      | (.ok a, t) => (f a).run.run t
      | (.error e, t) => (.error e, t) := by
  simp only [ExceptT.run_bind, StateT.run_bind]
  cases h : m.run.run s with
  | mk r t => cases r <;> simp_all <;> rfl

theorem go_bind_ok {α β : Type} {m : M α} {f : α → M β} {s t : State} {a : α} (h : m.run.run s = (.ok a, t)) :
    (m >>= f).run.run s = (f a).run.run t := by rw [go_bind, h]
theorem go_bind_error {α β : Type} {m : M α} {f : α → M β} {s t : State} {e : Trap} (h : m.run.run s = (.error e, t)) :
    (m >>= f).run.run s = (.error e, t) := by rw [go_bind, h]

@[simp] theorem go_get_bind {β : Type} (f : State → M β) (s : State) : ((get : M State) >>= f).run.run s = (f s).run.run s := rfl
@[simp] theorem go_set_bind {β : Type} (t : State) (f : Unit → M β) (s : State) :
    ((set t : M Unit) >>= f).run.run s = (f ()).run.run t := rfl
@[simp] theorem go_modify_bind {β : Type} (g : State → State) (f : Unit → M β) (s : State) :
    ((modify g : M Unit) >>= f).run.run s = (f ()).run.run (g s) := rfl
@[simp] theorem go_pure_bind {α β : Type} (a : α) (f : α → M β) (s : State) : ((pure a : M α) >>= f).run.run s = (f a).run.run s := rfl
@[simp] theorem go_throw_bind {α β : Type} (t : Trap) (f : α → M β) (s : State) :
    ((throw t : M α) >>= f).run.run s = (.error t, s) := rfl
@[simp] theorem go_trap_bind {α β : Type} (c v e : Nat) (f : α → M β) (s : State) :
    ((trap c v e : M α) >>= f).run.run s = (.error { cause := c, tval := BitVec.ofNat 64 v, telem := e }, s) := rfl

/-- What the control thread does at the end of its instruction. -/
theorem finish_ok {m : M Unit} {s t : State} (h : m.run.run s = (.ok (), t)) : finish m s = .next t := by simp [finish, h]
theorem finish_error {m : M Unit} {s t : State} {e : Trap} (h : m.run.run s = (.error e, t)) :
    finish m s = .next (if e.cause = waits then t else takeTrap e t) := by simp [finish, h]
theorem inControl_control {enc : Nat} {m : M Unit} {s : State} (h : s.cur.thread = .control) : inControl enc m s = finish m s := by
  simp [inControl, h]
theorem inControl_other {enc : Nat} {m : M Unit} {s : State} (h : s.cur.thread ≠ .control) :
    inControl enc m s = .next (takeTrap { cause := 0x01, tval := BitVec.ofNat 64 enc } s) := by
  unfold inControl
  split
  · next e => exact absurd e h
  · rfl

end Sys2Proof.Machine
end

