-- ==== Sys2Proof/Laws/State.lean ====
section
/-! SUPPORT. Small laws of the state: reading a numbered part after writing one, and for each update of the state one
lemma per field that it leaves alone. -/
namespace Sys2Proof.Machine

/-! Maps by number. -/

@[simp] theorem mget_mset_same {α : Type} (l : List (Nat × α)) (k : Nat) (x d : α) : mget (mset l k x) k d = x := by
  induction l with
  | nil => simp [mset, mget]
  | cons p r ih =>
    obtain ⟨j, y⟩ := p
    unfold mset
    split
    · next h => rw [mget, if_neg (Nat.ne_of_lt h), ih]
    · split <;> simp [mget]

theorem mget_mset_ne {α : Type} (l : List (Nat × α)) {k k' : Nat} (x d : α) (h : k ≠ k') :
    mget (mset l k x) k' d = mget l k' d := by
  induction l with
  | nil => simp [mset, mget, h]
  | cons p r ih =>
    obtain ⟨j, y⟩ := p
    unfold mset
    split
    · simp only [mget, ih]
    · split
      · next h' => simp only [mget, h', if_neg h]
      · simp only [mget, if_neg h]

@[simp] theorem mset_mset {α : Type} (l : List (Nat × α)) (k : Nat) (x y : α) : mset (mset l k x) k y = mset l k y := by
  induction l with
  | nil => simp [mset]
  | cons p r ih =>
    obtain ⟨j, z⟩ := p
    by_cases h : j < k
    · simp [mset, h, ih]
    · by_cases h' : j = k
      · simp [mset, h']
      · simp [mset, h, h']

/-! Harts, tiles and the other numbered parts. -/

@[simp] theorem hart_setHart_same (s : State) (h : HartId) (x : Hart) : (s.setHart h x).hart h = x := mget_mset_same _ _ _ _
theorem hart_setHart_ne (s : State) {h k : HartId} (x : Hart) (n : h ≠ k) : (s.setHart h x).hart k = s.hart k :=
  mget_mset_ne _ _ _ fun e => n (Fin.ext e)
@[simp] theorem hart_onHart_same (s : State) (h : HartId) (f : Hart → Hart) : (s.onHart h f).hart h = f (s.hart h) :=
  hart_setHart_same _ _ _
theorem hart_onHart_ne (s : State) {h k : HartId} (f : Hart → Hart) (n : h ≠ k) : (s.onHart h f).hart k = s.hart k :=
  hart_setHart_ne _ _ n
@[simp] theorem setHart_setHart (s : State) (h : HartId) (x y : Hart) : (s.setHart h x).setHart h y = s.setHart h y := by
  simp [State.setHart]
theorem onHart_congr {s : State} {h : HartId} {f g : Hart → Hart} (e : f (s.hart h) = g (s.hart h)) : s.onHart h f = s.onHart h g := by
  simp only [State.onHart, e]
@[simp] theorem onHart_onHart (s : State) (h : HartId) (f g : Hart → Hart) :
    (s.onHart h f).onHart h g = s.onHart h fun x => g (f x) := by
  simp [State.onHart]
@[simp] theorem tile_setTile_same (s : State) (t : TileId) (x : Tile) : (s.setTile t x).tile t = x := mget_mset_same _ _ _ _
theorem tile_setTile_ne (s : State) {t u : TileId} (x : Tile) (n : t ≠ u) : (s.setTile t x).tile u = s.tile u :=
  mget_mset_ne _ _ _ fun e => n (Fin.ext e)
@[simp] theorem tile_onTile_same (s : State) (t : TileId) (f : Tile → Tile) : (s.onTile t f).tile t = f (s.tile t) :=
  tile_setTile_same _ _ _
@[simp] theorem tslot_setTslot_same (s : State) (k : Nat) (x : TSlot) : (s.setTslot k x).tslot k = x := mget_mset_same _ _ _ _
theorem tslot_setTslot_ne (s : State) {k j : Nat} (x : TSlot) (n : k ≠ j) : (s.setTslot k x).tslot j = s.tslot j := mget_mset_ne _ _ _ n
@[simp] theorem queue_setQueue_same (s : State) (k : Nat) (x : Queue) : (s.setQueue k x).queue k = x := mget_mset_same _ _ _ _
theorem queue_setQueue_ne (s : State) {k j : Nat} (x : Queue) (n : k ≠ j) : (s.setQueue k x).queue j = s.queue j := mget_mset_ne _ _ _ n
@[simp] theorem kernel_setKernel_same (s : State) (k : Nat) (x : Kernel) : (s.setKernel k x).kernel k = x := mget_mset_same _ _ _ _
theorem kernel_setKernel_ne (s : State) {k j : Nat} (x : Kernel) (n : k ≠ j) : (s.setKernel k x).kernel j = s.kernel j := mget_mset_ne _ _ _ n
@[simp] theorem func_setFunc_same (s : State) (k : Nat) (x : Func) : (s.setFunc k x).func k = x := mget_mset_same _ _ _ _
theorem func_setFunc_ne (s : State) {k j : Nat} (x : Func) (n : k ≠ j) : (s.setFunc k x).func j = s.func j := mget_mset_ne _ _ _ n
@[simp] theorem engine_setEngine_same (s : State) (k : Nat) (x : Engine) : (s.setEngine k x).engine k = x := mget_mset_same _ _ _ _
theorem engine_setEngine_ne (s : State) {k j : Nat} (x : Engine) (n : k ≠ j) : (s.setEngine k x).engine j = s.engine j := mget_mset_ne _ _ _ n

/-! A part read after another part was written. -/

@[simp] theorem setHart_tile (s : State) (h : HartId) (x : Hart) (u : TileId) : (s.setHart h x).tile u = s.tile u := rfl
@[simp] theorem setHart_engine (s : State) (h : HartId) (x : Hart) (j : Nat) : (s.setHart h x).engine j = s.engine j := rfl
@[simp] theorem setHart_tslot (s : State) (h : HartId) (x : Hart) (j : Nat) : (s.setHart h x).tslot j = s.tslot j := rfl
@[simp] theorem setHart_queue (s : State) (h : HartId) (x : Hart) (j : Nat) : (s.setHart h x).queue j = s.queue j := rfl
@[simp] theorem setHart_kernel (s : State) (h : HartId) (x : Hart) (j : Nat) : (s.setHart h x).kernel j = s.kernel j := rfl
@[simp] theorem setHart_func (s : State) (h : HartId) (x : Hart) (j : Nat) : (s.setHart h x).func j = s.func j := rfl
@[simp] theorem onHart_tile (s : State) (h : HartId) (f : Hart → Hart) (u : TileId) : (s.onHart h f).tile u = s.tile u := rfl
@[simp] theorem onHart_engine (s : State) (h : HartId) (f : Hart → Hart) (j : Nat) : (s.onHart h f).engine j = s.engine j := rfl
@[simp] theorem onHart_tslot (s : State) (h : HartId) (f : Hart → Hart) (j : Nat) : (s.onHart h f).tslot j = s.tslot j := rfl
@[simp] theorem onHart_queue (s : State) (h : HartId) (f : Hart → Hart) (j : Nat) : (s.onHart h f).queue j = s.queue j := rfl
@[simp] theorem onHart_kernel (s : State) (h : HartId) (f : Hart → Hart) (j : Nat) : (s.onHart h f).kernel j = s.kernel j := rfl
@[simp] theorem onHart_func (s : State) (h : HartId) (f : Hart → Hart) (j : Nat) : (s.onHart h f).func j = s.func j := rfl
@[simp] theorem setTile_hart (s : State) (t : TileId) (x : Tile) (hh : HartId) : (s.setTile t x).hart hh = s.hart hh := rfl
@[simp] theorem setTile_engine (s : State) (t : TileId) (x : Tile) (j : Nat) : (s.setTile t x).engine j = s.engine j := rfl
@[simp] theorem setTile_tslot (s : State) (t : TileId) (x : Tile) (j : Nat) : (s.setTile t x).tslot j = s.tslot j := rfl
@[simp] theorem setTile_queue (s : State) (t : TileId) (x : Tile) (j : Nat) : (s.setTile t x).queue j = s.queue j := rfl
@[simp] theorem setTile_kernel (s : State) (t : TileId) (x : Tile) (j : Nat) : (s.setTile t x).kernel j = s.kernel j := rfl
@[simp] theorem setTile_func (s : State) (t : TileId) (x : Tile) (j : Nat) : (s.setTile t x).func j = s.func j := rfl
@[simp] theorem onTile_hart (s : State) (t : TileId) (f : Tile → Tile) (hh : HartId) : (s.onTile t f).hart hh = s.hart hh := rfl
@[simp] theorem onTile_engine (s : State) (t : TileId) (f : Tile → Tile) (j : Nat) : (s.onTile t f).engine j = s.engine j := rfl
@[simp] theorem onTile_tslot (s : State) (t : TileId) (f : Tile → Tile) (j : Nat) : (s.onTile t f).tslot j = s.tslot j := rfl
@[simp] theorem onTile_queue (s : State) (t : TileId) (f : Tile → Tile) (j : Nat) : (s.onTile t f).queue j = s.queue j := rfl
@[simp] theorem onTile_kernel (s : State) (t : TileId) (f : Tile → Tile) (j : Nat) : (s.onTile t f).kernel j = s.kernel j := rfl
@[simp] theorem onTile_func (s : State) (t : TileId) (f : Tile → Tile) (j : Nat) : (s.onTile t f).func j = s.func j := rfl
@[simp] theorem setEngine_hart (s : State) (e : Nat) (x : Engine) (hh : HartId) : (s.setEngine e x).hart hh = s.hart hh := rfl
@[simp] theorem setEngine_tile (s : State) (e : Nat) (x : Engine) (u : TileId) : (s.setEngine e x).tile u = s.tile u := rfl
@[simp] theorem setEngine_tslot (s : State) (e : Nat) (x : Engine) (j : Nat) : (s.setEngine e x).tslot j = s.tslot j := rfl
@[simp] theorem setEngine_queue (s : State) (e : Nat) (x : Engine) (j : Nat) : (s.setEngine e x).queue j = s.queue j := rfl
@[simp] theorem setEngine_kernel (s : State) (e : Nat) (x : Engine) (j : Nat) : (s.setEngine e x).kernel j = s.kernel j := rfl
@[simp] theorem setEngine_func (s : State) (e : Nat) (x : Engine) (j : Nat) : (s.setEngine e x).func j = s.func j := rfl
@[simp] theorem setTslot_hart (s : State) (k : Nat) (x : TSlot) (hh : HartId) : (s.setTslot k x).hart hh = s.hart hh := rfl
@[simp] theorem setTslot_tile (s : State) (k : Nat) (x : TSlot) (u : TileId) : (s.setTslot k x).tile u = s.tile u := rfl
@[simp] theorem setTslot_engine (s : State) (k : Nat) (x : TSlot) (j : Nat) : (s.setTslot k x).engine j = s.engine j := rfl
@[simp] theorem setTslot_queue (s : State) (k : Nat) (x : TSlot) (j : Nat) : (s.setTslot k x).queue j = s.queue j := rfl
@[simp] theorem setTslot_kernel (s : State) (k : Nat) (x : TSlot) (j : Nat) : (s.setTslot k x).kernel j = s.kernel j := rfl
@[simp] theorem setTslot_func (s : State) (k : Nat) (x : TSlot) (j : Nat) : (s.setTslot k x).func j = s.func j := rfl
@[simp] theorem setQueue_hart (s : State) (q : Nat) (x : Queue) (hh : HartId) : (s.setQueue q x).hart hh = s.hart hh := rfl
@[simp] theorem setQueue_tile (s : State) (q : Nat) (x : Queue) (u : TileId) : (s.setQueue q x).tile u = s.tile u := rfl
@[simp] theorem setQueue_engine (s : State) (q : Nat) (x : Queue) (j : Nat) : (s.setQueue q x).engine j = s.engine j := rfl
@[simp] theorem setQueue_tslot (s : State) (q : Nat) (x : Queue) (j : Nat) : (s.setQueue q x).tslot j = s.tslot j := rfl
@[simp] theorem setQueue_kernel (s : State) (q : Nat) (x : Queue) (j : Nat) : (s.setQueue q x).kernel j = s.kernel j := rfl
@[simp] theorem setQueue_func (s : State) (q : Nat) (x : Queue) (j : Nat) : (s.setQueue q x).func j = s.func j := rfl
@[simp] theorem setKernel_hart (s : State) (n : Nat) (x : Kernel) (hh : HartId) : (s.setKernel n x).hart hh = s.hart hh := rfl
@[simp] theorem setKernel_tile (s : State) (n : Nat) (x : Kernel) (u : TileId) : (s.setKernel n x).tile u = s.tile u := rfl
@[simp] theorem setKernel_engine (s : State) (n : Nat) (x : Kernel) (j : Nat) : (s.setKernel n x).engine j = s.engine j := rfl
@[simp] theorem setKernel_tslot (s : State) (n : Nat) (x : Kernel) (j : Nat) : (s.setKernel n x).tslot j = s.tslot j := rfl
@[simp] theorem setKernel_queue (s : State) (n : Nat) (x : Kernel) (j : Nat) : (s.setKernel n x).queue j = s.queue j := rfl
@[simp] theorem setKernel_func (s : State) (n : Nat) (x : Kernel) (j : Nat) : (s.setKernel n x).func j = s.func j := rfl
@[simp] theorem setFunc_hart (s : State) (f : Nat) (x : Func) (hh : HartId) : (s.setFunc f x).hart hh = s.hart hh := rfl
@[simp] theorem setFunc_tile (s : State) (f : Nat) (x : Func) (u : TileId) : (s.setFunc f x).tile u = s.tile u := rfl
@[simp] theorem setFunc_engine (s : State) (f : Nat) (x : Func) (j : Nat) : (s.setFunc f x).engine j = s.engine j := rfl
@[simp] theorem setFunc_tslot (s : State) (f : Nat) (x : Func) (j : Nat) : (s.setFunc f x).tslot j = s.tslot j := rfl
@[simp] theorem setFunc_queue (s : State) (f : Nat) (x : Func) (j : Nat) : (s.setFunc f x).queue j = s.queue j := rfl
@[simp] theorem setFunc_kernel (s : State) (f : Nat) (x : Func) (j : Nat) : (s.setFunc f x).kernel j = s.kernel j := rfl
@[simp] theorem onFunc_hart (s : State) (f : Nat) (g : Func → Func) (hh : HartId) : (s.onFunc f g).hart hh = s.hart hh := rfl
@[simp] theorem onFunc_tile (s : State) (f : Nat) (g : Func → Func) (u : TileId) : (s.onFunc f g).tile u = s.tile u := rfl
@[simp] theorem onFunc_engine (s : State) (f : Nat) (g : Func → Func) (j : Nat) : (s.onFunc f g).engine j = s.engine j := rfl
@[simp] theorem onFunc_tslot (s : State) (f : Nat) (g : Func → Func) (j : Nat) : (s.onFunc f g).tslot j = s.tslot j := rfl
@[simp] theorem onFunc_queue (s : State) (f : Nat) (g : Func → Func) (j : Nat) : (s.onFunc f g).queue j = s.queue j := rfl
@[simp] theorem onFunc_kernel (s : State) (f : Nat) (g : Func → Func) (j : Nat) : (s.onFunc f g).kernel j = s.kernel j := rfl
@[simp] theorem later_hart (s : State) (i : Instr) (hh : HartId) : (s.later i).hart hh = s.hart hh := rfl
@[simp] theorem later_tile (s : State) (i : Instr) (u : TileId) : (s.later i).tile u = s.tile u := rfl
@[simp] theorem later_engine (s : State) (i : Instr) (j : Nat) : (s.later i).engine j = s.engine j := rfl
@[simp] theorem later_tslot (s : State) (i : Instr) (j : Nat) : (s.later i).tslot j = s.tslot j := rfl
@[simp] theorem later_queue (s : State) (i : Instr) (j : Nat) : (s.later i).queue j = s.queue j := rfl
@[simp] theorem later_kernel (s : State) (i : Instr) (j : Nat) : (s.later i).kernel j = s.kernel j := rfl
@[simp] theorem later_func (s : State) (i : Instr) (j : Nat) : (s.later i).func j = s.func j := rfl
@[simp] theorem setPc_tile (s : State) (h : HartId) (pc : Word) (u : TileId) : (s.setPc h pc).tile u = s.tile u := rfl
@[simp] theorem setPc_engine (s : State) (h : HartId) (pc : Word) (j : Nat) : (s.setPc h pc).engine j = s.engine j := rfl
@[simp] theorem setPc_tslot (s : State) (h : HartId) (pc : Word) (j : Nat) : (s.setPc h pc).tslot j = s.tslot j := rfl
@[simp] theorem setPc_queue (s : State) (h : HartId) (pc : Word) (j : Nat) : (s.setPc h pc).queue j = s.queue j := rfl
@[simp] theorem setPc_kernel (s : State) (h : HartId) (pc : Word) (j : Nat) : (s.setPc h pc).kernel j = s.kernel j := rfl
@[simp] theorem setPc_func (s : State) (h : HartId) (pc : Word) (j : Nat) : (s.setPc h pc).func j = s.func j := rfl
@[simp] theorem onCtx_tile (s : State) (h : HartId) (f : Ctx → Ctx) (u : TileId) : (s.onCtx h f).tile u = s.tile u := rfl
@[simp] theorem onCtx_engine (s : State) (h : HartId) (f : Ctx → Ctx) (j : Nat) : (s.onCtx h f).engine j = s.engine j := rfl
@[simp] theorem onCtx_tslot (s : State) (h : HartId) (f : Ctx → Ctx) (j : Nat) : (s.onCtx h f).tslot j = s.tslot j := rfl
@[simp] theorem onCtx_queue (s : State) (h : HartId) (f : Ctx → Ctx) (j : Nat) : (s.onCtx h f).queue j = s.queue j := rfl
@[simp] theorem onCtx_kernel (s : State) (h : HartId) (f : Ctx → Ctx) (j : Nat) : (s.onCtx h f).kernel j = s.kernel j := rfl
@[simp] theorem onCtx_func (s : State) (h : HartId) (f : Ctx → Ctx) (j : Nat) : (s.onCtx h f).func j = s.func j := rfl
@[simp] theorem onLive_tile (s : State) (h : HartId) (f : Live → Live) (u : TileId) : (s.onLive h f).tile u = s.tile u := rfl
@[simp] theorem onLive_engine (s : State) (h : HartId) (f : Live → Live) (j : Nat) : (s.onLive h f).engine j = s.engine j := rfl
@[simp] theorem onLive_tslot (s : State) (h : HartId) (f : Live → Live) (j : Nat) : (s.onLive h f).tslot j = s.tslot j := rfl
@[simp] theorem onLive_queue (s : State) (h : HartId) (f : Live → Live) (j : Nat) : (s.onLive h f).queue j = s.queue j := rfl
@[simp] theorem onLive_kernel (s : State) (h : HartId) (f : Live → Live) (j : Nat) : (s.onLive h f).kernel j = s.kernel j := rfl
@[simp] theorem onLive_func (s : State) (h : HartId) (f : Live → Live) (j : Nat) : (s.onLive h f).func j = s.func j := rfl
@[simp] theorem setSt_tile (s : State) (h : HartId) (i : Fin 18) (v : Word) (u : TileId) : (s.setSt h i v).tile u = s.tile u := rfl
@[simp] theorem setSt_engine (s : State) (h : HartId) (i : Fin 18) (v : Word) (j : Nat) : (s.setSt h i v).engine j = s.engine j := rfl
@[simp] theorem setSt_tslot (s : State) (h : HartId) (i : Fin 18) (v : Word) (j : Nat) : (s.setSt h i v).tslot j = s.tslot j := rfl
@[simp] theorem setSt_queue (s : State) (h : HartId) (i : Fin 18) (v : Word) (j : Nat) : (s.setSt h i v).queue j = s.queue j := rfl
@[simp] theorem setSt_kernel (s : State) (h : HartId) (i : Fin 18) (v : Word) (j : Nat) : (s.setSt h i v).kernel j = s.kernel j := rfl
@[simp] theorem setSt_func (s : State) (h : HartId) (i : Fin 18) (v : Word) (j : Nat) : (s.setSt h i v).func j = s.func j := rfl
@[simp] theorem setWait_tile (s : State) (h : HartId) (w : Wait) (u : TileId) : (s.setWait h w).tile u = s.tile u := rfl
@[simp] theorem setWait_engine (s : State) (h : HartId) (w : Wait) (j : Nat) : (s.setWait h w).engine j = s.engine j := rfl
@[simp] theorem setWait_tslot (s : State) (h : HartId) (w : Wait) (j : Nat) : (s.setWait h w).tslot j = s.tslot j := rfl
@[simp] theorem setWait_queue (s : State) (h : HartId) (w : Wait) (j : Nat) : (s.setWait h w).queue j = s.queue j := rfl
@[simp] theorem setWait_kernel (s : State) (h : HartId) (w : Wait) (j : Nat) : (s.setWait h w).kernel j = s.kernel j := rfl
@[simp] theorem setWait_func (s : State) (h : HartId) (w : Wait) (j : Nat) : (s.setWait h w).func j = s.func j := rfl
@[simp] theorem setG_tile (s : State) (h : HartId) (r : Fin 32) (v : Word) (u : TileId) : (s.setG h r v).tile u = s.tile u := by unfold State.setG; split <;> rfl
@[simp] theorem setG_engine (s : State) (h : HartId) (r : Fin 32) (v : Word) (j : Nat) : (s.setG h r v).engine j = s.engine j := by unfold State.setG; split <;> rfl
@[simp] theorem setG_tslot (s : State) (h : HartId) (r : Fin 32) (v : Word) (j : Nat) : (s.setG h r v).tslot j = s.tslot j := by unfold State.setG; split <;> rfl
@[simp] theorem setG_queue (s : State) (h : HartId) (r : Fin 32) (v : Word) (j : Nat) : (s.setG h r v).queue j = s.queue j := by unfold State.setG; split <;> rfl
@[simp] theorem setG_kernel (s : State) (h : HartId) (r : Fin 32) (v : Word) (j : Nat) : (s.setG h r v).kernel j = s.kernel j := by unfold State.setG; split <;> rfl
@[simp] theorem setG_func (s : State) (h : HartId) (r : Fin 32) (v : Word) (j : Nat) : (s.setG h r v).func j = s.func j := by unfold State.setG; split <;> rfl
@[simp] theorem orFlags_tile (s : State) (h : HartId) (f : Nat) (u : TileId) : (s.orFlags h f).tile u = s.tile u := by unfold State.orFlags; split <;> rfl
@[simp] theorem orFlags_engine (s : State) (h : HartId) (f : Nat) (j : Nat) : (s.orFlags h f).engine j = s.engine j := by unfold State.orFlags; split <;> rfl
@[simp] theorem orFlags_tslot (s : State) (h : HartId) (f : Nat) (j : Nat) : (s.orFlags h f).tslot j = s.tslot j := by unfold State.orFlags; split <;> rfl
@[simp] theorem orFlags_queue (s : State) (h : HartId) (f : Nat) (j : Nat) : (s.orFlags h f).queue j = s.queue j := by unfold State.orFlags; split <;> rfl
@[simp] theorem orFlags_kernel (s : State) (h : HartId) (f : Nat) (j : Nat) : (s.orFlags h f).kernel j = s.kernel j := by unfold State.orFlags; split <;> rfl
@[simp] theorem orFlags_func (s : State) (h : HartId) (f : Nat) (j : Nat) : (s.orFlags h f).func j = s.func j := by unfold State.orFlags; split <;> rfl

/-! One lemma per field that an update leaves alone. -/

@[simp] theorem setHart_cur (s : State) (h : HartId) (x : Hart) : (s.setHart h x).cur = s.cur := rfl
@[simp] theorem setHart_agenda (s : State) (h : HartId) (x : Hart) : (s.setHart h x).agenda = s.agenda := rfl
@[simp] theorem setHart_now (s : State) (h : HartId) (x : Hart) : (s.setHart h x).now = s.now := rfl
@[simp] theorem setHart_tiles (s : State) (h : HartId) (x : Hart) : (s.setHart h x).tiles = s.tiles := rfl
@[simp] theorem setHart_engines (s : State) (h : HartId) (x : Hart) : (s.setHart h x).engines = s.engines := rfl
@[simp] theorem setHart_tslots (s : State) (h : HartId) (x : Hart) : (s.setHart h x).tslots = s.tslots := rfl
@[simp] theorem setHart_queues (s : State) (h : HartId) (x : Hart) : (s.setHart h x).queues = s.queues := rfl
@[simp] theorem setHart_kernels (s : State) (h : HartId) (x : Hart) : (s.setHart h x).kernels = s.kernels := rfl
@[simp] theorem setHart_funcs (s : State) (h : HartId) (x : Hart) : (s.setHart h x).funcs = s.funcs := rfl
@[simp] theorem setHart_copies (s : State) (h : HartId) (x : Hart) : (s.setHart h x).copies = s.copies := rfl
@[simp] theorem setHart_walks (s : State) (h : HartId) (x : Hart) : (s.setHart h x).walks = s.walks := rfl
@[simp] theorem setHart_mem (s : State) (h : HartId) (x : Hart) : (s.setHart h x).mem = s.mem := rfl
@[simp] theorem setHart_poison (s : State) (h : HartId) (x : Hart) : (s.setHart h x).poison = s.poison := rfl
@[simp] theorem setHart_lineKey (s : State) (h : HartId) (x : Hart) : (s.setHart h x).lineKey = s.lineKey := rfl
@[simp] theorem setHart_dcache (s : State) (h : HartId) (x : Hart) : (s.setHart h x).dcache = s.dcache := rfl
@[simp] theorem setHart_vbuf (s : State) (h : HartId) (x : Hart) : (s.setHart h x).vbuf = s.vbuf := rfl
@[simp] theorem setHart_icache (s : State) (h : HartId) (x : Hart) : (s.setHart h x).icache = s.icache := rfl
@[simp] theorem setHart_fcache (s : State) (h : HartId) (x : Hart) : (s.setHart h x).fcache = s.fcache := rfl
@[simp] theorem setHart_hub (s : State) (h : HartId) (x : Hart) : (s.setHart h x).hub = s.hub := rfl
@[simp] theorem setHart_sent (s : State) (h : HartId) (x : Hart) : (s.setHart h x).sent = s.sent := rfl
@[simp] theorem setHart_staleXlat (s : State) (h : HartId) (x : Hart) : (s.setHart h x).staleXlat = s.staleXlat := rfl
@[simp] theorem setHart_hostStall (s : State) (h : HartId) (x : Hart) : (s.setHart h x).hostStall = s.hostStall := rfl
@[simp] theorem setHart_peerStall (s : State) (h : HartId) (x : Hart) : (s.setHart h x).peerStall = s.peerStall := rfl
@[simp] theorem setHart_outsideErr (s : State) (h : HartId) (x : Hart) : (s.setHart h x).outsideErr = s.outsideErr := rfl
@[simp] theorem setHart_storeNo (s : State) (h : HartId) (x : Hart) : (s.setHart h x).storeNo = s.storeNo := rfl
@[simp] theorem onHart_cur (s : State) (h : HartId) (f : Hart → Hart) : (s.onHart h f).cur = s.cur := rfl
@[simp] theorem onHart_agenda (s : State) (h : HartId) (f : Hart → Hart) : (s.onHart h f).agenda = s.agenda := rfl
@[simp] theorem onHart_now (s : State) (h : HartId) (f : Hart → Hart) : (s.onHart h f).now = s.now := rfl
@[simp] theorem onHart_tiles (s : State) (h : HartId) (f : Hart → Hart) : (s.onHart h f).tiles = s.tiles := rfl
@[simp] theorem onHart_engines (s : State) (h : HartId) (f : Hart → Hart) : (s.onHart h f).engines = s.engines := rfl
@[simp] theorem onHart_tslots (s : State) (h : HartId) (f : Hart → Hart) : (s.onHart h f).tslots = s.tslots := rfl
@[simp] theorem onHart_queues (s : State) (h : HartId) (f : Hart → Hart) : (s.onHart h f).queues = s.queues := rfl
@[simp] theorem onHart_kernels (s : State) (h : HartId) (f : Hart → Hart) : (s.onHart h f).kernels = s.kernels := rfl
@[simp] theorem onHart_funcs (s : State) (h : HartId) (f : Hart → Hart) : (s.onHart h f).funcs = s.funcs := rfl
@[simp] theorem onHart_copies (s : State) (h : HartId) (f : Hart → Hart) : (s.onHart h f).copies = s.copies := rfl
@[simp] theorem onHart_walks (s : State) (h : HartId) (f : Hart → Hart) : (s.onHart h f).walks = s.walks := rfl
@[simp] theorem onHart_mem (s : State) (h : HartId) (f : Hart → Hart) : (s.onHart h f).mem = s.mem := rfl
@[simp] theorem onHart_poison (s : State) (h : HartId) (f : Hart → Hart) : (s.onHart h f).poison = s.poison := rfl
@[simp] theorem onHart_lineKey (s : State) (h : HartId) (f : Hart → Hart) : (s.onHart h f).lineKey = s.lineKey := rfl
@[simp] theorem onHart_dcache (s : State) (h : HartId) (f : Hart → Hart) : (s.onHart h f).dcache = s.dcache := rfl
@[simp] theorem onHart_vbuf (s : State) (h : HartId) (f : Hart → Hart) : (s.onHart h f).vbuf = s.vbuf := rfl
@[simp] theorem onHart_icache (s : State) (h : HartId) (f : Hart → Hart) : (s.onHart h f).icache = s.icache := rfl
@[simp] theorem onHart_fcache (s : State) (h : HartId) (f : Hart → Hart) : (s.onHart h f).fcache = s.fcache := rfl
@[simp] theorem onHart_hub (s : State) (h : HartId) (f : Hart → Hart) : (s.onHart h f).hub = s.hub := rfl
@[simp] theorem onHart_sent (s : State) (h : HartId) (f : Hart → Hart) : (s.onHart h f).sent = s.sent := rfl
@[simp] theorem onHart_staleXlat (s : State) (h : HartId) (f : Hart → Hart) : (s.onHart h f).staleXlat = s.staleXlat := rfl
@[simp] theorem onHart_hostStall (s : State) (h : HartId) (f : Hart → Hart) : (s.onHart h f).hostStall = s.hostStall := rfl
@[simp] theorem onHart_peerStall (s : State) (h : HartId) (f : Hart → Hart) : (s.onHart h f).peerStall = s.peerStall := rfl
@[simp] theorem onHart_outsideErr (s : State) (h : HartId) (f : Hart → Hart) : (s.onHart h f).outsideErr = s.outsideErr := rfl
@[simp] theorem onHart_storeNo (s : State) (h : HartId) (f : Hart → Hart) : (s.onHart h f).storeNo = s.storeNo := rfl
@[simp] theorem setTile_cur (s : State) (t : TileId) (x : Tile) : (s.setTile t x).cur = s.cur := rfl
@[simp] theorem setTile_agenda (s : State) (t : TileId) (x : Tile) : (s.setTile t x).agenda = s.agenda := rfl
@[simp] theorem setTile_now (s : State) (t : TileId) (x : Tile) : (s.setTile t x).now = s.now := rfl
@[simp] theorem setTile_harts (s : State) (t : TileId) (x : Tile) : (s.setTile t x).harts = s.harts := rfl
@[simp] theorem setTile_engines (s : State) (t : TileId) (x : Tile) : (s.setTile t x).engines = s.engines := rfl
@[simp] theorem setTile_tslots (s : State) (t : TileId) (x : Tile) : (s.setTile t x).tslots = s.tslots := rfl
@[simp] theorem setTile_queues (s : State) (t : TileId) (x : Tile) : (s.setTile t x).queues = s.queues := rfl
@[simp] theorem setTile_kernels (s : State) (t : TileId) (x : Tile) : (s.setTile t x).kernels = s.kernels := rfl
@[simp] theorem setTile_funcs (s : State) (t : TileId) (x : Tile) : (s.setTile t x).funcs = s.funcs := rfl
@[simp] theorem setTile_copies (s : State) (t : TileId) (x : Tile) : (s.setTile t x).copies = s.copies := rfl
@[simp] theorem setTile_walks (s : State) (t : TileId) (x : Tile) : (s.setTile t x).walks = s.walks := rfl
@[simp] theorem setTile_mem (s : State) (t : TileId) (x : Tile) : (s.setTile t x).mem = s.mem := rfl
@[simp] theorem setTile_poison (s : State) (t : TileId) (x : Tile) : (s.setTile t x).poison = s.poison := rfl
@[simp] theorem setTile_lineKey (s : State) (t : TileId) (x : Tile) : (s.setTile t x).lineKey = s.lineKey := rfl
@[simp] theorem setTile_dcache (s : State) (t : TileId) (x : Tile) : (s.setTile t x).dcache = s.dcache := rfl
@[simp] theorem setTile_vbuf (s : State) (t : TileId) (x : Tile) : (s.setTile t x).vbuf = s.vbuf := rfl
@[simp] theorem setTile_icache (s : State) (t : TileId) (x : Tile) : (s.setTile t x).icache = s.icache := rfl
@[simp] theorem setTile_fcache (s : State) (t : TileId) (x : Tile) : (s.setTile t x).fcache = s.fcache := rfl
@[simp] theorem setTile_hub (s : State) (t : TileId) (x : Tile) : (s.setTile t x).hub = s.hub := rfl
@[simp] theorem setTile_sent (s : State) (t : TileId) (x : Tile) : (s.setTile t x).sent = s.sent := rfl
@[simp] theorem setTile_staleXlat (s : State) (t : TileId) (x : Tile) : (s.setTile t x).staleXlat = s.staleXlat := rfl
@[simp] theorem setTile_hostStall (s : State) (t : TileId) (x : Tile) : (s.setTile t x).hostStall = s.hostStall := rfl
@[simp] theorem setTile_peerStall (s : State) (t : TileId) (x : Tile) : (s.setTile t x).peerStall = s.peerStall := rfl
@[simp] theorem setTile_outsideErr (s : State) (t : TileId) (x : Tile) : (s.setTile t x).outsideErr = s.outsideErr := rfl
@[simp] theorem setTile_storeNo (s : State) (t : TileId) (x : Tile) : (s.setTile t x).storeNo = s.storeNo := rfl
@[simp] theorem onTile_cur (s : State) (t : TileId) (f : Tile → Tile) : (s.onTile t f).cur = s.cur := rfl
@[simp] theorem onTile_agenda (s : State) (t : TileId) (f : Tile → Tile) : (s.onTile t f).agenda = s.agenda := rfl
@[simp] theorem onTile_now (s : State) (t : TileId) (f : Tile → Tile) : (s.onTile t f).now = s.now := rfl
@[simp] theorem onTile_harts (s : State) (t : TileId) (f : Tile → Tile) : (s.onTile t f).harts = s.harts := rfl
@[simp] theorem onTile_engines (s : State) (t : TileId) (f : Tile → Tile) : (s.onTile t f).engines = s.engines := rfl
@[simp] theorem onTile_tslots (s : State) (t : TileId) (f : Tile → Tile) : (s.onTile t f).tslots = s.tslots := rfl
@[simp] theorem onTile_queues (s : State) (t : TileId) (f : Tile → Tile) : (s.onTile t f).queues = s.queues := rfl
@[simp] theorem onTile_kernels (s : State) (t : TileId) (f : Tile → Tile) : (s.onTile t f).kernels = s.kernels := rfl
@[simp] theorem onTile_funcs (s : State) (t : TileId) (f : Tile → Tile) : (s.onTile t f).funcs = s.funcs := rfl
@[simp] theorem onTile_copies (s : State) (t : TileId) (f : Tile → Tile) : (s.onTile t f).copies = s.copies := rfl
@[simp] theorem onTile_walks (s : State) (t : TileId) (f : Tile → Tile) : (s.onTile t f).walks = s.walks := rfl
@[simp] theorem onTile_mem (s : State) (t : TileId) (f : Tile → Tile) : (s.onTile t f).mem = s.mem := rfl
@[simp] theorem onTile_poison (s : State) (t : TileId) (f : Tile → Tile) : (s.onTile t f).poison = s.poison := rfl
@[simp] theorem onTile_lineKey (s : State) (t : TileId) (f : Tile → Tile) : (s.onTile t f).lineKey = s.lineKey := rfl
@[simp] theorem onTile_dcache (s : State) (t : TileId) (f : Tile → Tile) : (s.onTile t f).dcache = s.dcache := rfl
@[simp] theorem onTile_vbuf (s : State) (t : TileId) (f : Tile → Tile) : (s.onTile t f).vbuf = s.vbuf := rfl
@[simp] theorem onTile_icache (s : State) (t : TileId) (f : Tile → Tile) : (s.onTile t f).icache = s.icache := rfl
@[simp] theorem onTile_fcache (s : State) (t : TileId) (f : Tile → Tile) : (s.onTile t f).fcache = s.fcache := rfl
@[simp] theorem onTile_hub (s : State) (t : TileId) (f : Tile → Tile) : (s.onTile t f).hub = s.hub := rfl
@[simp] theorem onTile_sent (s : State) (t : TileId) (f : Tile → Tile) : (s.onTile t f).sent = s.sent := rfl
@[simp] theorem onTile_staleXlat (s : State) (t : TileId) (f : Tile → Tile) : (s.onTile t f).staleXlat = s.staleXlat := rfl
@[simp] theorem onTile_hostStall (s : State) (t : TileId) (f : Tile → Tile) : (s.onTile t f).hostStall = s.hostStall := rfl
@[simp] theorem onTile_peerStall (s : State) (t : TileId) (f : Tile → Tile) : (s.onTile t f).peerStall = s.peerStall := rfl
@[simp] theorem onTile_outsideErr (s : State) (t : TileId) (f : Tile → Tile) : (s.onTile t f).outsideErr = s.outsideErr := rfl
@[simp] theorem onTile_storeNo (s : State) (t : TileId) (f : Tile → Tile) : (s.onTile t f).storeNo = s.storeNo := rfl
@[simp] theorem setEngine_cur (s : State) (e : Nat) (x : Engine) : (s.setEngine e x).cur = s.cur := rfl
@[simp] theorem setEngine_agenda (s : State) (e : Nat) (x : Engine) : (s.setEngine e x).agenda = s.agenda := rfl
@[simp] theorem setEngine_now (s : State) (e : Nat) (x : Engine) : (s.setEngine e x).now = s.now := rfl
@[simp] theorem setEngine_harts (s : State) (e : Nat) (x : Engine) : (s.setEngine e x).harts = s.harts := rfl
@[simp] theorem setEngine_tiles (s : State) (e : Nat) (x : Engine) : (s.setEngine e x).tiles = s.tiles := rfl
@[simp] theorem setEngine_tslots (s : State) (e : Nat) (x : Engine) : (s.setEngine e x).tslots = s.tslots := rfl
@[simp] theorem setEngine_queues (s : State) (e : Nat) (x : Engine) : (s.setEngine e x).queues = s.queues := rfl
@[simp] theorem setEngine_kernels (s : State) (e : Nat) (x : Engine) : (s.setEngine e x).kernels = s.kernels := rfl
@[simp] theorem setEngine_funcs (s : State) (e : Nat) (x : Engine) : (s.setEngine e x).funcs = s.funcs := rfl
@[simp] theorem setEngine_copies (s : State) (e : Nat) (x : Engine) : (s.setEngine e x).copies = s.copies := rfl
@[simp] theorem setEngine_walks (s : State) (e : Nat) (x : Engine) : (s.setEngine e x).walks = s.walks := rfl
@[simp] theorem setEngine_mem (s : State) (e : Nat) (x : Engine) : (s.setEngine e x).mem = s.mem := rfl
@[simp] theorem setEngine_poison (s : State) (e : Nat) (x : Engine) : (s.setEngine e x).poison = s.poison := rfl
@[simp] theorem setEngine_lineKey (s : State) (e : Nat) (x : Engine) : (s.setEngine e x).lineKey = s.lineKey := rfl
@[simp] theorem setEngine_dcache (s : State) (e : Nat) (x : Engine) : (s.setEngine e x).dcache = s.dcache := rfl
@[simp] theorem setEngine_vbuf (s : State) (e : Nat) (x : Engine) : (s.setEngine e x).vbuf = s.vbuf := rfl
@[simp] theorem setEngine_icache (s : State) (e : Nat) (x : Engine) : (s.setEngine e x).icache = s.icache := rfl
@[simp] theorem setEngine_fcache (s : State) (e : Nat) (x : Engine) : (s.setEngine e x).fcache = s.fcache := rfl
@[simp] theorem setEngine_hub (s : State) (e : Nat) (x : Engine) : (s.setEngine e x).hub = s.hub := rfl
@[simp] theorem setEngine_sent (s : State) (e : Nat) (x : Engine) : (s.setEngine e x).sent = s.sent := rfl
@[simp] theorem setEngine_staleXlat (s : State) (e : Nat) (x : Engine) : (s.setEngine e x).staleXlat = s.staleXlat := rfl
@[simp] theorem setEngine_hostStall (s : State) (e : Nat) (x : Engine) : (s.setEngine e x).hostStall = s.hostStall := rfl
@[simp] theorem setEngine_peerStall (s : State) (e : Nat) (x : Engine) : (s.setEngine e x).peerStall = s.peerStall := rfl
@[simp] theorem setEngine_outsideErr (s : State) (e : Nat) (x : Engine) : (s.setEngine e x).outsideErr = s.outsideErr := rfl
@[simp] theorem setEngine_storeNo (s : State) (e : Nat) (x : Engine) : (s.setEngine e x).storeNo = s.storeNo := rfl
@[simp] theorem setTslot_cur (s : State) (k : Nat) (x : TSlot) : (s.setTslot k x).cur = s.cur := rfl
@[simp] theorem setTslot_agenda (s : State) (k : Nat) (x : TSlot) : (s.setTslot k x).agenda = s.agenda := rfl
@[simp] theorem setTslot_now (s : State) (k : Nat) (x : TSlot) : (s.setTslot k x).now = s.now := rfl
@[simp] theorem setTslot_harts (s : State) (k : Nat) (x : TSlot) : (s.setTslot k x).harts = s.harts := rfl
@[simp] theorem setTslot_tiles (s : State) (k : Nat) (x : TSlot) : (s.setTslot k x).tiles = s.tiles := rfl
@[simp] theorem setTslot_engines (s : State) (k : Nat) (x : TSlot) : (s.setTslot k x).engines = s.engines := rfl
@[simp] theorem setTslot_queues (s : State) (k : Nat) (x : TSlot) : (s.setTslot k x).queues = s.queues := rfl
@[simp] theorem setTslot_kernels (s : State) (k : Nat) (x : TSlot) : (s.setTslot k x).kernels = s.kernels := rfl
@[simp] theorem setTslot_funcs (s : State) (k : Nat) (x : TSlot) : (s.setTslot k x).funcs = s.funcs := rfl
@[simp] theorem setTslot_copies (s : State) (k : Nat) (x : TSlot) : (s.setTslot k x).copies = s.copies := rfl
@[simp] theorem setTslot_walks (s : State) (k : Nat) (x : TSlot) : (s.setTslot k x).walks = s.walks := rfl
@[simp] theorem setTslot_mem (s : State) (k : Nat) (x : TSlot) : (s.setTslot k x).mem = s.mem := rfl
@[simp] theorem setTslot_poison (s : State) (k : Nat) (x : TSlot) : (s.setTslot k x).poison = s.poison := rfl
@[simp] theorem setTslot_lineKey (s : State) (k : Nat) (x : TSlot) : (s.setTslot k x).lineKey = s.lineKey := rfl
@[simp] theorem setTslot_dcache (s : State) (k : Nat) (x : TSlot) : (s.setTslot k x).dcache = s.dcache := rfl
@[simp] theorem setTslot_vbuf (s : State) (k : Nat) (x : TSlot) : (s.setTslot k x).vbuf = s.vbuf := rfl
@[simp] theorem setTslot_icache (s : State) (k : Nat) (x : TSlot) : (s.setTslot k x).icache = s.icache := rfl
@[simp] theorem setTslot_fcache (s : State) (k : Nat) (x : TSlot) : (s.setTslot k x).fcache = s.fcache := rfl
@[simp] theorem setTslot_hub (s : State) (k : Nat) (x : TSlot) : (s.setTslot k x).hub = s.hub := rfl
@[simp] theorem setTslot_sent (s : State) (k : Nat) (x : TSlot) : (s.setTslot k x).sent = s.sent := rfl
@[simp] theorem setTslot_staleXlat (s : State) (k : Nat) (x : TSlot) : (s.setTslot k x).staleXlat = s.staleXlat := rfl
@[simp] theorem setTslot_hostStall (s : State) (k : Nat) (x : TSlot) : (s.setTslot k x).hostStall = s.hostStall := rfl
@[simp] theorem setTslot_peerStall (s : State) (k : Nat) (x : TSlot) : (s.setTslot k x).peerStall = s.peerStall := rfl
@[simp] theorem setTslot_outsideErr (s : State) (k : Nat) (x : TSlot) : (s.setTslot k x).outsideErr = s.outsideErr := rfl
@[simp] theorem setTslot_storeNo (s : State) (k : Nat) (x : TSlot) : (s.setTslot k x).storeNo = s.storeNo := rfl
@[simp] theorem setQueue_cur (s : State) (q : Nat) (x : Queue) : (s.setQueue q x).cur = s.cur := rfl
@[simp] theorem setQueue_agenda (s : State) (q : Nat) (x : Queue) : (s.setQueue q x).agenda = s.agenda := rfl
@[simp] theorem setQueue_now (s : State) (q : Nat) (x : Queue) : (s.setQueue q x).now = s.now := rfl
@[simp] theorem setQueue_harts (s : State) (q : Nat) (x : Queue) : (s.setQueue q x).harts = s.harts := rfl
@[simp] theorem setQueue_tiles (s : State) (q : Nat) (x : Queue) : (s.setQueue q x).tiles = s.tiles := rfl
@[simp] theorem setQueue_engines (s : State) (q : Nat) (x : Queue) : (s.setQueue q x).engines = s.engines := rfl
@[simp] theorem setQueue_tslots (s : State) (q : Nat) (x : Queue) : (s.setQueue q x).tslots = s.tslots := rfl
@[simp] theorem setQueue_kernels (s : State) (q : Nat) (x : Queue) : (s.setQueue q x).kernels = s.kernels := rfl
@[simp] theorem setQueue_funcs (s : State) (q : Nat) (x : Queue) : (s.setQueue q x).funcs = s.funcs := rfl
@[simp] theorem setQueue_copies (s : State) (q : Nat) (x : Queue) : (s.setQueue q x).copies = s.copies := rfl
@[simp] theorem setQueue_walks (s : State) (q : Nat) (x : Queue) : (s.setQueue q x).walks = s.walks := rfl
@[simp] theorem setQueue_mem (s : State) (q : Nat) (x : Queue) : (s.setQueue q x).mem = s.mem := rfl
@[simp] theorem setQueue_poison (s : State) (q : Nat) (x : Queue) : (s.setQueue q x).poison = s.poison := rfl
@[simp] theorem setQueue_lineKey (s : State) (q : Nat) (x : Queue) : (s.setQueue q x).lineKey = s.lineKey := rfl
@[simp] theorem setQueue_dcache (s : State) (q : Nat) (x : Queue) : (s.setQueue q x).dcache = s.dcache := rfl
@[simp] theorem setQueue_vbuf (s : State) (q : Nat) (x : Queue) : (s.setQueue q x).vbuf = s.vbuf := rfl
@[simp] theorem setQueue_icache (s : State) (q : Nat) (x : Queue) : (s.setQueue q x).icache = s.icache := rfl
@[simp] theorem setQueue_fcache (s : State) (q : Nat) (x : Queue) : (s.setQueue q x).fcache = s.fcache := rfl
@[simp] theorem setQueue_hub (s : State) (q : Nat) (x : Queue) : (s.setQueue q x).hub = s.hub := rfl
@[simp] theorem setQueue_sent (s : State) (q : Nat) (x : Queue) : (s.setQueue q x).sent = s.sent := rfl
@[simp] theorem setQueue_staleXlat (s : State) (q : Nat) (x : Queue) : (s.setQueue q x).staleXlat = s.staleXlat := rfl
@[simp] theorem setQueue_hostStall (s : State) (q : Nat) (x : Queue) : (s.setQueue q x).hostStall = s.hostStall := rfl
@[simp] theorem setQueue_peerStall (s : State) (q : Nat) (x : Queue) : (s.setQueue q x).peerStall = s.peerStall := rfl
@[simp] theorem setQueue_outsideErr (s : State) (q : Nat) (x : Queue) : (s.setQueue q x).outsideErr = s.outsideErr := rfl
@[simp] theorem setQueue_storeNo (s : State) (q : Nat) (x : Queue) : (s.setQueue q x).storeNo = s.storeNo := rfl
@[simp] theorem setKernel_cur (s : State) (n : Nat) (x : Kernel) : (s.setKernel n x).cur = s.cur := rfl
@[simp] theorem setKernel_agenda (s : State) (n : Nat) (x : Kernel) : (s.setKernel n x).agenda = s.agenda := rfl
@[simp] theorem setKernel_now (s : State) (n : Nat) (x : Kernel) : (s.setKernel n x).now = s.now := rfl
@[simp] theorem setKernel_harts (s : State) (n : Nat) (x : Kernel) : (s.setKernel n x).harts = s.harts := rfl
@[simp] theorem setKernel_tiles (s : State) (n : Nat) (x : Kernel) : (s.setKernel n x).tiles = s.tiles := rfl
@[simp] theorem setKernel_engines (s : State) (n : Nat) (x : Kernel) : (s.setKernel n x).engines = s.engines := rfl
@[simp] theorem setKernel_tslots (s : State) (n : Nat) (x : Kernel) : (s.setKernel n x).tslots = s.tslots := rfl
@[simp] theorem setKernel_queues (s : State) (n : Nat) (x : Kernel) : (s.setKernel n x).queues = s.queues := rfl
@[simp] theorem setKernel_funcs (s : State) (n : Nat) (x : Kernel) : (s.setKernel n x).funcs = s.funcs := rfl
@[simp] theorem setKernel_copies (s : State) (n : Nat) (x : Kernel) : (s.setKernel n x).copies = s.copies := rfl
@[simp] theorem setKernel_walks (s : State) (n : Nat) (x : Kernel) : (s.setKernel n x).walks = s.walks := rfl
@[simp] theorem setKernel_mem (s : State) (n : Nat) (x : Kernel) : (s.setKernel n x).mem = s.mem := rfl
@[simp] theorem setKernel_poison (s : State) (n : Nat) (x : Kernel) : (s.setKernel n x).poison = s.poison := rfl
@[simp] theorem setKernel_lineKey (s : State) (n : Nat) (x : Kernel) : (s.setKernel n x).lineKey = s.lineKey := rfl
@[simp] theorem setKernel_dcache (s : State) (n : Nat) (x : Kernel) : (s.setKernel n x).dcache = s.dcache := rfl
@[simp] theorem setKernel_vbuf (s : State) (n : Nat) (x : Kernel) : (s.setKernel n x).vbuf = s.vbuf := rfl
@[simp] theorem setKernel_icache (s : State) (n : Nat) (x : Kernel) : (s.setKernel n x).icache = s.icache := rfl
@[simp] theorem setKernel_fcache (s : State) (n : Nat) (x : Kernel) : (s.setKernel n x).fcache = s.fcache := rfl
@[simp] theorem setKernel_hub (s : State) (n : Nat) (x : Kernel) : (s.setKernel n x).hub = s.hub := rfl
@[simp] theorem setKernel_sent (s : State) (n : Nat) (x : Kernel) : (s.setKernel n x).sent = s.sent := rfl
@[simp] theorem setKernel_staleXlat (s : State) (n : Nat) (x : Kernel) : (s.setKernel n x).staleXlat = s.staleXlat := rfl
@[simp] theorem setKernel_hostStall (s : State) (n : Nat) (x : Kernel) : (s.setKernel n x).hostStall = s.hostStall := rfl
@[simp] theorem setKernel_peerStall (s : State) (n : Nat) (x : Kernel) : (s.setKernel n x).peerStall = s.peerStall := rfl
@[simp] theorem setKernel_outsideErr (s : State) (n : Nat) (x : Kernel) : (s.setKernel n x).outsideErr = s.outsideErr := rfl
@[simp] theorem setKernel_storeNo (s : State) (n : Nat) (x : Kernel) : (s.setKernel n x).storeNo = s.storeNo := rfl
@[simp] theorem setFunc_cur (s : State) (f : Nat) (x : Func) : (s.setFunc f x).cur = s.cur := rfl
@[simp] theorem setFunc_agenda (s : State) (f : Nat) (x : Func) : (s.setFunc f x).agenda = s.agenda := rfl
@[simp] theorem setFunc_now (s : State) (f : Nat) (x : Func) : (s.setFunc f x).now = s.now := rfl
@[simp] theorem setFunc_harts (s : State) (f : Nat) (x : Func) : (s.setFunc f x).harts = s.harts := rfl
@[simp] theorem setFunc_tiles (s : State) (f : Nat) (x : Func) : (s.setFunc f x).tiles = s.tiles := rfl
@[simp] theorem setFunc_engines (s : State) (f : Nat) (x : Func) : (s.setFunc f x).engines = s.engines := rfl
@[simp] theorem setFunc_tslots (s : State) (f : Nat) (x : Func) : (s.setFunc f x).tslots = s.tslots := rfl
@[simp] theorem setFunc_queues (s : State) (f : Nat) (x : Func) : (s.setFunc f x).queues = s.queues := rfl
@[simp] theorem setFunc_kernels (s : State) (f : Nat) (x : Func) : (s.setFunc f x).kernels = s.kernels := rfl
@[simp] theorem setFunc_copies (s : State) (f : Nat) (x : Func) : (s.setFunc f x).copies = s.copies := rfl
@[simp] theorem setFunc_walks (s : State) (f : Nat) (x : Func) : (s.setFunc f x).walks = s.walks := rfl
@[simp] theorem setFunc_mem (s : State) (f : Nat) (x : Func) : (s.setFunc f x).mem = s.mem := rfl
@[simp] theorem setFunc_poison (s : State) (f : Nat) (x : Func) : (s.setFunc f x).poison = s.poison := rfl
@[simp] theorem setFunc_lineKey (s : State) (f : Nat) (x : Func) : (s.setFunc f x).lineKey = s.lineKey := rfl
@[simp] theorem setFunc_dcache (s : State) (f : Nat) (x : Func) : (s.setFunc f x).dcache = s.dcache := rfl
@[simp] theorem setFunc_vbuf (s : State) (f : Nat) (x : Func) : (s.setFunc f x).vbuf = s.vbuf := rfl
@[simp] theorem setFunc_icache (s : State) (f : Nat) (x : Func) : (s.setFunc f x).icache = s.icache := rfl
@[simp] theorem setFunc_fcache (s : State) (f : Nat) (x : Func) : (s.setFunc f x).fcache = s.fcache := rfl
@[simp] theorem setFunc_hub (s : State) (f : Nat) (x : Func) : (s.setFunc f x).hub = s.hub := rfl
@[simp] theorem setFunc_sent (s : State) (f : Nat) (x : Func) : (s.setFunc f x).sent = s.sent := rfl
@[simp] theorem setFunc_staleXlat (s : State) (f : Nat) (x : Func) : (s.setFunc f x).staleXlat = s.staleXlat := rfl
@[simp] theorem setFunc_hostStall (s : State) (f : Nat) (x : Func) : (s.setFunc f x).hostStall = s.hostStall := rfl
@[simp] theorem setFunc_peerStall (s : State) (f : Nat) (x : Func) : (s.setFunc f x).peerStall = s.peerStall := rfl
@[simp] theorem setFunc_outsideErr (s : State) (f : Nat) (x : Func) : (s.setFunc f x).outsideErr = s.outsideErr := rfl
@[simp] theorem setFunc_storeNo (s : State) (f : Nat) (x : Func) : (s.setFunc f x).storeNo = s.storeNo := rfl
@[simp] theorem onFunc_cur (s : State) (f : Nat) (g : Func → Func) : (s.onFunc f g).cur = s.cur := rfl
@[simp] theorem onFunc_agenda (s : State) (f : Nat) (g : Func → Func) : (s.onFunc f g).agenda = s.agenda := rfl
@[simp] theorem onFunc_now (s : State) (f : Nat) (g : Func → Func) : (s.onFunc f g).now = s.now := rfl
@[simp] theorem onFunc_harts (s : State) (f : Nat) (g : Func → Func) : (s.onFunc f g).harts = s.harts := rfl
@[simp] theorem onFunc_tiles (s : State) (f : Nat) (g : Func → Func) : (s.onFunc f g).tiles = s.tiles := rfl
@[simp] theorem onFunc_engines (s : State) (f : Nat) (g : Func → Func) : (s.onFunc f g).engines = s.engines := rfl
@[simp] theorem onFunc_tslots (s : State) (f : Nat) (g : Func → Func) : (s.onFunc f g).tslots = s.tslots := rfl
@[simp] theorem onFunc_queues (s : State) (f : Nat) (g : Func → Func) : (s.onFunc f g).queues = s.queues := rfl
@[simp] theorem onFunc_kernels (s : State) (f : Nat) (g : Func → Func) : (s.onFunc f g).kernels = s.kernels := rfl
@[simp] theorem onFunc_copies (s : State) (f : Nat) (g : Func → Func) : (s.onFunc f g).copies = s.copies := rfl
@[simp] theorem onFunc_walks (s : State) (f : Nat) (g : Func → Func) : (s.onFunc f g).walks = s.walks := rfl
@[simp] theorem onFunc_mem (s : State) (f : Nat) (g : Func → Func) : (s.onFunc f g).mem = s.mem := rfl
@[simp] theorem onFunc_poison (s : State) (f : Nat) (g : Func → Func) : (s.onFunc f g).poison = s.poison := rfl
@[simp] theorem onFunc_lineKey (s : State) (f : Nat) (g : Func → Func) : (s.onFunc f g).lineKey = s.lineKey := rfl
@[simp] theorem onFunc_dcache (s : State) (f : Nat) (g : Func → Func) : (s.onFunc f g).dcache = s.dcache := rfl
@[simp] theorem onFunc_vbuf (s : State) (f : Nat) (g : Func → Func) : (s.onFunc f g).vbuf = s.vbuf := rfl
@[simp] theorem onFunc_icache (s : State) (f : Nat) (g : Func → Func) : (s.onFunc f g).icache = s.icache := rfl
@[simp] theorem onFunc_fcache (s : State) (f : Nat) (g : Func → Func) : (s.onFunc f g).fcache = s.fcache := rfl
@[simp] theorem onFunc_hub (s : State) (f : Nat) (g : Func → Func) : (s.onFunc f g).hub = s.hub := rfl
@[simp] theorem onFunc_sent (s : State) (f : Nat) (g : Func → Func) : (s.onFunc f g).sent = s.sent := rfl
@[simp] theorem onFunc_staleXlat (s : State) (f : Nat) (g : Func → Func) : (s.onFunc f g).staleXlat = s.staleXlat := rfl
@[simp] theorem onFunc_hostStall (s : State) (f : Nat) (g : Func → Func) : (s.onFunc f g).hostStall = s.hostStall := rfl
@[simp] theorem onFunc_peerStall (s : State) (f : Nat) (g : Func → Func) : (s.onFunc f g).peerStall = s.peerStall := rfl
@[simp] theorem onFunc_outsideErr (s : State) (f : Nat) (g : Func → Func) : (s.onFunc f g).outsideErr = s.outsideErr := rfl
@[simp] theorem onFunc_storeNo (s : State) (f : Nat) (g : Func → Func) : (s.onFunc f g).storeNo = s.storeNo := rfl
@[simp] theorem later_cur (s : State) (i : Instr) : (s.later i).cur = s.cur := rfl
@[simp] theorem later_now (s : State) (i : Instr) : (s.later i).now = s.now := rfl
@[simp] theorem later_harts (s : State) (i : Instr) : (s.later i).harts = s.harts := rfl
@[simp] theorem later_tiles (s : State) (i : Instr) : (s.later i).tiles = s.tiles := rfl
@[simp] theorem later_engines (s : State) (i : Instr) : (s.later i).engines = s.engines := rfl
@[simp] theorem later_tslots (s : State) (i : Instr) : (s.later i).tslots = s.tslots := rfl
@[simp] theorem later_queues (s : State) (i : Instr) : (s.later i).queues = s.queues := rfl
@[simp] theorem later_kernels (s : State) (i : Instr) : (s.later i).kernels = s.kernels := rfl
@[simp] theorem later_funcs (s : State) (i : Instr) : (s.later i).funcs = s.funcs := rfl
@[simp] theorem later_copies (s : State) (i : Instr) : (s.later i).copies = s.copies := rfl
@[simp] theorem later_walks (s : State) (i : Instr) : (s.later i).walks = s.walks := rfl
@[simp] theorem later_mem (s : State) (i : Instr) : (s.later i).mem = s.mem := rfl
@[simp] theorem later_poison (s : State) (i : Instr) : (s.later i).poison = s.poison := rfl
@[simp] theorem later_lineKey (s : State) (i : Instr) : (s.later i).lineKey = s.lineKey := rfl
@[simp] theorem later_dcache (s : State) (i : Instr) : (s.later i).dcache = s.dcache := rfl
@[simp] theorem later_vbuf (s : State) (i : Instr) : (s.later i).vbuf = s.vbuf := rfl
@[simp] theorem later_icache (s : State) (i : Instr) : (s.later i).icache = s.icache := rfl
@[simp] theorem later_fcache (s : State) (i : Instr) : (s.later i).fcache = s.fcache := rfl
@[simp] theorem later_hub (s : State) (i : Instr) : (s.later i).hub = s.hub := rfl
@[simp] theorem later_sent (s : State) (i : Instr) : (s.later i).sent = s.sent := rfl
@[simp] theorem later_staleXlat (s : State) (i : Instr) : (s.later i).staleXlat = s.staleXlat := rfl
@[simp] theorem later_hostStall (s : State) (i : Instr) : (s.later i).hostStall = s.hostStall := rfl
@[simp] theorem later_peerStall (s : State) (i : Instr) : (s.later i).peerStall = s.peerStall := rfl
@[simp] theorem later_outsideErr (s : State) (i : Instr) : (s.later i).outsideErr = s.outsideErr := rfl
@[simp] theorem later_storeNo (s : State) (i : Instr) : (s.later i).storeNo = s.storeNo := rfl
@[simp] theorem setPc_cur (s : State) (h : HartId) (pc : Word) : (s.setPc h pc).cur = s.cur := rfl
@[simp] theorem setPc_agenda (s : State) (h : HartId) (pc : Word) : (s.setPc h pc).agenda = s.agenda := rfl
@[simp] theorem setPc_now (s : State) (h : HartId) (pc : Word) : (s.setPc h pc).now = s.now := rfl
@[simp] theorem setPc_tiles (s : State) (h : HartId) (pc : Word) : (s.setPc h pc).tiles = s.tiles := rfl
@[simp] theorem setPc_engines (s : State) (h : HartId) (pc : Word) : (s.setPc h pc).engines = s.engines := rfl
@[simp] theorem setPc_tslots (s : State) (h : HartId) (pc : Word) : (s.setPc h pc).tslots = s.tslots := rfl
@[simp] theorem setPc_queues (s : State) (h : HartId) (pc : Word) : (s.setPc h pc).queues = s.queues := rfl
@[simp] theorem setPc_kernels (s : State) (h : HartId) (pc : Word) : (s.setPc h pc).kernels = s.kernels := rfl
@[simp] theorem setPc_funcs (s : State) (h : HartId) (pc : Word) : (s.setPc h pc).funcs = s.funcs := rfl
@[simp] theorem setPc_copies (s : State) (h : HartId) (pc : Word) : (s.setPc h pc).copies = s.copies := rfl
@[simp] theorem setPc_walks (s : State) (h : HartId) (pc : Word) : (s.setPc h pc).walks = s.walks := rfl
@[simp] theorem setPc_mem (s : State) (h : HartId) (pc : Word) : (s.setPc h pc).mem = s.mem := rfl
@[simp] theorem setPc_poison (s : State) (h : HartId) (pc : Word) : (s.setPc h pc).poison = s.poison := rfl
@[simp] theorem setPc_lineKey (s : State) (h : HartId) (pc : Word) : (s.setPc h pc).lineKey = s.lineKey := rfl
@[simp] theorem setPc_dcache (s : State) (h : HartId) (pc : Word) : (s.setPc h pc).dcache = s.dcache := rfl
@[simp] theorem setPc_vbuf (s : State) (h : HartId) (pc : Word) : (s.setPc h pc).vbuf = s.vbuf := rfl
@[simp] theorem setPc_icache (s : State) (h : HartId) (pc : Word) : (s.setPc h pc).icache = s.icache := rfl
@[simp] theorem setPc_fcache (s : State) (h : HartId) (pc : Word) : (s.setPc h pc).fcache = s.fcache := rfl
@[simp] theorem setPc_hub (s : State) (h : HartId) (pc : Word) : (s.setPc h pc).hub = s.hub := rfl
@[simp] theorem setPc_sent (s : State) (h : HartId) (pc : Word) : (s.setPc h pc).sent = s.sent := rfl
@[simp] theorem setPc_staleXlat (s : State) (h : HartId) (pc : Word) : (s.setPc h pc).staleXlat = s.staleXlat := rfl
@[simp] theorem setPc_hostStall (s : State) (h : HartId) (pc : Word) : (s.setPc h pc).hostStall = s.hostStall := rfl
@[simp] theorem setPc_peerStall (s : State) (h : HartId) (pc : Word) : (s.setPc h pc).peerStall = s.peerStall := rfl
@[simp] theorem setPc_outsideErr (s : State) (h : HartId) (pc : Word) : (s.setPc h pc).outsideErr = s.outsideErr := rfl
@[simp] theorem setPc_storeNo (s : State) (h : HartId) (pc : Word) : (s.setPc h pc).storeNo = s.storeNo := rfl
@[simp] theorem onCtx_cur (s : State) (h : HartId) (f : Ctx → Ctx) : (s.onCtx h f).cur = s.cur := rfl
@[simp] theorem onCtx_agenda (s : State) (h : HartId) (f : Ctx → Ctx) : (s.onCtx h f).agenda = s.agenda := rfl
@[simp] theorem onCtx_now (s : State) (h : HartId) (f : Ctx → Ctx) : (s.onCtx h f).now = s.now := rfl
@[simp] theorem onCtx_tiles (s : State) (h : HartId) (f : Ctx → Ctx) : (s.onCtx h f).tiles = s.tiles := rfl
@[simp] theorem onCtx_engines (s : State) (h : HartId) (f : Ctx → Ctx) : (s.onCtx h f).engines = s.engines := rfl
@[simp] theorem onCtx_tslots (s : State) (h : HartId) (f : Ctx → Ctx) : (s.onCtx h f).tslots = s.tslots := rfl
@[simp] theorem onCtx_queues (s : State) (h : HartId) (f : Ctx → Ctx) : (s.onCtx h f).queues = s.queues := rfl
@[simp] theorem onCtx_kernels (s : State) (h : HartId) (f : Ctx → Ctx) : (s.onCtx h f).kernels = s.kernels := rfl
@[simp] theorem onCtx_funcs (s : State) (h : HartId) (f : Ctx → Ctx) : (s.onCtx h f).funcs = s.funcs := rfl
@[simp] theorem onCtx_copies (s : State) (h : HartId) (f : Ctx → Ctx) : (s.onCtx h f).copies = s.copies := rfl
@[simp] theorem onCtx_walks (s : State) (h : HartId) (f : Ctx → Ctx) : (s.onCtx h f).walks = s.walks := rfl
@[simp] theorem onCtx_mem (s : State) (h : HartId) (f : Ctx → Ctx) : (s.onCtx h f).mem = s.mem := rfl
@[simp] theorem onCtx_poison (s : State) (h : HartId) (f : Ctx → Ctx) : (s.onCtx h f).poison = s.poison := rfl
@[simp] theorem onCtx_lineKey (s : State) (h : HartId) (f : Ctx → Ctx) : (s.onCtx h f).lineKey = s.lineKey := rfl
@[simp] theorem onCtx_dcache (s : State) (h : HartId) (f : Ctx → Ctx) : (s.onCtx h f).dcache = s.dcache := rfl
@[simp] theorem onCtx_vbuf (s : State) (h : HartId) (f : Ctx → Ctx) : (s.onCtx h f).vbuf = s.vbuf := rfl
@[simp] theorem onCtx_icache (s : State) (h : HartId) (f : Ctx → Ctx) : (s.onCtx h f).icache = s.icache := rfl
@[simp] theorem onCtx_fcache (s : State) (h : HartId) (f : Ctx → Ctx) : (s.onCtx h f).fcache = s.fcache := rfl
@[simp] theorem onCtx_hub (s : State) (h : HartId) (f : Ctx → Ctx) : (s.onCtx h f).hub = s.hub := rfl
@[simp] theorem onCtx_sent (s : State) (h : HartId) (f : Ctx → Ctx) : (s.onCtx h f).sent = s.sent := rfl
@[simp] theorem onCtx_staleXlat (s : State) (h : HartId) (f : Ctx → Ctx) : (s.onCtx h f).staleXlat = s.staleXlat := rfl
@[simp] theorem onCtx_hostStall (s : State) (h : HartId) (f : Ctx → Ctx) : (s.onCtx h f).hostStall = s.hostStall := rfl
@[simp] theorem onCtx_peerStall (s : State) (h : HartId) (f : Ctx → Ctx) : (s.onCtx h f).peerStall = s.peerStall := rfl
@[simp] theorem onCtx_outsideErr (s : State) (h : HartId) (f : Ctx → Ctx) : (s.onCtx h f).outsideErr = s.outsideErr := rfl
@[simp] theorem onCtx_storeNo (s : State) (h : HartId) (f : Ctx → Ctx) : (s.onCtx h f).storeNo = s.storeNo := rfl
@[simp] theorem onLive_cur (s : State) (h : HartId) (f : Live → Live) : (s.onLive h f).cur = s.cur := rfl
@[simp] theorem onLive_agenda (s : State) (h : HartId) (f : Live → Live) : (s.onLive h f).agenda = s.agenda := rfl
@[simp] theorem onLive_now (s : State) (h : HartId) (f : Live → Live) : (s.onLive h f).now = s.now := rfl
@[simp] theorem onLive_tiles (s : State) (h : HartId) (f : Live → Live) : (s.onLive h f).tiles = s.tiles := rfl
@[simp] theorem onLive_engines (s : State) (h : HartId) (f : Live → Live) : (s.onLive h f).engines = s.engines := rfl
@[simp] theorem onLive_tslots (s : State) (h : HartId) (f : Live → Live) : (s.onLive h f).tslots = s.tslots := rfl
@[simp] theorem onLive_queues (s : State) (h : HartId) (f : Live → Live) : (s.onLive h f).queues = s.queues := rfl
@[simp] theorem onLive_kernels (s : State) (h : HartId) (f : Live → Live) : (s.onLive h f).kernels = s.kernels := rfl
@[simp] theorem onLive_funcs (s : State) (h : HartId) (f : Live → Live) : (s.onLive h f).funcs = s.funcs := rfl
@[simp] theorem onLive_copies (s : State) (h : HartId) (f : Live → Live) : (s.onLive h f).copies = s.copies := rfl
@[simp] theorem onLive_walks (s : State) (h : HartId) (f : Live → Live) : (s.onLive h f).walks = s.walks := rfl
@[simp] theorem onLive_mem (s : State) (h : HartId) (f : Live → Live) : (s.onLive h f).mem = s.mem := rfl
@[simp] theorem onLive_poison (s : State) (h : HartId) (f : Live → Live) : (s.onLive h f).poison = s.poison := rfl
@[simp] theorem onLive_lineKey (s : State) (h : HartId) (f : Live → Live) : (s.onLive h f).lineKey = s.lineKey := rfl
@[simp] theorem onLive_dcache (s : State) (h : HartId) (f : Live → Live) : (s.onLive h f).dcache = s.dcache := rfl
@[simp] theorem onLive_vbuf (s : State) (h : HartId) (f : Live → Live) : (s.onLive h f).vbuf = s.vbuf := rfl
@[simp] theorem onLive_icache (s : State) (h : HartId) (f : Live → Live) : (s.onLive h f).icache = s.icache := rfl
@[simp] theorem onLive_fcache (s : State) (h : HartId) (f : Live → Live) : (s.onLive h f).fcache = s.fcache := rfl
@[simp] theorem onLive_hub (s : State) (h : HartId) (f : Live → Live) : (s.onLive h f).hub = s.hub := rfl
@[simp] theorem onLive_sent (s : State) (h : HartId) (f : Live → Live) : (s.onLive h f).sent = s.sent := rfl
@[simp] theorem onLive_staleXlat (s : State) (h : HartId) (f : Live → Live) : (s.onLive h f).staleXlat = s.staleXlat := rfl
@[simp] theorem onLive_hostStall (s : State) (h : HartId) (f : Live → Live) : (s.onLive h f).hostStall = s.hostStall := rfl
@[simp] theorem onLive_peerStall (s : State) (h : HartId) (f : Live → Live) : (s.onLive h f).peerStall = s.peerStall := rfl
@[simp] theorem onLive_outsideErr (s : State) (h : HartId) (f : Live → Live) : (s.onLive h f).outsideErr = s.outsideErr := rfl
@[simp] theorem onLive_storeNo (s : State) (h : HartId) (f : Live → Live) : (s.onLive h f).storeNo = s.storeNo := rfl
@[simp] theorem setSt_cur (s : State) (h : HartId) (i : Fin 18) (v : Word) : (s.setSt h i v).cur = s.cur := rfl
@[simp] theorem setSt_agenda (s : State) (h : HartId) (i : Fin 18) (v : Word) : (s.setSt h i v).agenda = s.agenda := rfl
@[simp] theorem setSt_now (s : State) (h : HartId) (i : Fin 18) (v : Word) : (s.setSt h i v).now = s.now := rfl
@[simp] theorem setSt_tiles (s : State) (h : HartId) (i : Fin 18) (v : Word) : (s.setSt h i v).tiles = s.tiles := rfl
@[simp] theorem setSt_engines (s : State) (h : HartId) (i : Fin 18) (v : Word) : (s.setSt h i v).engines = s.engines := rfl
@[simp] theorem setSt_tslots (s : State) (h : HartId) (i : Fin 18) (v : Word) : (s.setSt h i v).tslots = s.tslots := rfl
@[simp] theorem setSt_queues (s : State) (h : HartId) (i : Fin 18) (v : Word) : (s.setSt h i v).queues = s.queues := rfl
@[simp] theorem setSt_kernels (s : State) (h : HartId) (i : Fin 18) (v : Word) : (s.setSt h i v).kernels = s.kernels := rfl
@[simp] theorem setSt_funcs (s : State) (h : HartId) (i : Fin 18) (v : Word) : (s.setSt h i v).funcs = s.funcs := rfl
@[simp] theorem setSt_copies (s : State) (h : HartId) (i : Fin 18) (v : Word) : (s.setSt h i v).copies = s.copies := rfl
@[simp] theorem setSt_walks (s : State) (h : HartId) (i : Fin 18) (v : Word) : (s.setSt h i v).walks = s.walks := rfl
@[simp] theorem setSt_mem (s : State) (h : HartId) (i : Fin 18) (v : Word) : (s.setSt h i v).mem = s.mem := rfl
@[simp] theorem setSt_poison (s : State) (h : HartId) (i : Fin 18) (v : Word) : (s.setSt h i v).poison = s.poison := rfl
@[simp] theorem setSt_lineKey (s : State) (h : HartId) (i : Fin 18) (v : Word) : (s.setSt h i v).lineKey = s.lineKey := rfl
@[simp] theorem setSt_dcache (s : State) (h : HartId) (i : Fin 18) (v : Word) : (s.setSt h i v).dcache = s.dcache := rfl
@[simp] theorem setSt_vbuf (s : State) (h : HartId) (i : Fin 18) (v : Word) : (s.setSt h i v).vbuf = s.vbuf := rfl
@[simp] theorem setSt_icache (s : State) (h : HartId) (i : Fin 18) (v : Word) : (s.setSt h i v).icache = s.icache := rfl
@[simp] theorem setSt_fcache (s : State) (h : HartId) (i : Fin 18) (v : Word) : (s.setSt h i v).fcache = s.fcache := rfl
@[simp] theorem setSt_hub (s : State) (h : HartId) (i : Fin 18) (v : Word) : (s.setSt h i v).hub = s.hub := rfl
@[simp] theorem setSt_sent (s : State) (h : HartId) (i : Fin 18) (v : Word) : (s.setSt h i v).sent = s.sent := rfl
@[simp] theorem setSt_staleXlat (s : State) (h : HartId) (i : Fin 18) (v : Word) : (s.setSt h i v).staleXlat = s.staleXlat := rfl
@[simp] theorem setSt_hostStall (s : State) (h : HartId) (i : Fin 18) (v : Word) : (s.setSt h i v).hostStall = s.hostStall := rfl
@[simp] theorem setSt_peerStall (s : State) (h : HartId) (i : Fin 18) (v : Word) : (s.setSt h i v).peerStall = s.peerStall := rfl
@[simp] theorem setSt_outsideErr (s : State) (h : HartId) (i : Fin 18) (v : Word) : (s.setSt h i v).outsideErr = s.outsideErr := rfl
@[simp] theorem setSt_storeNo (s : State) (h : HartId) (i : Fin 18) (v : Word) : (s.setSt h i v).storeNo = s.storeNo := rfl
@[simp] theorem setWait_cur (s : State) (h : HartId) (w : Wait) : (s.setWait h w).cur = s.cur := rfl
@[simp] theorem setWait_agenda (s : State) (h : HartId) (w : Wait) : (s.setWait h w).agenda = s.agenda := rfl
@[simp] theorem setWait_now (s : State) (h : HartId) (w : Wait) : (s.setWait h w).now = s.now := rfl
@[simp] theorem setWait_tiles (s : State) (h : HartId) (w : Wait) : (s.setWait h w).tiles = s.tiles := rfl
@[simp] theorem setWait_engines (s : State) (h : HartId) (w : Wait) : (s.setWait h w).engines = s.engines := rfl
@[simp] theorem setWait_tslots (s : State) (h : HartId) (w : Wait) : (s.setWait h w).tslots = s.tslots := rfl
@[simp] theorem setWait_queues (s : State) (h : HartId) (w : Wait) : (s.setWait h w).queues = s.queues := rfl
@[simp] theorem setWait_kernels (s : State) (h : HartId) (w : Wait) : (s.setWait h w).kernels = s.kernels := rfl
@[simp] theorem setWait_funcs (s : State) (h : HartId) (w : Wait) : (s.setWait h w).funcs = s.funcs := rfl
@[simp] theorem setWait_copies (s : State) (h : HartId) (w : Wait) : (s.setWait h w).copies = s.copies := rfl
@[simp] theorem setWait_walks (s : State) (h : HartId) (w : Wait) : (s.setWait h w).walks = s.walks := rfl
@[simp] theorem setWait_mem (s : State) (h : HartId) (w : Wait) : (s.setWait h w).mem = s.mem := rfl
@[simp] theorem setWait_poison (s : State) (h : HartId) (w : Wait) : (s.setWait h w).poison = s.poison := rfl
@[simp] theorem setWait_lineKey (s : State) (h : HartId) (w : Wait) : (s.setWait h w).lineKey = s.lineKey := rfl
@[simp] theorem setWait_dcache (s : State) (h : HartId) (w : Wait) : (s.setWait h w).dcache = s.dcache := rfl
@[simp] theorem setWait_vbuf (s : State) (h : HartId) (w : Wait) : (s.setWait h w).vbuf = s.vbuf := rfl
@[simp] theorem setWait_icache (s : State) (h : HartId) (w : Wait) : (s.setWait h w).icache = s.icache := rfl
@[simp] theorem setWait_fcache (s : State) (h : HartId) (w : Wait) : (s.setWait h w).fcache = s.fcache := rfl
@[simp] theorem setWait_hub (s : State) (h : HartId) (w : Wait) : (s.setWait h w).hub = s.hub := rfl
@[simp] theorem setWait_sent (s : State) (h : HartId) (w : Wait) : (s.setWait h w).sent = s.sent := rfl
@[simp] theorem setWait_staleXlat (s : State) (h : HartId) (w : Wait) : (s.setWait h w).staleXlat = s.staleXlat := rfl
@[simp] theorem setWait_hostStall (s : State) (h : HartId) (w : Wait) : (s.setWait h w).hostStall = s.hostStall := rfl
@[simp] theorem setWait_peerStall (s : State) (h : HartId) (w : Wait) : (s.setWait h w).peerStall = s.peerStall := rfl
@[simp] theorem setWait_outsideErr (s : State) (h : HartId) (w : Wait) : (s.setWait h w).outsideErr = s.outsideErr := rfl
@[simp] theorem setWait_storeNo (s : State) (h : HartId) (w : Wait) : (s.setWait h w).storeNo = s.storeNo := rfl
@[simp] theorem setG_cur (s : State) (h : HartId) (r : Fin 32) (v : Word) : (s.setG h r v).cur = s.cur := by unfold State.setG; split <;> rfl
@[simp] theorem setG_agenda (s : State) (h : HartId) (r : Fin 32) (v : Word) : (s.setG h r v).agenda = s.agenda := by unfold State.setG; split <;> rfl
@[simp] theorem setG_now (s : State) (h : HartId) (r : Fin 32) (v : Word) : (s.setG h r v).now = s.now := by unfold State.setG; split <;> rfl
@[simp] theorem setG_tiles (s : State) (h : HartId) (r : Fin 32) (v : Word) : (s.setG h r v).tiles = s.tiles := by unfold State.setG; split <;> rfl
@[simp] theorem setG_engines (s : State) (h : HartId) (r : Fin 32) (v : Word) : (s.setG h r v).engines = s.engines := by unfold State.setG; split <;> rfl
@[simp] theorem setG_tslots (s : State) (h : HartId) (r : Fin 32) (v : Word) : (s.setG h r v).tslots = s.tslots := by unfold State.setG; split <;> rfl
@[simp] theorem setG_queues (s : State) (h : HartId) (r : Fin 32) (v : Word) : (s.setG h r v).queues = s.queues := by unfold State.setG; split <;> rfl
@[simp] theorem setG_kernels (s : State) (h : HartId) (r : Fin 32) (v : Word) : (s.setG h r v).kernels = s.kernels := by unfold State.setG; split <;> rfl
@[simp] theorem setG_funcs (s : State) (h : HartId) (r : Fin 32) (v : Word) : (s.setG h r v).funcs = s.funcs := by unfold State.setG; split <;> rfl
@[simp] theorem setG_copies (s : State) (h : HartId) (r : Fin 32) (v : Word) : (s.setG h r v).copies = s.copies := by unfold State.setG; split <;> rfl
@[simp] theorem setG_walks (s : State) (h : HartId) (r : Fin 32) (v : Word) : (s.setG h r v).walks = s.walks := by unfold State.setG; split <;> rfl
@[simp] theorem setG_mem (s : State) (h : HartId) (r : Fin 32) (v : Word) : (s.setG h r v).mem = s.mem := by unfold State.setG; split <;> rfl
@[simp] theorem setG_poison (s : State) (h : HartId) (r : Fin 32) (v : Word) : (s.setG h r v).poison = s.poison := by unfold State.setG; split <;> rfl
@[simp] theorem setG_lineKey (s : State) (h : HartId) (r : Fin 32) (v : Word) : (s.setG h r v).lineKey = s.lineKey := by unfold State.setG; split <;> rfl
@[simp] theorem setG_dcache (s : State) (h : HartId) (r : Fin 32) (v : Word) : (s.setG h r v).dcache = s.dcache := by unfold State.setG; split <;> rfl
@[simp] theorem setG_vbuf (s : State) (h : HartId) (r : Fin 32) (v : Word) : (s.setG h r v).vbuf = s.vbuf := by unfold State.setG; split <;> rfl
@[simp] theorem setG_icache (s : State) (h : HartId) (r : Fin 32) (v : Word) : (s.setG h r v).icache = s.icache := by unfold State.setG; split <;> rfl
@[simp] theorem setG_fcache (s : State) (h : HartId) (r : Fin 32) (v : Word) : (s.setG h r v).fcache = s.fcache := by unfold State.setG; split <;> rfl
@[simp] theorem setG_hub (s : State) (h : HartId) (r : Fin 32) (v : Word) : (s.setG h r v).hub = s.hub := by unfold State.setG; split <;> rfl
@[simp] theorem setG_sent (s : State) (h : HartId) (r : Fin 32) (v : Word) : (s.setG h r v).sent = s.sent := by unfold State.setG; split <;> rfl
@[simp] theorem setG_staleXlat (s : State) (h : HartId) (r : Fin 32) (v : Word) : (s.setG h r v).staleXlat = s.staleXlat := by unfold State.setG; split <;> rfl
@[simp] theorem setG_hostStall (s : State) (h : HartId) (r : Fin 32) (v : Word) : (s.setG h r v).hostStall = s.hostStall := by unfold State.setG; split <;> rfl
@[simp] theorem setG_peerStall (s : State) (h : HartId) (r : Fin 32) (v : Word) : (s.setG h r v).peerStall = s.peerStall := by unfold State.setG; split <;> rfl
@[simp] theorem setG_outsideErr (s : State) (h : HartId) (r : Fin 32) (v : Word) : (s.setG h r v).outsideErr = s.outsideErr := by unfold State.setG; split <;> rfl
@[simp] theorem setG_storeNo (s : State) (h : HartId) (r : Fin 32) (v : Word) : (s.setG h r v).storeNo = s.storeNo := by unfold State.setG; split <;> rfl
@[simp] theorem orFlags_cur (s : State) (h : HartId) (f : Nat) : (s.orFlags h f).cur = s.cur := by unfold State.orFlags; split <;> rfl
@[simp] theorem orFlags_agenda (s : State) (h : HartId) (f : Nat) : (s.orFlags h f).agenda = s.agenda := by unfold State.orFlags; split <;> rfl
@[simp] theorem orFlags_now (s : State) (h : HartId) (f : Nat) : (s.orFlags h f).now = s.now := by unfold State.orFlags; split <;> rfl
@[simp] theorem orFlags_tiles (s : State) (h : HartId) (f : Nat) : (s.orFlags h f).tiles = s.tiles := by unfold State.orFlags; split <;> rfl
@[simp] theorem orFlags_engines (s : State) (h : HartId) (f : Nat) : (s.orFlags h f).engines = s.engines := by unfold State.orFlags; split <;> rfl
@[simp] theorem orFlags_tslots (s : State) (h : HartId) (f : Nat) : (s.orFlags h f).tslots = s.tslots := by unfold State.orFlags; split <;> rfl
@[simp] theorem orFlags_queues (s : State) (h : HartId) (f : Nat) : (s.orFlags h f).queues = s.queues := by unfold State.orFlags; split <;> rfl
@[simp] theorem orFlags_kernels (s : State) (h : HartId) (f : Nat) : (s.orFlags h f).kernels = s.kernels := by unfold State.orFlags; split <;> rfl
@[simp] theorem orFlags_funcs (s : State) (h : HartId) (f : Nat) : (s.orFlags h f).funcs = s.funcs := by unfold State.orFlags; split <;> rfl
@[simp] theorem orFlags_copies (s : State) (h : HartId) (f : Nat) : (s.orFlags h f).copies = s.copies := by unfold State.orFlags; split <;> rfl
@[simp] theorem orFlags_walks (s : State) (h : HartId) (f : Nat) : (s.orFlags h f).walks = s.walks := by unfold State.orFlags; split <;> rfl
@[simp] theorem orFlags_mem (s : State) (h : HartId) (f : Nat) : (s.orFlags h f).mem = s.mem := by unfold State.orFlags; split <;> rfl
@[simp] theorem orFlags_poison (s : State) (h : HartId) (f : Nat) : (s.orFlags h f).poison = s.poison := by unfold State.orFlags; split <;> rfl
@[simp] theorem orFlags_lineKey (s : State) (h : HartId) (f : Nat) : (s.orFlags h f).lineKey = s.lineKey := by unfold State.orFlags; split <;> rfl
@[simp] theorem orFlags_dcache (s : State) (h : HartId) (f : Nat) : (s.orFlags h f).dcache = s.dcache := by unfold State.orFlags; split <;> rfl
@[simp] theorem orFlags_vbuf (s : State) (h : HartId) (f : Nat) : (s.orFlags h f).vbuf = s.vbuf := by unfold State.orFlags; split <;> rfl
@[simp] theorem orFlags_icache (s : State) (h : HartId) (f : Nat) : (s.orFlags h f).icache = s.icache := by unfold State.orFlags; split <;> rfl
@[simp] theorem orFlags_fcache (s : State) (h : HartId) (f : Nat) : (s.orFlags h f).fcache = s.fcache := by unfold State.orFlags; split <;> rfl
@[simp] theorem orFlags_hub (s : State) (h : HartId) (f : Nat) : (s.orFlags h f).hub = s.hub := by unfold State.orFlags; split <;> rfl
@[simp] theorem orFlags_sent (s : State) (h : HartId) (f : Nat) : (s.orFlags h f).sent = s.sent := by unfold State.orFlags; split <;> rfl
@[simp] theorem orFlags_staleXlat (s : State) (h : HartId) (f : Nat) : (s.orFlags h f).staleXlat = s.staleXlat := by unfold State.orFlags; split <;> rfl
@[simp] theorem orFlags_hostStall (s : State) (h : HartId) (f : Nat) : (s.orFlags h f).hostStall = s.hostStall := by unfold State.orFlags; split <;> rfl
@[simp] theorem orFlags_peerStall (s : State) (h : HartId) (f : Nat) : (s.orFlags h f).peerStall = s.peerStall := by unfold State.orFlags; split <;> rfl
@[simp] theorem orFlags_outsideErr (s : State) (h : HartId) (f : Nat) : (s.orFlags h f).outsideErr = s.outsideErr := by unfold State.orFlags; split <;> rfl
@[simp] theorem orFlags_storeNo (s : State) (h : HartId) (f : Nat) : (s.orFlags h f).storeNo = s.storeNo := by unfold State.orFlags; split <;> rfl

/-! Registers (R90). -/

@[simp] theorem setG_zero (s : State) (h : HartId) (v : Word) : s.setG h 0 v = s := if_pos rfl
@[simp] theorem g_zero (s : State) (h : HartId) : s.g h 0 = 0 := if_pos rfl
theorem g_setG_same (s : State) (h : HartId) {r : Fin 32} (v : Word) (n : r ≠ 0) : (s.setG h r v).g h r = v := by
  simp [State.g, State.setG, n]
theorem g_setG_ne (s : State) (h : HartId) {r q : Fin 32} (v : Word) (n : r ≠ q) : (s.setG h r v).g h q = s.g h q := by
  unfold State.setG
  split
  · rfl
  · have : r.val ≠ q.val := fun e => n (Fin.ext e)
    simp [State.g, this]

end Sys2Proof.Machine
end

