-- ==== Sys2Proof/Laws/Access.lean ====
section
/-! SUPPORT. What a scalar access does that meets nothing in its way (R98 to R103, R77): one lemma for a load, a store, an
atomic and a fetch. -/
namespace Sys2Proof.Machine
set_option Elab.async false

/-- A translation names a place of the physical map. -/
theorem xlate_region {s : State} {w : Who} {acc : Acc} {va : Nat} {x : Xl} (h : xlate s w acc va = .ok x) : regionOf x.pa = some x.region := by
  unfold xlate at h
  dsimp only at h
  split at h
  · cases h
  · split at h
    · cases h
    · rename_i hr
      split at h
      · cases h
      · split at h
        · cases h
        · split at h
          · cases h
          · cases h; exact hr

/-- Translation keeps the low three bits of an address. -/
theorem xlate_low {s : State} {w : Who} {acc : Acc} {va : Nat} {x : Xl} (h : xlate s w acc va = .ok x) : x.pa % 8 = va % 8 := by
  unfold xlate at h
  dsimp only at h
  split at h
  · cases h
  · split at h
    · cases h
    · split at h
      · cases h
      · split at h
        · cases h
        · split at h
          · cases h
          · cases h
            simp only [eFrame, leafSize]
            split
            · omega
            · split <;> omega

/-- A leaf that translates to memory has a KIND that memory has (R44, R302). -/
theorem xlate_kind {s : State} {w : Who} {acc : Acc} {va : Nat} {x : Xl} (h : xlate s w acc va = .ok x) (m : x.region = .hbm ∨ x.region = .store) :
    eKind x.leaf = 0 ∨ eKind x.leaf = 4 := by
  unfold xlate at h
  dsimp only at h
  split at h
  · cases h
  · split at h
    · cases h
    · split at h
      · cases h
      · split at h
        · cases h
        · rename_i hp
          split at h
          · cases h
          · cases h
            dsimp only at m ⊢
            simp only [Bool.not_eq_true', Bool.not_eq_false, permits, Bool.and_eq_true] at hp
            have := hp.1.1.1.2
            rcases m with e | e <;> simpa [e, Region.kinds] using this

theorem region_arena {s : State} {pa : Nat} {r : Region} (h : regionOf pa = some r) (m : r = .hbm ∨ r = .store) : inArena s pa = false := by
  unfold regionOf at h
  by_contra hc
  simp only [inArena, arenaBase, Bool.and_eq_true, Bool.not_eq_false] at hc
  have h1 := of_decide_eq_true hc.1
  split at h
  · omega
  · split at h
    · omega
    · repeat' (split at h; · cases h; simp at m)
      cases h

/-! With no dirty byte in any data cache, nothing is written back. -/

theorem writeBack_nil (s : State) (p : Nat → Dirty → Bool) (h : s.dcache = []) : writeBack s p = s := by cases s; cases h; rfl
theorem sendHome_nil (s : State) (t : TileId) (h : s.dcache = []) : sendHome s t = s := writeBack_nil s _ h
theorem recall_nil (s : State) (pa n : Nat) (k : Option TileId) (h : s.dcache = []) : recallLines s pa n k = s := writeBack_nil s _ h

/-! Where no V agent holds a store back, none is in the way (log 70). -/

/-- Nothing that a V agent has stored waits; and where w is a hart's V agent, its stores are performed at once. -/
def Who.plain (w : Who) (s : State) : Prop :=
  s.vbuf = [] ∧ ∀ h, w.iss.hart = some h → w.port = .v → (s.hart h).live.vfence = false ∧ (s.hart h).lazyV = false
theorem Who.plain_of {w : Who} {s t : State} (h : w.plain s) (e : t.vbuf = s.vbuf) (g : ∀ h, t.hart h = s.hart h) : w.plain t :=
  ⟨e.trans h.1, fun k a b => by rw [g]; exact h.2 k a b⟩
/-- For an S agent or an engine it is enough that nothing waits. -/
theorem Who.plain_other {w : Who} {s : State} (h : s.vbuf = []) (p : w.port ≠ .v) : w.plain s := ⟨h, fun _ _ q => absurd q p⟩

theorem performV_nil (s : State) (p : Nat → Unperformed → Bool) (h : s.vbuf = []) : performV s p = s := by cases s; cases h; rfl
theorem performHart_nil (s : State) (h : HartId) (hv : s.vbuf = []) (hf : (s.hart h).live.vfence = false) : performHart s h = s := by
  simp [performHart, performV_nil s _ hv, hf]
theorem vOrder_plain {s : State} {w : Who} (hv : w.plain s) (past : Bool) (pa n : Nat) : vOrder s w past pa n = s := by
  unfold vOrder
  split
  · next h hh =>
    cases hp : w.port
    · simp
    · simp [(hv.2 h hh hp).1, performV_nil s _ hv.1]
    · simp
  · rfl
theorem laterV_plain {s : State} {w : Who} (hv : w.plain s) (cached : Bool) (pa n : Nat) : laterV s w cached pa n = none := by
  unfold laterV
  split
  · next h hh =>
    cases hp : w.port
    · simp
    · simp [(hv.2 h hh hp).2]
    · simp
  · rfl
theorem release_nil {w : Who} {s : State} (h : s.dcache = []) (hv : w.plain s) : (release w).run.run s = (.ok (), s) := by
  unfold release
  rw [go_modify]
  split
  · rw [sendHome_nil s _ h]
  · next k a b => rw [performHart_nil s _ hv.1 (hv.2 _ b a).1]
  · rfl
theorem outRequest_memory {s : State} {w : Who} {pa n : Nat} {d : Option Nat} {a : Bool} {r : Region} (h : regionOf pa = some r)
    (m : r = .hbm ∨ r = .store) : outRequest s w pa n d a = s := by
  unfold outRequest
  rw [h]
  rcases m with rfl | rfl <;> rfl

/-! Setting A and D of a leaf changes memory and nothing else (R303). -/

theorem touch_is (s : State) (x : Xl) (b : Bool) : ∃ m, touch s x b = { s with mem := m } := by
  unfold touch
  generalize memRead s.mem (backing s x.entry) 8 = e
  split
  · exact ⟨s.mem, rfl⟩
  · exact ⟨_, rfl⟩
@[simp] theorem touch_dcache (s : State) (x : Xl) (b : Bool) : (touch s x b).dcache = s.dcache := by obtain ⟨m, e⟩ := touch_is s x b; rw [e]
@[simp] theorem touch_icache (s : State) (x : Xl) (b : Bool) : (touch s x b).icache = s.icache := by obtain ⟨m, e⟩ := touch_is s x b; rw [e]
@[simp] theorem touch_fcache (s : State) (x : Xl) (b : Bool) : (touch s x b).fcache = s.fcache := by obtain ⟨m, e⟩ := touch_is s x b; rw [e]
@[simp] theorem touch_vbuf (s : State) (x : Xl) (b : Bool) : (touch s x b).vbuf = s.vbuf := by obtain ⟨m, e⟩ := touch_is s x b; rw [e]
@[simp] theorem touch_cur (s : State) (x : Xl) (b : Bool) : (touch s x b).cur = s.cur := by obtain ⟨m, e⟩ := touch_is s x b; rw [e]
@[simp] theorem touch_lineKey (s : State) (x : Xl) (b : Bool) : (touch s x b).lineKey = s.lineKey := by obtain ⟨m, e⟩ := touch_is s x b; rw [e]
@[simp] theorem touch_hub (s : State) (x : Xl) (b : Bool) : (touch s x b).hub = s.hub := by obtain ⟨m, e⟩ := touch_is s x b; rw [e]
@[simp] theorem touch_keyAt (s : State) (x : Xl) (b : Bool) (k : Nat) : keyAt (touch s x b) k = keyAt s k := by unfold keyAt; rw [touch_hub]
@[simp] theorem touch_lineKeyAt (s : State) (x : Xl) (b : Bool) (a : Nat) : lineKeyAt (touch s x b) a = lineKeyAt s a := by
  unfold lineKeyAt; rw [touch_lineKey]
@[simp] theorem touch_poison (s : State) (x : Xl) (b : Bool) : (touch s x b).poison = s.poison := by obtain ⟨m, e⟩ := touch_is s x b; rw [e]
@[simp] theorem touch_tile (s : State) (x : Xl) (b : Bool) (t : TileId) : (touch s x b).tile t = s.tile t := by
  obtain ⟨m, e⟩ := touch_is s x b; rw [e]; rfl
@[simp] theorem touch_hart (s : State) (x : Xl) (b : Bool) (h : HartId) : (touch s x b).hart h = s.hart h := by
  obtain ⟨m, e⟩ := touch_is s x b; rw [e]; rfl

theorem touch_plain {s : State} {w : Who} (h : w.plain s) (x : Xl) (b : Bool) : w.plain (touch s x b) := Who.plain_of h (touch_vbuf s x b) (touch_hart s x b)

/-! Reading bytes at their home. -/

theorem seenRead_clean (s : State) (w : Who) (pa k n : Nat) (hd : s.dcache = []) (hv : s.vbuf = []) (hr : ∀ a, pa ≤ a → a < pa + n → homeByte s a k = memGet s.mem a) :
    seenRead s w pa k n = memRead s.mem pa n := by
  induction n generalizing pa with
  | zero => rfl
  | succ n ih =>
    unfold seenRead memRead
    rw [ih (pa + 1) fun a h1 h2 => hr a (by omega) (by omega)]
    have e : seenByte s w pa k = memGet s.mem pa := by
      unfold seenByte
      split
      · simpa [hd, mhas] using hr pa (by omega) (by omega)
      · have e : (w.iss.hart.bind fun h => unperformedAt s h w.vp pa) = none := by
          cases w.iss.hart <;> simp [unperformedAt, hv, mhas]
        rw [e]
        exact hr pa (by omega) (by omega)
      · exact hr pa (by omega) (by omega)
    rw [e]

/-- The regions of memory are unions of lines. -/
theorem region_line {a b : Nat} {r : Region} (h : regionOf a = some r) (m : r = .hbm ∨ r = .store) (e : b / 64 = a / 64) : regionOf b = some r := by
  have hb : b < 0xD800000000 ∨ (0x100000000000 ≤ b ∧ b < 0x100040000000 ∧ ¬ b < 0xD800000000) := by
    unfold regionOf at h
    split at h
    · left; omega
    · split at h
      · right; omega
      · repeat' (split at h; · cases h; simp at m)
        cases h
  unfold regionOf at h ⊢
  rcases hb with hb | hb
  · rw [if_pos hb]; rw [if_pos (by omega)] at h; exact h
  · rw [if_neg hb.2.2, if_pos ⟨hb.1, hb.2.1⟩]; rw [if_neg (by omega), if_pos (by omega)] at h; exact h

theorem homeByte_clean (s : State) {pa k a : Nat} {r : Region} (hr : regionOf pa = some r) (m : r = .hbm ∨ r = .store)
    (hk : r = .hbm → lineKeyAt s pa = keyAt s k) (e : a / 64 = pa / 64) : homeByte s a k = memGet s.mem a := by
  unfold homeByte
  rw [region_line hr m e]
  rcases m with rfl | rfl
  · have : lineKeyAt s a = keyAt s k := by rw [← hk rfl]; unfold lineKeyAt; rw [e]
    simp [this, underKey]
  · rfl

theorem physRead_clean (s : State) (w : Who) {pa k n : Nat} {r : Region} (hr : regionOf pa = some r) (m : r = .hbm ∨ r = .store)
    (hk : r = .hbm → lineKeyAt s pa = keyAt s k) (hd : s.dcache = []) (hv : w.plain s) (hn : n ∈ [1, 2, 4, 8]) (ha : pa % n = 0) :
    (physRead w pa n k).run.run s = (.ok (memRead s.mem pa n), s) := by
  unfold physRead
  rw [go_modify_bind, vOrder_plain hv, go_modify_bind, outRequest_memory hr m, recall_nil s _ _ _ hd, go_get_bind, seenRead_clean s w pa k n hd hv.1]
  · rfl
  · intro a h1 h2
    exact homeByte_clean s hr m hk (by fin_cases hn <;> omega)

/-- A store of n bytes performed at its home, with no dirty byte about: watches, the bytes, poison, waits. -/
theorem storeHome_clean (s : State) {pa k n v : Nat} {r : Region} (hr : regionOf pa = some r) (m : r = .hbm ∨ r = .store)
    (hk : r = .hbm → lineKeyAt s pa = keyAt s k) (hd : s.dcache = []) :
    storeHome s pa n v k = wakeWaits (unpoison { watchStore s pa n none with mem := memWrite s.mem pa n v } pa n) pa n := by
  have hd' : (watchStore s pa n none).dcache = [] := hd
  unfold storeHome
  rw [recall_nil _ _ _ _ hd']
  congr 2
  unfold homeWrite
  rcases m with rfl | rfl
  · have hh : hbm pa = true := by
      unfold regionOf at hr
      split at hr
      · simpa [hbm]
      · repeat' (split at hr; · cases hr)
        cases hr
    have hx : rekey (watchStore s pa n none) (pa / 64) (keyAt (watchStore s pa n none) k) = watchStore s pa n none := by
      unfold rekey
      rw [if_pos]
      have e : keyAt (watchStore s pa n none) k = keyAt s k := rfl
      rw [e, ← hk rfl]
      unfold lineKeyAt
      rw [Nat.mul_div_cancel_left _ (by decide : 0 < 64)]
      rfl
    simp only [hh, if_true, hx]
    rfl
  · have hh : hbm pa = false := by
      unfold regionOf at hr
      split at hr
      · cases hr
      · rename_i e; simp only [hbm, decide_eq_false_iff_not]; exact e
    simp only [hh, Bool.false_eq_true, if_false]
    rfl

/-- A store of n bytes at an address of memory is performed. -/
theorem physWrite_clean (s : State) (w : Who) (cached : Bool) {pa k n v : Nat} {r : Region} (hr : regionOf pa = some r) (m : r = .hbm ∨ r = .store)
    (hk : r = .hbm → lineKeyAt s pa = keyAt s k) (hd : s.dcache = []) (hv : w.plain s) (hl : (cached && w.port == .s && (s.tile w.tile).lazyWb) = false) :
    (physWrite w cached pa n v k).run.run s =
      (.ok (), wakeWaits (unpoison { watchStore s pa n none with mem := memWrite s.mem pa n v } pa n) pa n) := by
  unfold physWrite
  rw [go_get_bind]
  simp only [hl, Bool.false_eq_true, if_false]
  rw [go_modify_bind, vOrder_plain hv, go_get_bind, laterV_plain hv]
  simp only
  rw [go_modify, outRequest_memory hr m, storeHome_clean s hr m hk hd]

/-! Requests to the outside are not made for memory of the module. -/

theorem outside_memory (x : Xl) (va : Nat) (s : State) (h : x.region = .hbm ∨ x.region = .store) : (outside x va).run.run s = (.ok true, s) := by
  unfold outside
  rcases h with h | h <;> simp only [h, go_get_bind] <;> rfl
theorem request_memory (w : Who) (x : Xl) (va : Nat) (s : State) (h : x.region = .hbm ∨ x.region = .store) :
    (request w x va).run.run s = (.ok (), s) := by
  unfold request
  rw [go_bind_ok (outside_memory x va s h)]
  rfl

/-- A load of n bytes: their value, with A of the leaf set. -/
theorem loadV_clean {s : State} {w : Who} {va n : Nat} {x : Xl} (ha : va % n = 0) (hx : xlate s w .load va = .ok x)
    (hm : x.region = .hbm ∨ x.region = .store) (hk : eKind x.leaf = 0 ∨ eKind x.leaf = 4) (hp : poisoned s x.pa n = false)
    (hl : x.region = .hbm → lineKeyAt s x.pa = keyAt s (eKey x.leaf)) (hd : s.dcache = []) (hv : w.plain s) (hn : n ∈ [1, 2, 4, 8]) :
    (loadV w va n).run.run s = (.ok (memRead (touch s x false).mem x.pa n), touch s x false) := by
  have hr := xlate_region hx
  have h2 : ¬ (eKind x.leaf == 2) = true := by rcases hk with e | e <;> rw [e] <;> decide
  have hA : ¬ inArena s x.pa = true := by rw [region_arena hr hm]; decide
  have h3 : ¬ (eKind x.leaf == 2 && decide (n ≠ 8)) = true := by rw [Bool.eq_false_iff.mpr h2]; simp
  have h4 : ¬ (eKind x.leaf != 2 && poisoned s (if inArena s x.pa = true then backing s x.pa else x.pa) n) = true := by
    rw [if_neg hA, hp]; simp
  have hl' : x.region = .hbm → lineKeyAt (touch s x false) x.pa = keyAt (touch s x false) (eKey x.leaf) := by rw [touch_keyAt, touch_lineKeyAt]; exact hl
  have hd' := (touch_dcache s x false).trans hd
  unfold loadV
  rw [ha, if_neg (by decide)]
  beta_reduce
  rw [go_get_bind, hx]
  dsimp only
  rw [go_modify_bind, if_neg h3, if_neg h4, go_bind_ok (request_memory w x va _ hm), if_neg hA, if_neg h2]
  have hv' : (w.thru x.leaf).plain (touch s x false) := by
    have h := touch_plain hv x false
    unfold Who.thru
    split
    · exact h
    · refine ⟨h.1, fun k a b => ?_⟩
      dsimp only at b
      split at b
      · cases b
      · exact h.2 k a b
  generalize touch s x false = t at hl' hd' hv' ⊢
  exact physRead_clean t _ hr hm hl' hd' hv' hn (by have := xlate_low hx; fin_cases hn <;> omega)

/-- A store of the low n bytes of v, where the tile does not hold them back in its data cache. -/
theorem storeV_clean {s : State} {w : Who} {va n v : Nat} {x : Xl} (ha : va % n = 0) (hx : xlate s w .store va = .ok x)
    (hm : x.region = .hbm ∨ x.region = .store) (hk : eKind x.leaf = 0 ∨ eKind x.leaf = 4) (hp : poisoned s x.pa n = false)
    (hl : x.region = .hbm → lineKeyAt s x.pa = keyAt s (eKey x.leaf)) (hd : s.dcache = []) (hv : w.plain s)
    (hz : (eKind x.leaf == 0 && w.port == .s && (s.tile w.tile).lazyWb) = false) :
    let t := touch s x true
    (storeV w va n v).run.run s =
      (.ok (), wakeWaits (unpoison { watchStore t x.pa n none with mem := memWrite t.mem x.pa n (v % 256 ^ n) } x.pa n) x.pa n) := by
  have h2 : ¬ (eKind x.leaf == 2) = true := by rcases hk with e | e <;> rw [e] <;> decide
  have h3 : ¬ (eKind x.leaf == 3) = true := by rcases hk with e | e <;> rw [e] <;> decide
  have h4 : ¬ (decide (n < 8) && poisoned s x.pa n) = true := by rw [hp]; simp
  have hl' : x.region = .hbm → lineKeyAt (touch s x true) x.pa = keyAt (touch s x true) (eKey x.leaf) := by rw [touch_keyAt, touch_lineKeyAt]; exact hl
  have hd' := (touch_dcache s x true).trans hd
  have hz' : (eKind x.leaf == 0 && w.port == .s && ((touch s x true).tile w.tile).lazyWb) = false := by rw [touch_tile]; exact hz
  dsimp only
  unfold storeV
  rw [ha, if_neg (by decide)]
  beta_reduce
  rw [go_get_bind, hx]
  dsimp only
  rw [if_neg h3, if_neg h2, go_set_bind, if_neg h4]
  have hv' := touch_plain hv x true
  generalize touch s x true = t at hl' hd' hz' hv' ⊢
  exact physWrite_clean t w _ (xlate_region hx) hm hl' hd' hv' hz'

/-- An atomic: the old value; the new one, where f gives one, is written at the home. -/
theorem atomicV_clean {s : State} {w : Who} {va n : Nat} {host : Bool} {f : Nat → Option Nat} {rel : Bool} {x : Xl} (ha : va % n = 0)
    (hx : xlate s w .atomic va = .ok x) (hm : x.region = .hbm ∨ x.region = .store) (hp : poisoned s x.pa n = false)
    (hl : x.region = .hbm → lineKeyAt s x.pa = keyAt s (eKey x.leaf)) (hd : s.dcache = []) (hv : w.plain s) (hn : n ∈ [1, 2, 4, 8]) :
    let t := touch s x true
    (atomicV w va n host f rel).run.run s = (.ok (memRead t.mem x.pa n), match f (memRead t.mem x.pa n) with
      | some v => wakeWaits (unpoison { watchStore t x.pa n none with mem := memWrite t.mem x.pa n (v % 256 ^ n) } x.pa n) x.pa n
      | none => t) := by
  have c1 : (x.region == .control || x.region == .device) = false := by rcases hm with e | e <;> rw [e] <;> rfl
  have c2 : (x.region == .host && !host) = false := by rcases hm with e | e <;> rw [e] <;> rfl
  have hl' : x.region = .hbm → lineKeyAt (touch s x true) x.pa = keyAt (touch s x true) (eKey x.leaf) := by rw [touch_keyAt, touch_lineKeyAt]; exact hl
  have hd' := (touch_dcache s x true).trans hd
  unfold atomicV
  have c3 : ¬ eKind x.leaf = 3 := by rcases xlate_kind hx hm with e | e <;> rw [e] <;> decide
  simp only [ha, ne_eq, not_true_eq_false, if_false, go_get_bind, hx, c1, c2, c3, hp, Bool.false_eq_true]
  rw [go_modify_bind, go_bind_ok (request_memory w x va _ hm)]
  have hv' := touch_plain hv x true
  generalize touch s x true = t at hl' hd' hv' ⊢
  have h8 : x.pa % n = 0 := by have := xlate_low hx; fin_cases hn <;> omega
  have hr := xlate_region hx
  have rd : seenRead t { w with port := .eng } x.pa (eKey x.leaf) n = memRead t.mem x.pa n :=
    seenRead_clean t _ _ _ _ hd' hv'.1 fun a _ _ => homeByte_clean t hr hm hl' (by fin_cases hn <;> omega)
  cases rel
  all_goals simp only [Bool.false_eq_true, if_false, if_true]
  case' true => rw [go_bind_ok (release_nil hd' hv')]
  all_goals
    rw [go_modify_bind, vOrder_plain hv', go_modify_bind, outRequest_memory hr hm, recall_nil _ _ _ _ hd', go_get_bind, rd]
    cases f (memRead t.mem x.pa n) with
    | none => rfl
    | some v =>
      dsimp only
      rw [go_modify_bind, storeHome_clean t hr hm hl' hd']
      rfl

/-! Fetching changes nothing where A is set, no byte is dirty and no fetched byte is kept. -/

/-- The byte at va can be fetched from memory, and A of its leaf is set. -/
structure Fetchable (s : State) (w : Who) (va : Nat) (x : Xl) : Prop where
  mapped : xlate s w .fetch va = .ok x
  memory : x.region = .hbm ∨ x.region = .store
  key : x.region = .hbm → lineKeyAt s x.pa = keyAt s (eKey x.leaf)
  marked : touch s x false = s

theorem fetchByte_clean {s : State} {w : Who} {facet : Bool} {va : Nat} {x : Xl} (h : Fetchable s w va x) (hd : s.dcache = []) (hv : s.vbuf = []) (hi : s.icache = [])
    (hf : s.fcache = []) (ht : (s.tile w.tile).icFill = false) :
    (fetchByte w facet va).run.run s = (.ok (memGet s.mem x.pa).toNat, s) := by
  have m1 : memRead s.mem x.pa 1 = (memGet s.mem x.pa).toNat := by simp [memRead]
  have p := physRead_clean s { w with port := .v, iss := { w.iss with hart := none } } (xlate_region h.mapped) h.memory h.key hd ⟨hv, fun _ e => by cases e⟩ (by decide : 1 ∈ [1, 2, 4, 8]) (Nat.mod_one _)
  have c (k : Nat) : ¬ mhas (if facet = true then s.fcache else s.icache) k = true := by rw [hi, hf, ite_self]; simp [mhas]
  unfold fetchByte
  rw [go_get_bind, h.mapped]
  dsimp only
  have c' (k : Nat) : ¬ (eKind x.leaf == 0 && mhas (if facet = true then s.fcache else s.icache) k) = true := by simp [c k]
  rw [go_set_bind, h.marked, if_neg (c' _)]
  rw [go_bind_ok p, go_modify_bind, ht, m1]
  rfl

/-- Some bytes, and the same state. -/
theorem fetchBytes_clean {s : State} {w : Who} {facet : Bool} (hd : s.dcache = []) (hv : s.vbuf = []) (hi : s.icache = []) (hf : s.fcache = [])
    (ht : (s.tile w.tile).icFill = false) (n va : Nat) (h : ∀ i, i < n → ∃ x, Fetchable s w ((va + i) % 2 ^ 64) x) :
    ∃ b, (fetchBytes w facet va n).run.run s = (.ok b, s) := by
  induction n generalizing va with
  | zero => exact ⟨0, rfl⟩
  | succ n ih =>
    obtain ⟨x, hx⟩ := h 0 (by omega)
    obtain ⟨b, hb⟩ := ih (va + 1) fun i hi => by
      obtain ⟨y, hy⟩ := h (i + 1) (by omega)
      exact ⟨y, by rwa [show va + 1 + i = va + (i + 1) by omega]⟩
    refine ⟨(memGet s.mem x.pa).toNat + 256 * b, ?_⟩
    unfold fetchBytes
    rw [go_bind_ok (fetchByte_clean (by simpa using hx) hd hv hi hf ht), go_bind_ok hb]
    rfl

end Sys2Proof.Machine
end

