-- ==== Sys2Proof/Laws/Encoding.lean ====
section
/-! SUPPORT. How the fields of a word that the encoder lays down are read back: one lemma per word form (R78, R81, R82). -/
namespace Sys2Proof.Laws
set_option Elab.async false

@[simp] theorem reg_val (r : Fin 32) : reg r.val = r := by simp [reg]
@[simp] theorem ofNat8_val (r : Fin 8) : Fin.ofNat 8 r.val = r := by simp
@[simp] theorem ofNat4_val (r : Fin 4) : Fin.ofNat 4 r.val = r := by simp

@[simp] theorem imm13_parts (i : Imm13) : imm13Of (i.toNat / 32) (i.toNat % 32) = i := by
  apply BitVec.eq_of_toNat_eq; simp only [imm13Of, BitVec.toNat_ofNat]; omega
@[simp] theorem imm13_fields (i : Imm13) : imm13Of (immF i) (immD i) = i := imm13_parts i
@[simp] theorem imm18_parts (i : Imm18) : imm18Of (i.toNat / 1024) (i.toNat / 32 % 32) (i.toNat % 32) = i := by
  apply BitVec.eq_of_toNat_eq; simp only [imm18Of, BitVec.toNat_ofNat]; omega

/-- A base word's fields come back (R78). -/
theorem decode_mkWord {f b a d maj : Nat} (c : Bool) (hf : f < 256) (hb : b < 32) (ha : a < 32) (hd : d < 32) (hm : maj < 64) :
    decode (mkWord f b a d maj c) = (decodeFields c maj d a b f).bind legal := by
  have h1 : mkWord f b a d maj c % 2 = 1 := by unfold mkWord; omega
  have h2 : mkWord f b a d maj c % 4 = 1 := by unfold mkWord; omega
  have h3 : mkWord f b a d maj c % 4294967296 = mkWord f b a d maj c := by unfold mkWord; cases c <;> simp <;> omega
  have h4 : (mkWord f b a d maj c / 4 % 2 == 1) = c := by unfold mkWord; cases c <;> simp <;> omega
  have h5 : mkWord f b a d maj c / 8 % 64 = maj := by unfold mkWord; cases c <;> simp <;> omega
  have h6 : mkWord f b a d maj c / 512 % 32 = d := by unfold mkWord; cases c <;> simp <;> omega
  have h7 : mkWord f b a d maj c / 16384 % 32 = a := by unfold mkWord; cases c <;> simp <;> omega
  have h8 : mkWord f b a d maj c / 524288 % 32 = b := by unfold mkWord; cases c <;> simp <;> omega
  have h9 : mkWord f b a d maj c / 16777216 % 256 = f := by unfold mkWord; cases c <;> simp <;> omega
  simp only [decode, h1, h2, h3, decode32, h4, h5, h6, h7, h8, h9, one_ne_zero, if_false, if_true]

/-- A compressed parcel's fields come back (R81). -/
theorem decode_mkParcel {z y x q : Nat} (hz : z < 2) (hy : y < 32) (hx : x < 32) (hq : q < 16) :
    decode (mkParcel z y x q) = (decodeParcel z y x q).bind legal := by
  have h1 : mkParcel z y x q % 2 = 0 := by unfold mkParcel; omega
  have h3 : mkParcel z y x q % 65536 = mkParcel z y x q := by unfold mkParcel; omega
  have h4 : mkParcel z y x q / 32768 % 2 = z := by unfold mkParcel; omega
  have h5 : mkParcel z y x q / 1024 % 32 = y := by unfold mkParcel; omega
  have h6 : mkParcel z y x q / 32 % 32 = x := by unfold mkParcel; omega
  have h7 : mkParcel z y x q / 2 % 16 = q := by unfold mkParcel; omega
  simp only [decode, h1, h3, decode16, h4, h5, h6, h7, if_true]

/-- A tile word's fields come back (R82). -/
theorem decode_mkTile {acc mm1 asrc tr afmt row dfmt accum f b a d : Nat} (c : Bool)
    (h0 : acc < 4) (h1 : mm1 < 32) (h2 : asrc < 2) (h3 : tr < 2) (h4 : afmt < 4) (h5 : row < 32) (h6 : dfmt < 8) (h7 : accum < 2)
    (hf : f < 256) (hb : b < 32) (ha : a < 32) (hd : d < 32) :
    decode (mkTile (mkPrefix acc mm1 asrc tr afmt row dfmt accum) (mkWord f b a d 62 c)) =
      (decodeTile acc mm1 asrc tr afmt row dfmt accum c d a b f).bind legal := by
  have hc : c.toNat < 2 := by cases c <;> simp
  generalize hP : mkPrefix acc mm1 asrc tr afmt row dfmt accum = P
  generalize hW : mkWord f b a d 62 c = W
  have hP' : P < 4294967296 := by rw [← hP]; unfold mkPrefix; omega
  have hW' : W < 4294967296 := by rw [← hW]; unfold mkWord; omega
  have e1 : mkTile P W % 18446744073709551616 = mkTile P W := by unfold mkTile; omega
  have e2 : mkTile P W % 4294967296 = P := by unfold mkTile; omega
  have e3 : mkTile P W / 4294967296 = W := by unfold mkTile; omega
  have e4 : mkTile P W % 2 = 1 := by rw [← hP]; unfold mkTile mkPrefix; omega
  have e5 : ¬ mkTile P W % 4 = 1 := by rw [← hP]; unfold mkTile mkPrefix; omega
  have p1 : P / 4 % 8 = 0 := by rw [← hP]; unfold mkPrefix; omega
  have p2 : P / 33554432 % 128 = 0 := by rw [← hP]; unfold mkPrefix; omega
  have p3 : P / 32 % 4 = acc := by rw [← hP]; unfold mkPrefix; omega
  have p4 : P / 128 % 32 = mm1 := by rw [← hP]; unfold mkPrefix; omega
  have p5 : P / 4096 % 2 = asrc := by rw [← hP]; unfold mkPrefix; omega
  have p6 : P / 8192 % 2 = tr := by rw [← hP]; unfold mkPrefix; omega
  have p7 : P / 16384 % 4 = afmt := by rw [← hP]; unfold mkPrefix; omega
  have p8 : P / 65536 % 32 = row := by rw [← hP]; unfold mkPrefix; omega
  have p9 : P / 2097152 % 8 = dfmt := by rw [← hP]; unfold mkPrefix; omega
  have p10 : P / 16777216 % 2 = accum := by rw [← hP]; unfold mkPrefix; omega
  have w1 : W % 4 = 1 := by rw [← hW]; unfold mkWord; omega
  have w2 : W / 8 % 64 = 62 := by rw [← hW]; unfold mkWord; omega
  have w3 : (W / 4 % 2 == 1) = c := by rw [← hW]; unfold mkWord; cases c <;> simp <;> omega
  have w4 : W / 512 % 32 = d := by rw [← hW]; unfold mkWord; omega
  have w5 : W / 16384 % 32 = a := by rw [← hW]; unfold mkWord; omega
  have w6 : W / 524288 % 32 = b := by rw [← hW]; unfold mkWord; omega
  have w7 : W / 16777216 % 256 = f := by rw [← hW]; unfold mkWord; omega
  simp only [decode, e1, e2, e3, e4, e5, decode64, p1, p2, p3, p4, p5, p6, p7, p8, p9, p10, w1, w2, w3, w4, w5, w6, w7,
    one_ne_zero, if_false, if_true, and_self]

/-- F of a vector form fits its field, and its FN and mask come back (R79). -/
theorem maskF_lt (m : Option MReg) {fn : Nat} (h : fn < 16) : maskF m fn < 256 := by
  cases m <;> simp only [maskF] <;> omega
@[simp] theorem maskF_mod (m : Option MReg) {fn : Nat} (h : fn < 16) : maskF m fn % 16 = fn := by
  cases m <;> simp only [maskF] <;> omega
@[simp] theorem maskOf_maskF (m : Option MReg) {fn : Nat} (h : fn < 16) : maskOf (maskF m fn) = some m := by
  cases m with
  | none => have a : ¬ fn / 128 = 1 := by omega
            have b : fn / 16 = 0 := by omega
            simp [maskF, maskOf, a, b]
  | some k =>
    have a : (128 + 16 * k.val + fn) / 128 = 1 := by omega
    have b : Fin.ofNat 8 ((128 + 16 * k.val + fn) / 16) = k := by
      apply Fin.ext; simp only [Fin.ofNat, Fin.val_mk]; omega
    simp only [maskF, maskOf, a, if_true, b]
@[simp] theorem maskOf_small {fn : Nat} (h : fn < 16) : maskOf fn = some none := maskOf_maskF none h

/-! Lengths (R76). -/

theorem instrLen_word {i : Instr} {f b a d maj : Nat} {c : Bool} (e : encode i = mkWord f b a d maj c) : instrLen i = 4 := by
  have h : mkWord f b a d maj c % 4 = 1 := by simp only [mkWord]; omega
  rw [instrLen, e, parcelLen, if_neg (by omega), if_neg (by omega), if_pos h]
theorem instrLen_parcel {i : Instr} {z y x q : Nat} (e : encode i = mkParcel z y x q) (h : 0 < q) : instrLen i = 2 := by
  have e' : mkParcel z y x q % 2 = 0 := by simp only [mkParcel]; omega
  have n : mkParcel z y x q ≠ 0 := by simp only [mkParcel]; omega
  rw [instrLen, e, parcelLen, if_neg n, if_pos e']
theorem instrLen_tile {i : Instr} {w acc mm1 asrc tr afmt row dfmt accum : Nat}
    (e : encode i = mkTile (mkPrefix acc mm1 asrc tr afmt row dfmt accum) w) : instrLen i = 8 := by
  have h : mkTile (mkPrefix acc mm1 asrc tr afmt row dfmt accum) w % 4 = 3 := by simp only [mkTile, mkPrefix]; omega
  rw [instrLen, e, parcelLen, if_neg (by omega), if_neg (by omega), if_neg (by omega)]

end Sys2Proof.Laws
end

