-- ==== Sys2Proof/Laws/Memory.lean ====
section
/-! SUPPORT. Memory as a list in canonical form: every operation keeps the form, and a byte read after a write (R1). -/
namespace Sys2Proof.Machine
set_option Elab.async false

/-- Every key of the list is above a. -/
def Memory.above (a : Nat) (m : List Host.Cell) : Prop := ∀ c ∈ m, a < c.1

theorem Memory.wf_nil : Memory.wf [] = true := rfl

/-- The canonical form, one cell at a time. -/
theorem Memory.wf_cons (c : Host.Cell) (r : List Host.Cell) :
    Memory.wf (c :: r) = true ↔ c.2 ≠ unlisted ∧ Memory.above c.1 r ∧ Memory.wf r = true := by
  induction r generalizing c with
  | nil => simp [Memory.wf, Memory.rising, Memory.above]
  | cons e r ih =>
    have hr : Memory.rising (c :: e :: r) = (decide (c.1 < e.1) && Memory.rising (e :: r)) := rfl
    constructor
    · intro h
      simp only [Memory.wf, hr, List.all_cons, Bool.and_eq_true, decide_eq_true_eq, bne_iff_ne, ne_eq] at h
      obtain ⟨⟨h1, h2⟩, h3, h4, h5⟩ := h
      have w : Memory.wf (e :: r) = true := by simp [Memory.wf, h2, h4, h5]
      refine ⟨h3, ?_, w⟩
      intro x hx
      rcases List.mem_cons.mp hx with rfl | hx
      · exact h1
      · exact lt_trans h1 (((ih e).mp w).2.1 x hx)
    · rintro ⟨h1, h2, h3⟩
      have h4 : c.1 < e.1 := h2 e (by simp)
      simp only [Memory.wf, List.all_cons, Bool.and_eq_true, bne_iff_ne, ne_eq] at h3
      simp [Memory.wf, hr, h1, h4, h3]

theorem memSet_above {m : List Host.Cell} {a x : Nat} {b : Byte} (h : Memory.above x m) (hx : x < a) :
    Memory.above x (memSet m a b) := by
  induction m with
  | nil => unfold memSet; split <;> simp [Memory.above, hx]
  | cons c r ih =>
    have hc : x < c.1 := h c (by simp)
    have hr : Memory.above x r := fun e he => h e (by simp [he])
    unfold memSet
    split
    · intro e he
      rcases List.mem_cons.mp he with rfl | he
      · exact hc
      · exact ih hr e he
    · split <;> split
      · exact hr
      · intro e he
        rcases List.mem_cons.mp he with rfl | he
        · exact hx
        · exact hr e he
      · exact h
      · intro e he
        rcases List.mem_cons.mp he with rfl | he
        · exact hx
        · exact h e he

/-- Writing a byte keeps the canonical form. -/
theorem memSet_wf {m : List Host.Cell} (a : Nat) (b : Byte) (h : Memory.wf m = true) : Memory.wf (memSet m a b) = true := by
  induction m with
  | nil => unfold memSet; split <;> simp_all [Memory.wf, Memory.rising]
  | cons c r ih =>
    obtain ⟨h1, h2, h3⟩ := (Memory.wf_cons c r).mp h
    unfold memSet
    split
    · next hl => exact (Memory.wf_cons _ _).mpr ⟨h1, memSet_above h2 hl, ih h3⟩
    · next hl =>
      split
      · next he =>
        split
        · exact h3
        · next hb => exact (Memory.wf_cons _ _).mpr ⟨hb, he ▸ h2, h3⟩
      · next he =>
        split
        · exact h
        · next hb =>
          have hlt : a < c.1 := by omega
          refine (Memory.wf_cons _ _).mpr ⟨hb, ?_, h⟩
          intro e hm
          rcases List.mem_cons.mp hm with rfl | hm
          · exact hlt
          · exact lt_trans hlt (h2 e hm)

theorem memWrite_wf {m : List Host.Cell} (a n v : Nat) (h : Memory.wf m = true) : Memory.wf (memWrite m a n v) = true := by
  induction n generalizing m a v with
  | zero => exact h
  | succ n ih => exact ih _ _ (memSet_wf a _ h)

theorem memGet_above {m : List Host.Cell} {a : Nat} (h : Memory.above a m) : memGet m a = unlisted := by
  induction m with
  | nil => rfl
  | cons c r ih =>
    have h1 : a < c.1 := h c (by simp)
    have h2 : ¬ c.1 = a := by omega
    have h3 := ih fun e he => h e (by simp [he])
    simpa [memGet, mget, h2] using h3

/-- A byte read after one is written: the byte at its address, the old one elsewhere. -/
theorem memGet_memSet {m : List Host.Cell} (a : Nat) (b : Byte) (x : Nat) (h : Memory.wf m = true) :
    memGet (memSet m a b) x = if x = a then b else memGet m x := by
  induction m with
  | nil =>
    by_cases hb : b = unlisted
    · by_cases hx : x = a <;> simp [memSet, memGet, mget, hb, hx]
    · by_cases hx : x = a
      · simp [memSet, memGet, mget, hb, hx]
      · simp [memSet, memGet, mget, hb, hx, Ne.symm hx]
  | cons c r ih =>
    obtain ⟨h1, h2, h3⟩ := (Memory.wf_cons c r).mp h
    obtain ⟨k, y⟩ := c
    have ih' := ih h3
    unfold memGet at ih' ⊢
    unfold memSet
    by_cases hl : k < a
    · simp only [if_pos hl, mget]
      by_cases hk : k = x
      · have : ¬ x = a := by omega
        simp [hk, this]
      · simp only [if_neg hk, ih']
    · by_cases he : k = a
      · subst he
        simp only [lt_irrefl, if_false, if_true]
        have hr : memGet r k = unlisted := memGet_above h2
        by_cases hb : b = unlisted
        · simp only [if_pos hb, mget]
          by_cases hx : x = k
          · subst hx; rw [if_pos rfl, hb]; exact hr
          · simp [hx, Ne.symm hx]
        · simp only [if_neg hb, mget]
          by_cases hx : x = k
          · simp [hx]
          · simp [hx, Ne.symm hx]
      · have hlt : a < k := by omega
        have ha : memGet ((k, y) :: r) a = unlisted := memGet_above (by
          intro e hm
          rcases List.mem_cons.mp hm with rfl | hm
          · exact hlt
          · exact lt_trans hlt (h2 e hm))
        unfold memGet at ha
        simp only [if_neg hl, if_neg he]
        by_cases hb : b = unlisted
        · simp only [if_pos hb]
          by_cases hx : x = a
          · rw [hx, ha, if_pos rfl, ← hb]
          · simp [hx]
        · simp only [if_neg hb]
          by_cases hx : x = a
          · simp [mget, hx]
          · simp only [mget, if_neg (Ne.symm hx), if_neg hx]

/-- A byte read after n bytes are written. -/
theorem memGet_memWrite {m : List Host.Cell} (a n v x : Nat) (h : Memory.wf m = true) :
    memGet (memWrite m a n v) x = if a ≤ x ∧ x < a + n then BitVec.ofNat 8 (v / 256 ^ (x - a)) else memGet m x := by
  induction n generalizing m a v with
  | zero => simp [memWrite]
  | succ n ih =>
    rw [memWrite, ih _ _ (memSet_wf a _ h), memGet_memSet a _ x h]
    by_cases h1 : a + 1 ≤ x ∧ x < a + 1 + n
    · have h2 : a ≤ x ∧ x < a + (n + 1) := by omega
      have h3 : x - a = (x - (a + 1)) + 1 := by omega
      rw [if_pos h1, if_pos h2, h3, pow_succ', Nat.div_div_eq_div_mul]
    · rw [if_neg h1]
      by_cases hx : x = a
      · simp [hx]
      · have h2 : ¬ (a ≤ x ∧ x < a + (n + 1)) := by omega
        rw [if_neg hx, if_neg h2]

/-- Reading what was written, little-endian (R1). -/
theorem memRead_memWrite {m : List Host.Cell} (a n v : Nat) (h : Memory.wf m = true) :
    memRead (memWrite m a n v) a n = v % 256 ^ n := by
  suffices H : ∀ k, k ≤ n → memRead (memWrite m a n v) (a + (n - k)) k = v / 256 ^ (n - k) % 256 ^ k by
    simpa using H n le_rfl
  intro k
  induction k with
  | zero => intro _; simp [memRead, Nat.mod_one]
  | succ k ih =>
    intro hk
    have e : a + (n - (k + 1)) + 1 = a + (n - k) := by omega
    rw [memRead, e, ih (by omega), memGet_memWrite _ _ _ _ h, if_pos (by omega)]
    have e2 : a + (n - (k + 1)) - a = n - (k + 1) := by omega
    have e3 : n - k = (n - (k + 1)) + 1 := by omega
    rw [e2, e3, pow_succ 256 (n - (k + 1)), ← Nat.div_div_eq_div_mul, BitVec.toNat_ofNat, pow_succ' 256 k]
    generalize v / 256 ^ (n - (k + 1)) = q
    rw [Nat.mod_mul]

/-- A byte outside the written ones is as before. -/
theorem memGet_memWrite_outside {m : List Host.Cell} {a n v x : Nat} (h : Memory.wf m = true) (hx : x < a ∨ a + n ≤ x) :
    memGet (memWrite m a n v) x = memGet m x := by
  rw [memGet_memWrite _ _ _ _ h, if_neg (by omega)]

theorem memPut_above {m : List Host.Cell} {x : Nat} : ∀ {n a : Nat} {bs : List Byte}, Memory.above x m → x < a →
    Memory.above x (memPut n m a bs) := by
  intro n
  induction n generalizing m with
  | zero => intro a bs h _; cases bs <;> exact h
  | succ n ih =>
    intro a bs h hx
    cases bs with
    | nil => cases m <;> exact h
    | cons b bs =>
      have cons_ok : ∀ {e : Host.Cell} {l : List Host.Cell}, x < e.1 → Memory.above x l → Memory.above x (e :: l) := by
        intro e l h1 h2 y hy
        rcases List.mem_cons.mp hy with rfl | hy
        · exact h1
        · exact h2 y hy
      cases m with
      | nil =>
        rw [memPut]
        split
        · exact ih h (by omega)
        · exact cons_ok hx (ih h (by omega))
      | cons c r =>
        have hc : x < c.1 := h c (by simp)
        have hr : Memory.above x r := fun e he => h e (by simp [he])
        have hr' : Memory.above x (if c.1 = a then r else c :: r) := by split <;> assumption
        rw [memPut]
        split
        · exact cons_ok hc (ih hr hx)
        · simp only
          split
          · exact ih hr' (by omega)
          · exact cons_ok hx (ih hr' (by omega))

/-- Merging bytes keeps the canonical form. -/
theorem memPut_wf {m : List Host.Cell} : ∀ {n a : Nat} {bs : List Byte}, Memory.wf m = true → Memory.wf (memPut n m a bs) = true := by
  intro n
  induction n generalizing m with
  | zero => intro a bs h; cases bs <;> exact h
  | succ n ih =>
    intro a bs h
    cases bs with
    | nil => cases m <;> exact h
    | cons b bs =>
      cases m with
      | nil =>
        rw [memPut]
        split
        · exact ih h
        · next hb => exact (Memory.wf_cons _ _).mpr ⟨hb, memPut_above (by simp [Memory.above]) (by omega), ih h⟩
      | cons c r =>
        obtain ⟨h1, h2, h3⟩ := (Memory.wf_cons c r).mp h
        rw [memPut]
        split
        · next hl => exact (Memory.wf_cons _ _).mpr ⟨h1, memPut_above h2 hl, ih h3⟩
        · next hl =>
          have hw : Memory.wf (if c.1 = a then r else c :: r) = true := by split <;> assumption
          have ha : Memory.above a (if c.1 = a then r else c :: r) := by
            split
            · next he => exact he ▸ h2
            · intro e hm
              rcases List.mem_cons.mp hm with rfl | hm
              · omega
              · have := h2 e hm; omega
          simp only
          split
          · exact ih hw
          · next hb => exact (Memory.wf_cons _ _).mpr ⟨hb, memPut_above ha (by omega), ih hw⟩

/-- The home's operations keep the form. -/
theorem rekey_wf (s : State) (line : Nat) (k : BitVec 512) (h : Memory.wf s.mem = true) : Memory.wf (rekey s line k).mem = true := by
  unfold rekey
  split
  · exact h
  · simp only
    generalize List.range 64 = l
    suffices H : ∀ m, Memory.wf m = true → Memory.wf (l.foldl (fun m i =>
        memSet m (64 * line + i) (underKey s.mem (lineKeyAt s (64 * line)) k (64 * line + i))) m) = true from
      H _ h
    induction l with
    | nil => intro m hm; exact hm
    | cons i l ih => intro m hm; exact ih _ (memSet_wf _ _ hm)

theorem homeWrite_wf (s : State) (pa n v k : Nat) (h : Memory.wf s.mem = true) : Memory.wf (homeWrite s pa n v k).mem = true := by
  unfold homeWrite
  simp only
  split
  · exact memWrite_wf _ _ _ (rekey_wf s _ _ h)
  · exact memWrite_wf _ _ _ h

/-- Waits and notices change no memory. -/
@[simp] theorem noticePeers_mem (s : State) (pa n : Nat) : (noticePeers s pa n).mem = s.mem := by
  unfold noticePeers; simp only; split <;> rfl
@[simp] theorem wakeWaits_mem (s : State) (pa n : Nat) : (wakeWaits s pa n).mem = s.mem := by
  unfold wakeWaits; simp only; split <;> simp
@[simp] theorem watchStore_mem (s : State) (pa n : Nat) (e : Option Nat) : (watchStore s pa n e).mem = s.mem := rfl
@[simp] theorem unpoison_mem (s : State) (pa n : Nat) : (unpoison s pa n).mem = s.mem := rfl
@[simp] theorem joinV_mem (s : State) (h : HartId) : (joinV s h).mem = s.mem := by unfold joinV; split <;> rfl
@[simp] theorem outRequest_mem (s : State) (w : Who) (pa n : Nat) (d : Option Nat) (a : Bool) : (outRequest s w pa n d a).mem = s.mem := by
  unfold outRequest; split
  · rfl
  · split <;> rfl

/-- A fold over steps that each keep the form keeps it. -/
theorem foldl_wf {α : Type} (f : State → α → State) (hf : ∀ s a, Memory.wf s.mem = true → Memory.wf (f s a).mem = true) :
    ∀ (l : List α) (s : State), Memory.wf s.mem = true → Memory.wf (l.foldl f s).mem = true := by
  intro l
  induction l with
  | nil => intro s hs; exact hs
  | cons c l ih => intro s hs; exact ih _ (hf _ _ hs)

theorem writeBack_wf (s : State) (p : Nat → Dirty → Bool) (h : Memory.wf s.mem = true) : Memory.wf (writeBack s p).mem = true := by
  unfold writeBack
  refine foldl_wf (fun s (c : Nat × Dirty) => wakeWaits s c.1 1) (fun s c hs => by simpa using hs) _ _ ?_
  exact foldl_wf (fun s (c : Nat × Dirty) => homeWrite s c.1 1 c.2.byte.toNat c.2.key) (fun s c hs => homeWrite_wf s _ _ _ _ hs) _ s h

theorem recall_wf (s : State) (pa n : Nat) (keep : Option TileId) (h : Memory.wf s.mem = true) : Memory.wf (recallLines s pa n keep).mem = true :=
  writeBack_wf s _ h

/-- A store at its home keeps the form. -/
theorem storeHome_wf (s : State) (pa n v k : Nat) (e : Option Nat) (h : Memory.wf s.mem = true) : Memory.wf (storeHome s pa n v k e).mem = true := by
  simp only [storeHome, wakeWaits_mem, unpoison_mem]
  exact homeWrite_wf _ _ _ _ _ (recall_wf _ _ _ _ (by simpa using h))

/-- V stores that are performed late keep the form. -/
theorem performV_wf (s : State) (p : Nat → Unperformed → Bool) (h : Memory.wf s.mem = true) : Memory.wf (performV s p).mem = true := by
  unfold performV
  refine foldl_wf (fun s (c : Nat × Unperformed) => wakeWaits s (c.1 % 2 ^ 48) 1) (fun s c hs => by simpa using hs) _ _ ?_
  refine foldl_wf (fun s (c : Nat × Unperformed) => homeWrite s (c.1 % 2 ^ 48) 1 c.2.byte.toNat c.2.key)
    (fun s c hs => homeWrite_wf s _ _ _ _ hs) _ _ ?_
  exact foldl_wf (fun s (c : Nat × Unperformed) =>
      recallLines (watchStore { s with storeNo := c.2.no } (c.1 % 2 ^ 48) 1 none) (c.1 % 2 ^ 48) 1 none)
    (fun s c hs => recall_wf _ _ _ _ (by simpa using hs)) _ s h
theorem performHart_wf (s : State) (k : HartId) (h : Memory.wf s.mem = true) : Memory.wf (performHart s k).mem = true := by
  unfold performHart
  simp only
  split
  · exact performV_wf s _ h
  · exact performV_wf s _ h
theorem vOrder_wf (s : State) (w : Who) (past : Bool) (pa n : Nat) (h : Memory.wf s.mem = true) : Memory.wf (vOrder s w past pa n).mem = true := by
  unfold vOrder
  split
  · split
    · exact h
    · split
      · exact performHart_wf s _ h
      · split
        · exact performV_wf s _ h
        · exact h
  · exact h
theorem bufferV_wf (s : State) (k : HartId) (w : Who) (pa n v key : Nat) (h : Memory.wf s.mem = true) :
    Memory.wf (bufferV s k w pa n v key).mem = true := by
  unfold bufferV
  simp only
  split
  · exact storeHome_wf s _ _ _ _ _ h
  · exact performV_wf s _ h

theorem touch_wf (s : State) (x : Xl) (store : Bool) (h : Memory.wf s.mem = true) : Memory.wf (touch s x store).mem = true := by
  simp only [touch]
  generalize memRead s.mem (backing s x.entry) 8 = e
  generalize (e ||| 0x200 ||| if store = true then 0x400 else 0) = e'
  split
  · exact h
  · exact memWrite_wf _ _ _ h

/-- Reset memory lists nothing. -/
theorem reset_mem : State.reset.mem = [] := rfl

end Sys2Proof.Machine
end

