-- ==== Sys2Proof/Laws/PerInstr.lean ====
section
/-! SUPPORT. Decoding an encoded instruction, constructor by constructor. -/
namespace Sys2Proof.Laws.RoundTrip
set_option Elab.async false
set_option linter.unusedSimpArgs false
set_option linter.unusedTactic false
set_option linter.unreachableTactic false

/-- The words of a well-formed instruction decode to it, with every operand at every value (R78 to R86); what follows
them is not read.  A step of the device has no words. -/
def Statement (i : Instr) : Prop := i.wf = true → i.encoded = true → decode (encode i) = some i

theorem legal_of {i : Instr} (w : i.wf = true) : legal i = some i := if_pos w

/-- The fields of F of an atomic (R102). -/
theorem atom_fields (k : Nat) (hk : k < 16) (wd aq rl : Bool) :
    ¬ 128 ≤ k + 16 * wd.toNat + 32 * aq.toNat + 64 * rl.toNat ∧ (k + 16 * wd.toNat + 32 * aq.toNat + 64 * rl.toNat) % 16 = k
    ∧ ((k + 16 * wd.toNat + 32 * aq.toNat + 64 * rl.toNat) / 16 % 2 == 1) = wd
    ∧ ((k + 16 * wd.toNat + 32 * aq.toNat + 64 * rl.toNat) / 32 % 2 == 1) = aq
    ∧ ((k + 16 * wd.toNat + 32 * aq.toNat + 64 * rl.toNat) / 64 % 2 == 1) = rl := by
  cases wd <;> cases aq <;> cases rl <;> simp <;> omega

theorem add : ∀ d a b, Statement (.add d a b) := by
  intro d a b w _
  rw [encode, decode_mkWord _ (by omega) (by omega) (by omega) (by omega) (by omega)]
  simp (disch := omega) only [decodeFields.eq_1, dec01.eq_1, reg_val, ofNat8_val, ofNat4_val, imm13_parts, imm13_fields, imm18_parts, maskOf_small, Option.bind, Option.map, Option.isNone, Fin.is_lt, and_self, true_and, Bool.false_eq_true, if_true, if_false, Nat.zero_mod, Nat.mod_succ, Nat.reduceMod]
  exact legal_of w
theorem sub : ∀ d a b, Statement (.sub d a b) := by
  intro d a b w _
  rw [encode, decode_mkWord _ (by omega) (by omega) (by omega) (by omega) (by omega)]
  simp (disch := omega) only [decodeFields.eq_1, dec01.eq_2, reg_val, ofNat8_val, ofNat4_val, imm13_parts, imm13_fields, imm18_parts, maskOf_small, Option.bind, Option.map, Option.isNone, Fin.is_lt, and_self, true_and, Bool.false_eq_true, if_true, if_false, Nat.zero_mod, Nat.mod_succ, Nat.reduceMod]
  exact legal_of w
theorem and : ∀ d a b, Statement (.and d a b) := by
  intro d a b w _
  rw [encode, decode_mkWord _ (by omega) (by omega) (by omega) (by omega) (by omega)]
  simp (disch := omega) only [decodeFields.eq_1, dec01.eq_3, reg_val, ofNat8_val, ofNat4_val, imm13_parts, imm13_fields, imm18_parts, maskOf_small, Option.bind, Option.map, Option.isNone, Fin.is_lt, and_self, true_and, Bool.false_eq_true, if_true, if_false, Nat.zero_mod, Nat.mod_succ, Nat.reduceMod]
  exact legal_of w
theorem or : ∀ d a b, Statement (.or d a b) := by
  intro d a b w _
  rw [encode, decode_mkWord _ (by omega) (by omega) (by omega) (by omega) (by omega)]
  simp (disch := omega) only [decodeFields.eq_1, dec01.eq_4, reg_val, ofNat8_val, ofNat4_val, imm13_parts, imm13_fields, imm18_parts, maskOf_small, Option.bind, Option.map, Option.isNone, Fin.is_lt, and_self, true_and, Bool.false_eq_true, if_true, if_false, Nat.zero_mod, Nat.mod_succ, Nat.reduceMod]
  exact legal_of w
theorem xor : ∀ d a b, Statement (.xor d a b) := by
  intro d a b w _
  rw [encode, decode_mkWord _ (by omega) (by omega) (by omega) (by omega) (by omega)]
  simp (disch := omega) only [decodeFields.eq_1, dec01.eq_5, reg_val, ofNat8_val, ofNat4_val, imm13_parts, imm13_fields, imm18_parts, maskOf_small, Option.bind, Option.map, Option.isNone, Fin.is_lt, and_self, true_and, Bool.false_eq_true, if_true, if_false, Nat.zero_mod, Nat.mod_succ, Nat.reduceMod]
  exact legal_of w
theorem andn : ∀ d a b, Statement (.andn d a b) := by
  intro d a b w _
  rw [encode, decode_mkWord _ (by omega) (by omega) (by omega) (by omega) (by omega)]
  simp (disch := omega) only [decodeFields.eq_1, dec01.eq_6, reg_val, ofNat8_val, ofNat4_val, imm13_parts, imm13_fields, imm18_parts, maskOf_small, Option.bind, Option.map, Option.isNone, Fin.is_lt, and_self, true_and, Bool.false_eq_true, if_true, if_false, Nat.zero_mod, Nat.mod_succ, Nat.reduceMod]
  exact legal_of w
theorem sll : ∀ d a b, Statement (.sll d a b) := by
  intro d a b w _
  rw [encode, decode_mkWord _ (by omega) (by omega) (by omega) (by omega) (by omega)]
  simp (disch := omega) only [decodeFields.eq_1, dec01.eq_7, reg_val, ofNat8_val, ofNat4_val, imm13_parts, imm13_fields, imm18_parts, maskOf_small, Option.bind, Option.map, Option.isNone, Fin.is_lt, and_self, true_and, Bool.false_eq_true, if_true, if_false, Nat.zero_mod, Nat.mod_succ, Nat.reduceMod]
  exact legal_of w
theorem srl : ∀ d a b, Statement (.srl d a b) := by
  intro d a b w _
  rw [encode, decode_mkWord _ (by omega) (by omega) (by omega) (by omega) (by omega)]
  simp (disch := omega) only [decodeFields.eq_1, dec01.eq_8, reg_val, ofNat8_val, ofNat4_val, imm13_parts, imm13_fields, imm18_parts, maskOf_small, Option.bind, Option.map, Option.isNone, Fin.is_lt, and_self, true_and, Bool.false_eq_true, if_true, if_false, Nat.zero_mod, Nat.mod_succ, Nat.reduceMod]
  exact legal_of w
theorem sra : ∀ d a b, Statement (.sra d a b) := by
  intro d a b w _
  rw [encode, decode_mkWord _ (by omega) (by omega) (by omega) (by omega) (by omega)]
  simp (disch := omega) only [decodeFields.eq_1, dec01.eq_9, reg_val, ofNat8_val, ofNat4_val, imm13_parts, imm13_fields, imm18_parts, maskOf_small, Option.bind, Option.map, Option.isNone, Fin.is_lt, and_self, true_and, Bool.false_eq_true, if_true, if_false, Nat.zero_mod, Nat.mod_succ, Nat.reduceMod]
  exact legal_of w
theorem slt : ∀ d a b, Statement (.slt d a b) := by
  intro d a b w _
  rw [encode, decode_mkWord _ (by omega) (by omega) (by omega) (by omega) (by omega)]
  simp (disch := omega) only [decodeFields.eq_1, dec01.eq_10, reg_val, ofNat8_val, ofNat4_val, imm13_parts, imm13_fields, imm18_parts, maskOf_small, Option.bind, Option.map, Option.isNone, Fin.is_lt, and_self, true_and, Bool.false_eq_true, if_true, if_false, Nat.zero_mod, Nat.mod_succ, Nat.reduceMod]
  exact legal_of w
theorem sltu : ∀ d a b, Statement (.sltu d a b) := by
  intro d a b w _
  rw [encode, decode_mkWord _ (by omega) (by omega) (by omega) (by omega) (by omega)]
  simp (disch := omega) only [decodeFields.eq_1, dec01.eq_11, reg_val, ofNat8_val, ofNat4_val, imm13_parts, imm13_fields, imm18_parts, maskOf_small, Option.bind, Option.map, Option.isNone, Fin.is_lt, and_self, true_and, Bool.false_eq_true, if_true, if_false, Nat.zero_mod, Nat.mod_succ, Nat.reduceMod]
  exact legal_of w
theorem min : ∀ d a b, Statement (.min d a b) := by
  intro d a b w _
  rw [encode, decode_mkWord _ (by omega) (by omega) (by omega) (by omega) (by omega)]
  simp (disch := omega) only [decodeFields.eq_1, dec01.eq_12, reg_val, ofNat8_val, ofNat4_val, imm13_parts, imm13_fields, imm18_parts, maskOf_small, Option.bind, Option.map, Option.isNone, Fin.is_lt, and_self, true_and, Bool.false_eq_true, if_true, if_false, Nat.zero_mod, Nat.mod_succ, Nat.reduceMod]
  exact legal_of w
theorem max : ∀ d a b, Statement (.max d a b) := by
  intro d a b w _
  rw [encode, decode_mkWord _ (by omega) (by omega) (by omega) (by omega) (by omega)]
  simp (disch := omega) only [decodeFields.eq_1, dec01.eq_13, reg_val, ofNat8_val, ofNat4_val, imm13_parts, imm13_fields, imm18_parts, maskOf_small, Option.bind, Option.map, Option.isNone, Fin.is_lt, and_self, true_and, Bool.false_eq_true, if_true, if_false, Nat.zero_mod, Nat.mod_succ, Nat.reduceMod]
  exact legal_of w
theorem minu : ∀ d a b, Statement (.minu d a b) := by
  intro d a b w _
  rw [encode, decode_mkWord _ (by omega) (by omega) (by omega) (by omega) (by omega)]
  simp (disch := omega) only [decodeFields.eq_1, dec01.eq_14, reg_val, ofNat8_val, ofNat4_val, imm13_parts, imm13_fields, imm18_parts, maskOf_small, Option.bind, Option.map, Option.isNone, Fin.is_lt, and_self, true_and, Bool.false_eq_true, if_true, if_false, Nat.zero_mod, Nat.mod_succ, Nat.reduceMod]
  exact legal_of w
theorem maxu : ∀ d a b, Statement (.maxu d a b) := by
  intro d a b w _
  rw [encode, decode_mkWord _ (by omega) (by omega) (by omega) (by omega) (by omega)]
  simp (disch := omega) only [decodeFields.eq_1, dec01.eq_15, reg_val, ofNat8_val, ofNat4_val, imm13_parts, imm13_fields, imm18_parts, maskOf_small, Option.bind, Option.map, Option.isNone, Fin.is_lt, and_self, true_and, Bool.false_eq_true, if_true, if_false, Nat.zero_mod, Nat.mod_succ, Nat.reduceMod]
  exact legal_of w
theorem mul : ∀ d a b, Statement (.mul d a b) := by
  intro d a b w _
  rw [encode, decode_mkWord _ (by omega) (by omega) (by omega) (by omega) (by omega)]
  simp (disch := omega) only [decodeFields.eq_1, dec01.eq_16, reg_val, ofNat8_val, ofNat4_val, imm13_parts, imm13_fields, imm18_parts, maskOf_small, Option.bind, Option.map, Option.isNone, Fin.is_lt, and_self, true_and, Bool.false_eq_true, if_true, if_false, Nat.zero_mod, Nat.mod_succ, Nat.reduceMod]
  exact legal_of w
theorem mulh : ∀ d a b, Statement (.mulh d a b) := by
  intro d a b w _
  rw [encode, decode_mkWord _ (by omega) (by omega) (by omega) (by omega) (by omega)]
  simp (disch := omega) only [decodeFields.eq_1, dec01.eq_17, reg_val, ofNat8_val, ofNat4_val, imm13_parts, imm13_fields, imm18_parts, maskOf_small, Option.bind, Option.map, Option.isNone, Fin.is_lt, and_self, true_and, Bool.false_eq_true, if_true, if_false, Nat.zero_mod, Nat.mod_succ, Nat.reduceMod]
  exact legal_of w
theorem mulhu : ∀ d a b, Statement (.mulhu d a b) := by
  intro d a b w _
  rw [encode, decode_mkWord _ (by omega) (by omega) (by omega) (by omega) (by omega)]
  simp (disch := omega) only [decodeFields.eq_1, dec01.eq_18, reg_val, ofNat8_val, ofNat4_val, imm13_parts, imm13_fields, imm18_parts, maskOf_small, Option.bind, Option.map, Option.isNone, Fin.is_lt, and_self, true_and, Bool.false_eq_true, if_true, if_false, Nat.zero_mod, Nat.mod_succ, Nat.reduceMod]
  exact legal_of w
theorem mulhsu : ∀ d a b, Statement (.mulhsu d a b) := by
  intro d a b w _
  rw [encode, decode_mkWord _ (by omega) (by omega) (by omega) (by omega) (by omega)]
  simp (disch := omega) only [decodeFields.eq_1, dec01.eq_19, reg_val, ofNat8_val, ofNat4_val, imm13_parts, imm13_fields, imm18_parts, maskOf_small, Option.bind, Option.map, Option.isNone, Fin.is_lt, and_self, true_and, Bool.false_eq_true, if_true, if_false, Nat.zero_mod, Nat.mod_succ, Nat.reduceMod]
  exact legal_of w
theorem div : ∀ d a b, Statement (.div d a b) := by
  intro d a b w _
  rw [encode, decode_mkWord _ (by omega) (by omega) (by omega) (by omega) (by omega)]
  simp (disch := omega) only [decodeFields.eq_1, dec01.eq_20, reg_val, ofNat8_val, ofNat4_val, imm13_parts, imm13_fields, imm18_parts, maskOf_small, Option.bind, Option.map, Option.isNone, Fin.is_lt, and_self, true_and, Bool.false_eq_true, if_true, if_false, Nat.zero_mod, Nat.mod_succ, Nat.reduceMod]
  exact legal_of w
theorem divu : ∀ d a b, Statement (.divu d a b) := by
  intro d a b w _
  rw [encode, decode_mkWord _ (by omega) (by omega) (by omega) (by omega) (by omega)]
  simp (disch := omega) only [decodeFields.eq_1, dec01.eq_21, reg_val, ofNat8_val, ofNat4_val, imm13_parts, imm13_fields, imm18_parts, maskOf_small, Option.bind, Option.map, Option.isNone, Fin.is_lt, and_self, true_and, Bool.false_eq_true, if_true, if_false, Nat.zero_mod, Nat.mod_succ, Nat.reduceMod]
  exact legal_of w
theorem rem : ∀ d a b, Statement (.rem d a b) := by
  intro d a b w _
  rw [encode, decode_mkWord _ (by omega) (by omega) (by omega) (by omega) (by omega)]
  simp (disch := omega) only [decodeFields.eq_1, dec01.eq_22, reg_val, ofNat8_val, ofNat4_val, imm13_parts, imm13_fields, imm18_parts, maskOf_small, Option.bind, Option.map, Option.isNone, Fin.is_lt, and_self, true_and, Bool.false_eq_true, if_true, if_false, Nat.zero_mod, Nat.mod_succ, Nat.reduceMod]
  exact legal_of w
theorem remu : ∀ d a b, Statement (.remu d a b) := by
  intro d a b w _
  rw [encode, decode_mkWord _ (by omega) (by omega) (by omega) (by omega) (by omega)]
  simp (disch := omega) only [decodeFields.eq_1, dec01.eq_23, reg_val, ofNat8_val, ofNat4_val, imm13_parts, imm13_fields, imm18_parts, maskOf_small, Option.bind, Option.map, Option.isNone, Fin.is_lt, and_self, true_and, Bool.false_eq_true, if_true, if_false, Nat.zero_mod, Nat.mod_succ, Nat.reduceMod]
  exact legal_of w
theorem clz : ∀ d a, Statement (.clz d a) := by
  intro d a w _
  rw [encode, decode_mkWord _ (by omega) (by omega) (by omega) (by omega) (by omega)]
  simp (disch := omega) only [decodeFields.eq_1, dec01.eq_24, reg_val, ofNat8_val, ofNat4_val, imm13_parts, imm13_fields, imm18_parts, maskOf_small, Option.bind, Option.map, Option.isNone, Fin.is_lt, and_self, true_and, Bool.false_eq_true, if_true, if_false, Nat.zero_mod, Nat.mod_succ, Nat.reduceMod]
  exact legal_of w
theorem ctz : ∀ d a, Statement (.ctz d a) := by
  intro d a w _
  rw [encode, decode_mkWord _ (by omega) (by omega) (by omega) (by omega) (by omega)]
  simp (disch := omega) only [decodeFields.eq_1, dec01.eq_25, reg_val, ofNat8_val, ofNat4_val, imm13_parts, imm13_fields, imm18_parts, maskOf_small, Option.bind, Option.map, Option.isNone, Fin.is_lt, and_self, true_and, Bool.false_eq_true, if_true, if_false, Nat.zero_mod, Nat.mod_succ, Nat.reduceMod]
  exact legal_of w
theorem cpop : ∀ d a, Statement (.cpop d a) := by
  intro d a w _
  rw [encode, decode_mkWord _ (by omega) (by omega) (by omega) (by omega) (by omega)]
  simp (disch := omega) only [decodeFields.eq_1, dec01.eq_26, reg_val, ofNat8_val, ofNat4_val, imm13_parts, imm13_fields, imm18_parts, maskOf_small, Option.bind, Option.map, Option.isNone, Fin.is_lt, and_self, true_and, Bool.false_eq_true, if_true, if_false, Nat.zero_mod, Nat.mod_succ, Nat.reduceMod]
  exact legal_of w
theorem addi : ∀ d a i, Statement (.addi d a i) := by
  intro d a i w _
  rw [encode, decode_mkWord _ (by omega) (by omega) (by omega) (by omega) (by omega)]
  simp (disch := omega) only [decodeFields.eq_2, reg_val, ofNat8_val, ofNat4_val, imm13_parts, imm13_fields, imm18_parts, maskOf_small, Option.bind, Option.map, Option.isNone, Fin.is_lt, and_self, true_and, Bool.false_eq_true, if_true, if_false, Nat.zero_mod, Nat.mod_succ, Nat.reduceMod]
  exact legal_of w
theorem andi : ∀ d a i, Statement (.andi d a i) := by
  intro d a i w _
  rw [encode, decode_mkWord _ (by omega) (by omega) (by omega) (by omega) (by omega)]
  simp (disch := omega) only [decodeFields.eq_3, reg_val, ofNat8_val, ofNat4_val, imm13_parts, imm13_fields, imm18_parts, maskOf_small, Option.bind, Option.map, Option.isNone, Fin.is_lt, and_self, true_and, Bool.false_eq_true, if_true, if_false, Nat.zero_mod, Nat.mod_succ, Nat.reduceMod]
  exact legal_of w
theorem ori : ∀ d a i, Statement (.ori d a i) := by
  intro d a i w _
  rw [encode, decode_mkWord _ (by omega) (by omega) (by omega) (by omega) (by omega)]
  simp (disch := omega) only [decodeFields.eq_4, reg_val, ofNat8_val, ofNat4_val, imm13_parts, imm13_fields, imm18_parts, maskOf_small, Option.bind, Option.map, Option.isNone, Fin.is_lt, and_self, true_and, Bool.false_eq_true, if_true, if_false, Nat.zero_mod, Nat.mod_succ, Nat.reduceMod]
  exact legal_of w
theorem xori : ∀ d a i, Statement (.xori d a i) := by
  intro d a i w _
  rw [encode, decode_mkWord _ (by omega) (by omega) (by omega) (by omega) (by omega)]
  simp (disch := omega) only [decodeFields.eq_5, reg_val, ofNat8_val, ofNat4_val, imm13_parts, imm13_fields, imm18_parts, maskOf_small, Option.bind, Option.map, Option.isNone, Fin.is_lt, and_self, true_and, Bool.false_eq_true, if_true, if_false, Nat.zero_mod, Nat.mod_succ, Nat.reduceMod]
  exact legal_of w
theorem slti : ∀ d a i, Statement (.slti d a i) := by
  intro d a i w _
  rw [encode, decode_mkWord _ (by omega) (by omega) (by omega) (by omega) (by omega)]
  simp (disch := omega) only [decodeFields.eq_6, reg_val, ofNat8_val, ofNat4_val, imm13_parts, imm13_fields, imm18_parts, maskOf_small, Option.bind, Option.map, Option.isNone, Fin.is_lt, and_self, true_and, Bool.false_eq_true, if_true, if_false, Nat.zero_mod, Nat.mod_succ, Nat.reduceMod]
  exact legal_of w
theorem sltiu : ∀ d a i, Statement (.sltiu d a i) := by
  intro d a i w _
  rw [encode, decode_mkWord _ (by omega) (by omega) (by omega) (by omega) (by omega)]
  simp (disch := omega) only [decodeFields.eq_7, reg_val, ofNat8_val, ofNat4_val, imm13_parts, imm13_fields, imm18_parts, maskOf_small, Option.bind, Option.map, Option.isNone, Fin.is_lt, and_self, true_and, Bool.false_eq_true, if_true, if_false, Nat.zero_mod, Nat.mod_succ, Nat.reduceMod]
  exact legal_of w
theorem shli : ∀ d a n, Statement (.shli d a n) := by
  intro d a n w _
  rw [encode, decode_mkWord _ (by omega) (by omega) (by omega) (by omega) (by omega)]
  have h1 : (0 + n.toNat / 32) / 2 = 0 := by omega
  have h2 : BitVec.ofNat 6 (32 * (0 + n.toNat / 32) + n.toNat % 32) = n := by
    apply BitVec.eq_of_toNat_eq; simp only [BitVec.toNat_ofNat]; omega
  simp (disch := omega) only [decodeFields.eq_8, dec08, h1, h2, reg_val, ofNat8_val, ofNat4_val, imm13_parts, imm13_fields, imm18_parts, maskOf_small, Option.bind, Option.map, Option.isNone, Fin.is_lt, and_self, true_and, Bool.false_eq_true, if_true, if_false, Nat.zero_mod, Nat.mod_succ, Nat.reduceMod]
  exact legal_of w
theorem shri : ∀ d a n, Statement (.shri d a n) := by
  intro d a n w _
  rw [encode, decode_mkWord _ (by omega) (by omega) (by omega) (by omega) (by omega)]
  have h1 : (2 + n.toNat / 32) / 2 = 1 := by omega
  have h2 : BitVec.ofNat 6 (32 * (2 + n.toNat / 32) + n.toNat % 32) = n := by
    apply BitVec.eq_of_toNat_eq; simp only [BitVec.toNat_ofNat]; omega
  simp (disch := omega) only [decodeFields.eq_8, dec08, h1, h2, reg_val, ofNat8_val, ofNat4_val, imm13_parts, imm13_fields, imm18_parts, maskOf_small, Option.bind, Option.map, Option.isNone, Fin.is_lt, and_self, true_and, Bool.false_eq_true, if_true, if_false, Nat.zero_mod, Nat.mod_succ, Nat.reduceMod]
  exact legal_of w
theorem srai : ∀ d a n, Statement (.srai d a n) := by
  intro d a n w _
  rw [encode, decode_mkWord _ (by omega) (by omega) (by omega) (by omega) (by omega)]
  have h1 : (4 + n.toNat / 32) / 2 = 2 := by omega
  have h2 : BitVec.ofNat 6 (32 * (4 + n.toNat / 32) + n.toNat % 32) = n := by
    apply BitVec.eq_of_toNat_eq; simp only [BitVec.toNat_ofNat]; omega
  simp (disch := omega) only [decodeFields.eq_8, dec08, h1, h2, reg_val, ofNat8_val, ofNat4_val, imm13_parts, imm13_fields, imm18_parts, maskOf_small, Option.bind, Option.map, Option.isNone, Fin.is_lt, and_self, true_and, Bool.false_eq_true, if_true, if_false, Nat.zero_mod, Nat.mod_succ, Nat.reduceMod]
  exact legal_of w
theorem lhi : ∀ d i, Statement (.lhi d i) := by
  intro d i w _
  rw [encode, decode_mkWord _ (by omega) (by omega) (by omega) (by omega) (by omega)]
  simp (disch := omega) only [decodeFields.eq_9, reg_val, ofNat8_val, ofNat4_val, imm13_parts, imm13_fields, imm18_parts, maskOf_small, Option.bind, Option.map, Option.isNone, Fin.is_lt, and_self, true_and, Bool.false_eq_true, if_true, if_false, Nat.zero_mod, Nat.mod_succ, Nat.reduceMod]
  exact legal_of w
theorem lpc : ∀ d i, Statement (.lpc d i) := by
  intro d i w _
  rw [encode, decode_mkWord _ (by omega) (by omega) (by omega) (by omega) (by omega)]
  simp (disch := omega) only [decodeFields.eq_10, reg_val, ofNat8_val, ofNat4_val, imm13_parts, imm13_fields, imm18_parts, maskOf_small, Option.bind, Option.map, Option.isNone, Fin.is_lt, and_self, true_and, Bool.false_eq_true, if_true, if_false, Nat.zero_mod, Nat.mod_succ, Nat.reduceMod]
  exact legal_of w
theorem jl : ∀ d i, Statement (.jl d i) := by
  intro d i w _
  rw [encode, decode_mkWord _ (by omega) (by omega) (by omega) (by omega) (by omega)]
  simp (disch := omega) only [decodeFields.eq_11, reg_val, ofNat8_val, ofNat4_val, imm13_parts, imm13_fields, imm18_parts, maskOf_small, Option.bind, Option.map, Option.isNone, Fin.is_lt, and_self, true_and, Bool.false_eq_true, if_true, if_false, Nat.zero_mod, Nat.mod_succ, Nat.reduceMod]
  exact legal_of w
theorem jlr : ∀ d a i, Statement (.jlr d a i) := by
  intro d a i w _
  rw [encode, decode_mkWord _ (by omega) (by omega) (by omega) (by omega) (by omega)]
  simp (disch := omega) only [decodeFields.eq_12, reg_val, ofNat8_val, ofNat4_val, imm13_parts, imm13_fields, imm18_parts, maskOf_small, Option.bind, Option.map, Option.isNone, Fin.is_lt, and_self, true_and, Bool.false_eq_true, if_true, if_false, Nat.zero_mod, Nat.mod_succ, Nat.reduceMod]
  exact legal_of w
theorem beq : ∀ a b i, Statement (.beq a b i) := by
  intro a b i w _
  rw [encode, decode_mkWord _ (by simp only [immF]; omega) (by omega) (by omega) (by simp only [immD]; omega) (by omega)]
  simp (disch := omega) only [decodeFields.eq_13, reg_val, ofNat8_val, ofNat4_val, imm13_parts, imm13_fields, imm18_parts, maskOf_small, Option.bind, Option.map, Option.isNone, Fin.is_lt, and_self, true_and, Bool.false_eq_true, if_true, if_false, Nat.zero_mod, Nat.mod_succ, Nat.reduceMod]
  exact legal_of w
theorem bne : ∀ a b i, Statement (.bne a b i) := by
  intro a b i w _
  rw [encode, decode_mkWord _ (by simp only [immF]; omega) (by omega) (by omega) (by simp only [immD]; omega) (by omega)]
  simp (disch := omega) only [decodeFields.eq_14, reg_val, ofNat8_val, ofNat4_val, imm13_parts, imm13_fields, imm18_parts, maskOf_small, Option.bind, Option.map, Option.isNone, Fin.is_lt, and_self, true_and, Bool.false_eq_true, if_true, if_false, Nat.zero_mod, Nat.mod_succ, Nat.reduceMod]
  exact legal_of w
theorem blt : ∀ a b i, Statement (.blt a b i) := by
  intro a b i w _
  rw [encode, decode_mkWord _ (by simp only [immF]; omega) (by omega) (by omega) (by simp only [immD]; omega) (by omega)]
  simp (disch := omega) only [decodeFields.eq_15, reg_val, ofNat8_val, ofNat4_val, imm13_parts, imm13_fields, imm18_parts, maskOf_small, Option.bind, Option.map, Option.isNone, Fin.is_lt, and_self, true_and, Bool.false_eq_true, if_true, if_false, Nat.zero_mod, Nat.mod_succ, Nat.reduceMod]
  exact legal_of w
theorem bge : ∀ a b i, Statement (.bge a b i) := by
  intro a b i w _
  rw [encode, decode_mkWord _ (by simp only [immF]; omega) (by omega) (by omega) (by simp only [immD]; omega) (by omega)]
  simp (disch := omega) only [decodeFields.eq_16, reg_val, ofNat8_val, ofNat4_val, imm13_parts, imm13_fields, imm18_parts, maskOf_small, Option.bind, Option.map, Option.isNone, Fin.is_lt, and_self, true_and, Bool.false_eq_true, if_true, if_false, Nat.zero_mod, Nat.mod_succ, Nat.reduceMod]
  exact legal_of w
theorem bltu : ∀ a b i, Statement (.bltu a b i) := by
  intro a b i w _
  rw [encode, decode_mkWord _ (by simp only [immF]; omega) (by omega) (by omega) (by simp only [immD]; omega) (by omega)]
  simp (disch := omega) only [decodeFields.eq_17, reg_val, ofNat8_val, ofNat4_val, imm13_parts, imm13_fields, imm18_parts, maskOf_small, Option.bind, Option.map, Option.isNone, Fin.is_lt, and_self, true_and, Bool.false_eq_true, if_true, if_false, Nat.zero_mod, Nat.mod_succ, Nat.reduceMod]
  exact legal_of w
theorem bgeu : ∀ a b i, Statement (.bgeu a b i) := by
  intro a b i w _
  rw [encode, decode_mkWord _ (by simp only [immF]; omega) (by omega) (by omega) (by simp only [immD]; omega) (by omega)]
  simp (disch := omega) only [decodeFields.eq_18, reg_val, ofNat8_val, ofNat4_val, imm13_parts, imm13_fields, imm18_parts, maskOf_small, Option.bind, Option.map, Option.isNone, Fin.is_lt, and_self, true_and, Bool.false_eq_true, if_true, if_false, Nat.zero_mod, Nat.mod_succ, Nat.reduceMod]
  exact legal_of w
theorem ldb : ∀ d a i, Statement (.ldb d a i) := by
  intro d a i w _
  rw [encode, decode_mkWord _ (by omega) (by omega) (by omega) (by omega) (by omega)]
  simp (disch := omega) only [decodeFields.eq_19, reg_val, ofNat8_val, ofNat4_val, imm13_parts, imm13_fields, imm18_parts, maskOf_small, Option.bind, Option.map, Option.isNone, Fin.is_lt, and_self, true_and, Bool.false_eq_true, if_true, if_false, Nat.zero_mod, Nat.mod_succ, Nat.reduceMod]
  exact legal_of w
theorem ldbu : ∀ d a i, Statement (.ldbu d a i) := by
  intro d a i w _
  rw [encode, decode_mkWord _ (by omega) (by omega) (by omega) (by omega) (by omega)]
  simp (disch := omega) only [decodeFields.eq_20, reg_val, ofNat8_val, ofNat4_val, imm13_parts, imm13_fields, imm18_parts, maskOf_small, Option.bind, Option.map, Option.isNone, Fin.is_lt, and_self, true_and, Bool.false_eq_true, if_true, if_false, Nat.zero_mod, Nat.mod_succ, Nat.reduceMod]
  exact legal_of w
theorem ldh : ∀ d a i, Statement (.ldh d a i) := by
  intro d a i w _
  rw [encode, decode_mkWord _ (by omega) (by omega) (by omega) (by omega) (by omega)]
  simp (disch := omega) only [decodeFields.eq_21, reg_val, ofNat8_val, ofNat4_val, imm13_parts, imm13_fields, imm18_parts, maskOf_small, Option.bind, Option.map, Option.isNone, Fin.is_lt, and_self, true_and, Bool.false_eq_true, if_true, if_false, Nat.zero_mod, Nat.mod_succ, Nat.reduceMod]
  exact legal_of w
theorem ldhu : ∀ d a i, Statement (.ldhu d a i) := by
  intro d a i w _
  rw [encode, decode_mkWord _ (by omega) (by omega) (by omega) (by omega) (by omega)]
  simp (disch := omega) only [decodeFields.eq_22, reg_val, ofNat8_val, ofNat4_val, imm13_parts, imm13_fields, imm18_parts, maskOf_small, Option.bind, Option.map, Option.isNone, Fin.is_lt, and_self, true_and, Bool.false_eq_true, if_true, if_false, Nat.zero_mod, Nat.mod_succ, Nat.reduceMod]
  exact legal_of w
theorem ldw : ∀ d a i, Statement (.ldw d a i) := by
  intro d a i w _
  rw [encode, decode_mkWord _ (by omega) (by omega) (by omega) (by omega) (by omega)]
  simp (disch := omega) only [decodeFields.eq_23, reg_val, ofNat8_val, ofNat4_val, imm13_parts, imm13_fields, imm18_parts, maskOf_small, Option.bind, Option.map, Option.isNone, Fin.is_lt, and_self, true_and, Bool.false_eq_true, if_true, if_false, Nat.zero_mod, Nat.mod_succ, Nat.reduceMod]
  exact legal_of w
theorem ldwu : ∀ d a i, Statement (.ldwu d a i) := by
  intro d a i w _
  rw [encode, decode_mkWord _ (by omega) (by omega) (by omega) (by omega) (by omega)]
  simp (disch := omega) only [decodeFields.eq_24, reg_val, ofNat8_val, ofNat4_val, imm13_parts, imm13_fields, imm18_parts, maskOf_small, Option.bind, Option.map, Option.isNone, Fin.is_lt, and_self, true_and, Bool.false_eq_true, if_true, if_false, Nat.zero_mod, Nat.mod_succ, Nat.reduceMod]
  exact legal_of w
theorem ldd : ∀ d a i, Statement (.ldd d a i) := by
  intro d a i w _
  rw [encode, decode_mkWord _ (by omega) (by omega) (by omega) (by omega) (by omega)]
  simp (disch := omega) only [decodeFields.eq_25, reg_val, ofNat8_val, ofNat4_val, imm13_parts, imm13_fields, imm18_parts, maskOf_small, Option.bind, Option.map, Option.isNone, Fin.is_lt, and_self, true_and, Bool.false_eq_true, if_true, if_false, Nat.zero_mod, Nat.mod_succ, Nat.reduceMod]
  exact legal_of w
theorem stb : ∀ b a i, Statement (.stb b a i) := by
  intro b a i w _
  rw [encode, decode_mkWord _ (by simp only [immF]; omega) (by omega) (by omega) (by simp only [immD]; omega) (by omega)]
  simp (disch := omega) only [decodeFields.eq_26, reg_val, ofNat8_val, ofNat4_val, imm13_parts, imm13_fields, imm18_parts, maskOf_small, Option.bind, Option.map, Option.isNone, Fin.is_lt, and_self, true_and, Bool.false_eq_true, if_true, if_false, Nat.zero_mod, Nat.mod_succ, Nat.reduceMod]
  exact legal_of w
theorem sth : ∀ b a i, Statement (.sth b a i) := by
  intro b a i w _
  rw [encode, decode_mkWord _ (by simp only [immF]; omega) (by omega) (by omega) (by simp only [immD]; omega) (by omega)]
  simp (disch := omega) only [decodeFields.eq_27, reg_val, ofNat8_val, ofNat4_val, imm13_parts, imm13_fields, imm18_parts, maskOf_small, Option.bind, Option.map, Option.isNone, Fin.is_lt, and_self, true_and, Bool.false_eq_true, if_true, if_false, Nat.zero_mod, Nat.mod_succ, Nat.reduceMod]
  exact legal_of w
theorem stw : ∀ b a i, Statement (.stw b a i) := by
  intro b a i w _
  rw [encode, decode_mkWord _ (by simp only [immF]; omega) (by omega) (by omega) (by simp only [immD]; omega) (by omega)]
  simp (disch := omega) only [decodeFields.eq_28, reg_val, ofNat8_val, ofNat4_val, imm13_parts, imm13_fields, imm18_parts, maskOf_small, Option.bind, Option.map, Option.isNone, Fin.is_lt, and_self, true_and, Bool.false_eq_true, if_true, if_false, Nat.zero_mod, Nat.mod_succ, Nat.reduceMod]
  exact legal_of w
theorem std : ∀ b a i, Statement (.std b a i) := by
  intro b a i w _
  rw [encode, decode_mkWord _ (by simp only [immF]; omega) (by omega) (by omega) (by simp only [immD]; omega) (by omega)]
  simp (disch := omega) only [decodeFields.eq_29, reg_val, ofNat8_val, ofNat4_val, imm13_parts, imm13_fields, imm18_parts, maskOf_small, Option.bind, Option.map, Option.isNone, Fin.is_lt, and_self, true_and, Bool.false_eq_true, if_true, if_false, Nat.zero_mod, Nat.mod_succ, Nat.reduceMod]
  exact legal_of w
theorem atswap : ∀ d b a wd aq rl, Statement (.atswap d b a wd aq rl) := by
  intro d b a wd aq rl w _
  rw [encode, decode_mkWord _ (by first | omega | (have := Bool.toNat_lt wd; have := Bool.toNat_lt aq; have := Bool.toNat_lt rl; omega)) (by first | omega | (have := Bool.toNat_lt wd; have := Bool.toNat_lt aq; have := Bool.toNat_lt rl; omega)) (by first | omega | (have := Bool.toNat_lt wd; have := Bool.toNat_lt aq; have := Bool.toNat_lt rl; omega)) (by first | omega | (have := Bool.toNat_lt wd; have := Bool.toNat_lt aq; have := Bool.toNat_lt rl; omega)) (by omega)]
  obtain ⟨h1, h2, h3, h4, h5⟩ := atom_fields 0 (by omega) wd aq rl
  simp (disch := omega) only [decodeFields.eq_30, dec1E, h1, h2, h3, h4, h5, reg_val, ofNat8_val, ofNat4_val, imm13_parts, imm13_fields, imm18_parts, maskOf_small, Option.bind, Option.map, Option.isNone, Fin.is_lt, and_self, true_and, Bool.false_eq_true, if_true, if_false, Nat.zero_mod, Nat.mod_succ, Nat.reduceMod]
  exact legal_of w
theorem atadd : ∀ d b a wd aq rl, Statement (.atadd d b a wd aq rl) := by
  intro d b a wd aq rl w _
  rw [encode, decode_mkWord _ (by first | omega | (have := Bool.toNat_lt wd; have := Bool.toNat_lt aq; have := Bool.toNat_lt rl; omega)) (by first | omega | (have := Bool.toNat_lt wd; have := Bool.toNat_lt aq; have := Bool.toNat_lt rl; omega)) (by first | omega | (have := Bool.toNat_lt wd; have := Bool.toNat_lt aq; have := Bool.toNat_lt rl; omega)) (by first | omega | (have := Bool.toNat_lt wd; have := Bool.toNat_lt aq; have := Bool.toNat_lt rl; omega)) (by omega)]
  obtain ⟨h1, h2, h3, h4, h5⟩ := atom_fields 1 (by omega) wd aq rl
  simp (disch := omega) only [decodeFields.eq_30, dec1E, h1, h2, h3, h4, h5, reg_val, ofNat8_val, ofNat4_val, imm13_parts, imm13_fields, imm18_parts, maskOf_small, Option.bind, Option.map, Option.isNone, Fin.is_lt, and_self, true_and, Bool.false_eq_true, if_true, if_false, Nat.zero_mod, Nat.mod_succ, Nat.reduceMod]
  exact legal_of w
theorem atand : ∀ d b a wd aq rl, Statement (.atand d b a wd aq rl) := by
  intro d b a wd aq rl w _
  rw [encode, decode_mkWord _ (by first | omega | (have := Bool.toNat_lt wd; have := Bool.toNat_lt aq; have := Bool.toNat_lt rl; omega)) (by first | omega | (have := Bool.toNat_lt wd; have := Bool.toNat_lt aq; have := Bool.toNat_lt rl; omega)) (by first | omega | (have := Bool.toNat_lt wd; have := Bool.toNat_lt aq; have := Bool.toNat_lt rl; omega)) (by first | omega | (have := Bool.toNat_lt wd; have := Bool.toNat_lt aq; have := Bool.toNat_lt rl; omega)) (by omega)]
  obtain ⟨h1, h2, h3, h4, h5⟩ := atom_fields 2 (by omega) wd aq rl
  simp (disch := omega) only [decodeFields.eq_30, dec1E, h1, h2, h3, h4, h5, reg_val, ofNat8_val, ofNat4_val, imm13_parts, imm13_fields, imm18_parts, maskOf_small, Option.bind, Option.map, Option.isNone, Fin.is_lt, and_self, true_and, Bool.false_eq_true, if_true, if_false, Nat.zero_mod, Nat.mod_succ, Nat.reduceMod]
  exact legal_of w
theorem ator : ∀ d b a wd aq rl, Statement (.ator d b a wd aq rl) := by
  intro d b a wd aq rl w _
  rw [encode, decode_mkWord _ (by first | omega | (have := Bool.toNat_lt wd; have := Bool.toNat_lt aq; have := Bool.toNat_lt rl; omega)) (by first | omega | (have := Bool.toNat_lt wd; have := Bool.toNat_lt aq; have := Bool.toNat_lt rl; omega)) (by first | omega | (have := Bool.toNat_lt wd; have := Bool.toNat_lt aq; have := Bool.toNat_lt rl; omega)) (by first | omega | (have := Bool.toNat_lt wd; have := Bool.toNat_lt aq; have := Bool.toNat_lt rl; omega)) (by omega)]
  obtain ⟨h1, h2, h3, h4, h5⟩ := atom_fields 3 (by omega) wd aq rl
  simp (disch := omega) only [decodeFields.eq_30, dec1E, h1, h2, h3, h4, h5, reg_val, ofNat8_val, ofNat4_val, imm13_parts, imm13_fields, imm18_parts, maskOf_small, Option.bind, Option.map, Option.isNone, Fin.is_lt, and_self, true_and, Bool.false_eq_true, if_true, if_false, Nat.zero_mod, Nat.mod_succ, Nat.reduceMod]
  exact legal_of w
theorem atxor : ∀ d b a wd aq rl, Statement (.atxor d b a wd aq rl) := by
  intro d b a wd aq rl w _
  rw [encode, decode_mkWord _ (by first | omega | (have := Bool.toNat_lt wd; have := Bool.toNat_lt aq; have := Bool.toNat_lt rl; omega)) (by first | omega | (have := Bool.toNat_lt wd; have := Bool.toNat_lt aq; have := Bool.toNat_lt rl; omega)) (by first | omega | (have := Bool.toNat_lt wd; have := Bool.toNat_lt aq; have := Bool.toNat_lt rl; omega)) (by first | omega | (have := Bool.toNat_lt wd; have := Bool.toNat_lt aq; have := Bool.toNat_lt rl; omega)) (by omega)]
  obtain ⟨h1, h2, h3, h4, h5⟩ := atom_fields 4 (by omega) wd aq rl
  simp (disch := omega) only [decodeFields.eq_30, dec1E, h1, h2, h3, h4, h5, reg_val, ofNat8_val, ofNat4_val, imm13_parts, imm13_fields, imm18_parts, maskOf_small, Option.bind, Option.map, Option.isNone, Fin.is_lt, and_self, true_and, Bool.false_eq_true, if_true, if_false, Nat.zero_mod, Nat.mod_succ, Nat.reduceMod]
  exact legal_of w
theorem atmax : ∀ d b a wd aq rl, Statement (.atmax d b a wd aq rl) := by
  intro d b a wd aq rl w _
  rw [encode, decode_mkWord _ (by first | omega | (have := Bool.toNat_lt wd; have := Bool.toNat_lt aq; have := Bool.toNat_lt rl; omega)) (by first | omega | (have := Bool.toNat_lt wd; have := Bool.toNat_lt aq; have := Bool.toNat_lt rl; omega)) (by first | omega | (have := Bool.toNat_lt wd; have := Bool.toNat_lt aq; have := Bool.toNat_lt rl; omega)) (by first | omega | (have := Bool.toNat_lt wd; have := Bool.toNat_lt aq; have := Bool.toNat_lt rl; omega)) (by omega)]
  obtain ⟨h1, h2, h3, h4, h5⟩ := atom_fields 5 (by omega) wd aq rl
  simp (disch := omega) only [decodeFields.eq_30, dec1E, h1, h2, h3, h4, h5, reg_val, ofNat8_val, ofNat4_val, imm13_parts, imm13_fields, imm18_parts, maskOf_small, Option.bind, Option.map, Option.isNone, Fin.is_lt, and_self, true_and, Bool.false_eq_true, if_true, if_false, Nat.zero_mod, Nat.mod_succ, Nat.reduceMod]
  exact legal_of w
theorem atmin : ∀ d b a wd aq rl, Statement (.atmin d b a wd aq rl) := by
  intro d b a wd aq rl w _
  rw [encode, decode_mkWord _ (by first | omega | (have := Bool.toNat_lt wd; have := Bool.toNat_lt aq; have := Bool.toNat_lt rl; omega)) (by first | omega | (have := Bool.toNat_lt wd; have := Bool.toNat_lt aq; have := Bool.toNat_lt rl; omega)) (by first | omega | (have := Bool.toNat_lt wd; have := Bool.toNat_lt aq; have := Bool.toNat_lt rl; omega)) (by first | omega | (have := Bool.toNat_lt wd; have := Bool.toNat_lt aq; have := Bool.toNat_lt rl; omega)) (by omega)]
  obtain ⟨h1, h2, h3, h4, h5⟩ := atom_fields 6 (by omega) wd aq rl
  simp (disch := omega) only [decodeFields.eq_30, dec1E, h1, h2, h3, h4, h5, reg_val, ofNat8_val, ofNat4_val, imm13_parts, imm13_fields, imm18_parts, maskOf_small, Option.bind, Option.map, Option.isNone, Fin.is_lt, and_self, true_and, Bool.false_eq_true, if_true, if_false, Nat.zero_mod, Nat.mod_succ, Nat.reduceMod]
  exact legal_of w
theorem atmaxu : ∀ d b a wd aq rl, Statement (.atmaxu d b a wd aq rl) := by
  intro d b a wd aq rl w _
  rw [encode, decode_mkWord _ (by first | omega | (have := Bool.toNat_lt wd; have := Bool.toNat_lt aq; have := Bool.toNat_lt rl; omega)) (by first | omega | (have := Bool.toNat_lt wd; have := Bool.toNat_lt aq; have := Bool.toNat_lt rl; omega)) (by first | omega | (have := Bool.toNat_lt wd; have := Bool.toNat_lt aq; have := Bool.toNat_lt rl; omega)) (by first | omega | (have := Bool.toNat_lt wd; have := Bool.toNat_lt aq; have := Bool.toNat_lt rl; omega)) (by omega)]
  obtain ⟨h1, h2, h3, h4, h5⟩ := atom_fields 7 (by omega) wd aq rl
  simp (disch := omega) only [decodeFields.eq_30, dec1E, h1, h2, h3, h4, h5, reg_val, ofNat8_val, ofNat4_val, imm13_parts, imm13_fields, imm18_parts, maskOf_small, Option.bind, Option.map, Option.isNone, Fin.is_lt, and_self, true_and, Bool.false_eq_true, if_true, if_false, Nat.zero_mod, Nat.mod_succ, Nat.reduceMod]
  exact legal_of w
theorem atminu : ∀ d b a wd aq rl, Statement (.atminu d b a wd aq rl) := by
  intro d b a wd aq rl w _
  rw [encode, decode_mkWord _ (by first | omega | (have := Bool.toNat_lt wd; have := Bool.toNat_lt aq; have := Bool.toNat_lt rl; omega)) (by first | omega | (have := Bool.toNat_lt wd; have := Bool.toNat_lt aq; have := Bool.toNat_lt rl; omega)) (by first | omega | (have := Bool.toNat_lt wd; have := Bool.toNat_lt aq; have := Bool.toNat_lt rl; omega)) (by first | omega | (have := Bool.toNat_lt wd; have := Bool.toNat_lt aq; have := Bool.toNat_lt rl; omega)) (by omega)]
  obtain ⟨h1, h2, h3, h4, h5⟩ := atom_fields 8 (by omega) wd aq rl
  simp (disch := omega) only [decodeFields.eq_30, dec1E, h1, h2, h3, h4, h5, reg_val, ofNat8_val, ofNat4_val, imm13_parts, imm13_fields, imm18_parts, maskOf_small, Option.bind, Option.map, Option.isNone, Fin.is_lt, and_self, true_and, Bool.false_eq_true, if_true, if_false, Nat.zero_mod, Nat.mod_succ, Nat.reduceMod]
  exact legal_of w
theorem atcas : ∀ d b a wd aq rl, Statement (.atcas d b a wd aq rl) := by
  intro d b a wd aq rl w _
  rw [encode, decode_mkWord _ (by first | omega | (have := Bool.toNat_lt wd; have := Bool.toNat_lt aq; have := Bool.toNat_lt rl; omega)) (by first | omega | (have := Bool.toNat_lt wd; have := Bool.toNat_lt aq; have := Bool.toNat_lt rl; omega)) (by first | omega | (have := Bool.toNat_lt wd; have := Bool.toNat_lt aq; have := Bool.toNat_lt rl; omega)) (by first | omega | (have := Bool.toNat_lt wd; have := Bool.toNat_lt aq; have := Bool.toNat_lt rl; omega)) (by omega)]
  obtain ⟨h1, h2, h3, h4, h5⟩ := atom_fields 9 (by omega) wd aq rl
  simp (disch := omega) only [decodeFields.eq_30, dec1E, h1, h2, h3, h4, h5, reg_val, ofNat8_val, ofNat4_val, imm13_parts, imm13_fields, imm18_parts, maskOf_small, Option.bind, Option.map, Option.isNone, Fin.is_lt, and_self, true_and, Bool.false_eq_true, if_true, if_false, Nat.zero_mod, Nat.mod_succ, Nat.reduceMod]
  exact legal_of w
theorem fencesv : ∀ x, Statement (.fencesv x) := by
  intro x w _
  rw [encode, decode_mkWord _ (by omega) (by omega) (by omega) (by omega) (by omega)]
  simp (disch := omega) only [decodeFields.eq_31, dec1F.eq_1, reg_val, ofNat8_val, ofNat4_val, imm13_parts, imm13_fields, imm18_parts, maskOf_small, Option.bind, Option.map, Option.isNone, Fin.is_lt, and_self, true_and, Bool.false_eq_true, if_true, if_false, Nat.zero_mod, Nat.mod_succ, Nat.reduceMod]
  exact legal_of w
theorem fencevs : ∀ x, Statement (.fencevs x) := by
  intro x w _
  rw [encode, decode_mkWord _ (by omega) (by omega) (by omega) (by omega) (by omega)]
  simp (disch := omega) only [decodeFields.eq_31, dec1F.eq_2, reg_val, ofNat8_val, ofNat4_val, imm13_parts, imm13_fields, imm18_parts, maskOf_small, Option.bind, Option.map, Option.isNone, Fin.is_lt, and_self, true_and, Bool.false_eq_true, if_true, if_false, Nat.zero_mod, Nat.mod_succ, Nat.reduceMod]
  exact legal_of w
theorem fencevv : ∀ x, Statement (.fencevv x) := by
  intro x w _
  rw [encode, decode_mkWord _ (by omega) (by omega) (by omega) (by omega) (by omega)]
  simp (disch := omega) only [decodeFields.eq_31, dec1F.eq_3, reg_val, ofNat8_val, ofNat4_val, imm13_parts, imm13_fields, imm18_parts, maskOf_small, Option.bind, Option.map, Option.isNone, Fin.is_lt, and_self, true_and, Bool.false_eq_true, if_true, if_false, Nat.zero_mod, Nat.mod_succ, Nat.reduceMod]
  exact legal_of w
theorem fenceall : ∀ x, Statement (.fenceall x) := by
  intro x w _
  rw [encode, decode_mkWord _ (by omega) (by omega) (by omega) (by omega) (by omega)]
  simp (disch := omega) only [decodeFields.eq_31, dec1F.eq_4, reg_val, ofNat8_val, ofNat4_val, imm13_parts, imm13_fields, imm18_parts, maskOf_small, Option.bind, Option.map, Option.isNone, Fin.is_lt, and_self, true_and, Bool.false_eq_true, if_true, if_false, Nat.zero_mod, Nat.mod_succ, Nat.reduceMod]
  exact legal_of w
theorem fenceComplete : ∀ x0, Statement (.fenceComplete x0) := by
  intros; exact fun _ h => absurd h (Bool.eq_false_iff.mp rfl)
theorem tfence : Statement .tfence := by
  intro w _
  rw [encode, decode_mkWord _ (by omega) (by omega) (by omega) (by omega) (by omega)]
  simp (disch := omega) only [decodeFields.eq_31, dec1F.eq_5, reg_val, ofNat8_val, ofNat4_val, imm13_parts, imm13_fields, imm18_parts, maskOf_small, Option.bind, Option.map, Option.isNone, Fin.is_lt, and_self, true_and, Bool.false_eq_true, if_true, if_false, Nat.zero_mod, Nat.mod_succ, Nat.reduceMod]
  exact legal_of w
theorem tfenceComplete : ∀ x0, Statement (.tfenceComplete x0) := by
  intros; exact fun _ h => absurd h (Bool.eq_false_iff.mp rfl)
theorem getst : ∀ d x, Statement (.getst d x) := by
  intro d x w _
  rw [encode, decode_mkWord _ (by omega) (by omega) (by omega) (by omega) (by omega)]
  simp (disch := omega) only [decodeFields.eq_31, dec1F.eq_6, reg_val, ofNat8_val, ofNat4_val, imm13_parts, imm13_fields, imm18_parts, maskOf_small, Option.bind, Option.map, Option.isNone, Fin.is_lt, and_self, true_and, Bool.false_eq_true, if_true, if_false, Nat.zero_mod, Nat.mod_succ, Nat.reduceMod]
  exact legal_of w
theorem setst : ∀ x a, Statement (.setst x a) := by
  intro x a w _
  rw [encode, decode_mkWord _ (by omega) (by omega) (by omega) (by omega) (by omega)]
  simp (disch := omega) only [decodeFields.eq_31, dec1F.eq_7, reg_val, ofNat8_val, ofNat4_val, imm13_parts, imm13_fields, imm18_parts, maskOf_small, Option.bind, Option.map, Option.isNone, Fin.is_lt, and_self, true_and, Bool.false_eq_true, if_true, if_false, Nat.zero_mod, Nat.mod_succ, Nat.reduceMod]
  exact legal_of w
theorem trap : ∀ x, Statement (.trap x) := by
  intro x w _
  rw [encode, decode_mkWord _ (by omega) (by omega) (by omega) (by omega) (by omega)]
  simp (disch := omega) only [decodeFields.eq_31, dec1F.eq_8, reg_val, ofNat8_val, ofNat4_val, imm13_parts, imm13_fields, imm18_parts, maskOf_small, Option.bind, Option.map, Option.isNone, Fin.is_lt, and_self, true_and, Bool.false_eq_true, if_true, if_false, Nat.zero_mod, Nat.mod_succ, Nat.reduceMod]
  exact legal_of w
theorem tret : Statement .tret := by
  intro w _
  rw [encode, decode_mkWord _ (by omega) (by omega) (by omega) (by omega) (by omega)]
  simp (disch := omega) only [decodeFields.eq_31, dec1F.eq_9, reg_val, ofNat8_val, ofNat4_val, imm13_parts, imm13_fields, imm18_parts, maskOf_small, Option.bind, Option.map, Option.isNone, Fin.is_lt, and_self, true_and, Bool.false_eq_true, if_true, if_false, Nat.zero_mod, Nat.mod_succ, Nat.reduceMod]
  exact legal_of w
theorem exit : Statement .exit := by
  intro w _
  rw [encode, decode_mkWord _ (by omega) (by omega) (by omega) (by omega) (by omega)]
  simp (disch := omega) only [decodeFields.eq_31, dec1F.eq_10, reg_val, ofNat8_val, ofNat4_val, imm13_parts, imm13_fields, imm18_parts, maskOf_small, Option.bind, Option.map, Option.isNone, Fin.is_lt, and_self, true_and, Bool.false_eq_true, if_true, if_false, Nat.zero_mod, Nat.mod_succ, Nat.reduceMod]
  exact legal_of w
theorem wait : ∀ a, Statement (.wait a) := by
  intro a w _
  rw [encode, decode_mkWord _ (by omega) (by omega) (by omega) (by omega) (by omega)]
  simp (disch := omega) only [decodeFields.eq_31, dec1F.eq_11, reg_val, ofNat8_val, ofNat4_val, imm13_parts, imm13_fields, imm18_parts, maskOf_small, Option.bind, Option.map, Option.isNone, Fin.is_lt, and_self, true_and, Bool.false_eq_true, if_true, if_false, Nat.zero_mod, Nat.mod_succ, Nat.reduceMod]
  exact legal_of w
theorem waitWake : ∀ x0, Statement (.waitWake x0) := by
  intros; exact fun _ h => absurd h (Bool.eq_false_iff.mp rfl)
theorem gear : ∀ x, Statement (.gear x) := by
  intro x w _
  rw [encode, decode_mkWord _ (by omega) (by omega) (by omega) (by omega) (by omega)]
  simp (disch := omega) only [decodeFields.eq_31, dec1F.eq_12, reg_val, ofNat8_val, ofNat4_val, imm13_parts, imm13_fields, imm18_parts, maskOf_small, Option.bind, Option.map, Option.isNone, Fin.is_lt, and_self, true_and, Bool.false_eq_true, if_true, if_false, Nat.zero_mod, Nat.mod_succ, Nat.reduceMod]
  exact legal_of w
theorem qrecv : ∀ d, Statement (.qrecv d) := by
  intro d w _
  rw [encode, decode_mkWord _ (by omega) (by omega) (by omega) (by omega) (by omega)]
  simp (disch := omega) only [decodeFields.eq_31, dec1F.eq_13, reg_val, ofNat8_val, ofNat4_val, imm13_parts, imm13_fields, imm18_parts, maskOf_small, Option.bind, Option.map, Option.isNone, Fin.is_lt, and_self, true_and, Bool.false_eq_true, if_true, if_false, Nat.zero_mod, Nat.mod_succ, Nat.reduceMod]
  exact legal_of w
theorem qrecvWake : ∀ x0, Statement (.qrecvWake x0) := by
  intros; exact fun _ h => absurd h (Bool.eq_false_iff.mp rfl)
theorem spawn : ∀ d a b, Statement (.spawn d a b) := by
  intro d a b w _
  rw [encode, decode_mkWord _ (by omega) (by omega) (by omega) (by omega) (by omega)]
  simp (disch := omega) only [decodeFields.eq_32, dec20.eq_1, reg_val, ofNat8_val, ofNat4_val, imm13_parts, imm13_fields, imm18_parts, maskOf_small, Option.bind, Option.map, Option.isNone, Fin.is_lt, and_self, true_and, Bool.false_eq_true, if_true, if_false, Nat.zero_mod, Nat.mod_succ, Nat.reduceMod]
  exact legal_of w
theorem tget : ∀ d a, Statement (.tget d a) := by
  intro d a w _
  rw [encode, decode_mkWord _ (by omega) (by omega) (by omega) (by omega) (by omega)]
  simp (disch := omega) only [decodeFields.eq_32, dec20.eq_2, reg_val, ofNat8_val, ofNat4_val, imm13_parts, imm13_fields, imm18_parts, maskOf_small, Option.bind, Option.map, Option.isNone, Fin.is_lt, and_self, true_and, Bool.false_eq_true, if_true, if_false, Nat.zero_mod, Nat.mod_succ, Nat.reduceMod]
  exact legal_of w
theorem tgetWake : ∀ x0, Statement (.tgetWake x0) := by
  intros; exact fun _ h => absurd h (Bool.eq_false_iff.mp rfl)
theorem fjoin : ∀ a b, Statement (.fjoin a b) := by
  intro a b w _
  rw [encode, decode_mkWord _ (by omega) (by omega) (by omega) (by omega) (by omega)]
  simp (disch := omega) only [decodeFields.eq_32, dec20.eq_3, reg_val, ofNat8_val, ofNat4_val, imm13_parts, imm13_fields, imm18_parts, maskOf_small, Option.bind, Option.map, Option.isNone, Fin.is_lt, and_self, true_and, Bool.false_eq_true, if_true, if_false, Nat.zero_mod, Nat.mod_succ, Nat.reduceMod]
  exact legal_of w
theorem fres : ∀ a, Statement (.fres a) := by
  intro a w _
  rw [encode, decode_mkWord _ (by omega) (by omega) (by omega) (by omega) (by omega)]
  simp (disch := omega) only [decodeFields.eq_32, dec20.eq_4, reg_val, ofNat8_val, ofNat4_val, imm13_parts, imm13_fields, imm18_parts, maskOf_small, Option.bind, Option.map, Option.isNone, Fin.is_lt, and_self, true_and, Bool.false_eq_true, if_true, if_false, Nat.zero_mod, Nat.mod_succ, Nat.reduceMod]
  exact legal_of w
theorem fpoll : ∀ d a, Statement (.fpoll d a) := by
  intro d a w _
  rw [encode, decode_mkWord _ (by omega) (by omega) (by omega) (by omega) (by omega)]
  simp (disch := omega) only [decodeFields.eq_32, dec20.eq_5, reg_val, ofNat8_val, ofNat4_val, imm13_parts, imm13_fields, imm18_parts, maskOf_small, Option.bind, Option.map, Option.isNone, Fin.is_lt, and_self, true_and, Bool.false_eq_true, if_true, if_false, Nat.zero_mod, Nat.mod_succ, Nat.reduceMod]
  exact legal_of w
theorem bara : ∀ a, Statement (.bara a) := by
  intro a w _
  rw [encode, decode_mkWord _ (by omega) (by omega) (by omega) (by omega) (by omega)]
  simp (disch := omega) only [decodeFields.eq_32, dec20.eq_6, reg_val, ofNat8_val, ofNat4_val, imm13_parts, imm13_fields, imm18_parts, maskOf_small, Option.bind, Option.map, Option.isNone, Fin.is_lt, and_self, true_and, Bool.false_eq_true, if_true, if_false, Nat.zero_mod, Nat.mod_succ, Nat.reduceMod]
  exact legal_of w
theorem barx : ∀ a b, Statement (.barx a b) := by
  intro a b w _
  rw [encode, decode_mkWord _ (by omega) (by omega) (by omega) (by omega) (by omega)]
  simp (disch := omega) only [decodeFields.eq_32, dec20.eq_7, reg_val, ofNat8_val, ofNat4_val, imm13_parts, imm13_fields, imm18_parts, maskOf_small, Option.bind, Option.map, Option.isNone, Fin.is_lt, and_self, true_and, Bool.false_eq_true, if_true, if_false, Nat.zero_mod, Nat.mod_succ, Nat.reduceMod]
  exact legal_of w
theorem barw : ∀ a, Statement (.barw a) := by
  intro a w _
  rw [encode, decode_mkWord _ (by omega) (by omega) (by omega) (by omega) (by omega)]
  simp (disch := omega) only [decodeFields.eq_32, dec20.eq_8, reg_val, ofNat8_val, ofNat4_val, imm13_parts, imm13_fields, imm18_parts, maskOf_small, Option.bind, Option.map, Option.isNone, Fin.is_lt, and_self, true_and, Bool.false_eq_true, if_true, if_false, Nat.zero_mod, Nat.mod_succ, Nat.reduceMod]
  exact legal_of w
theorem barwReturn : ∀ x0, Statement (.barwReturn x0) := by
  intros; exact fun _ h => absurd h (Bool.eq_false_iff.mp rfl)
theorem sbind : ∀ v a, Statement (.sbind v a) := by
  intro v a w _
  rw [encode, decode_mkWord _ (by omega) (by omega) (by omega) (by omega) (by omega)]
  simp (disch := omega) only [decodeFields.eq_33, dec21.eq_1, reg_val, ofNat8_val, ofNat4_val, imm13_parts, imm13_fields, imm18_parts, maskOf_small, Option.bind, Option.map, Option.isNone, Fin.is_lt, and_self, true_and, Bool.false_eq_true, if_true, if_false, Nat.zero_mod, Nat.mod_succ, Nat.reduceMod]
  exact legal_of w
theorem sbindStart : ∀ x0, Statement (.sbindStart x0) := by
  intros; exact fun _ h => absurd h (Bool.eq_false_iff.mp rfl)
theorem sfree : ∀ v, Statement (.sfree v) := by
  intro v w _
  rw [encode, decode_mkWord _ (by omega) (by omega) (by omega) (by omega) (by omega)]
  simp (disch := omega) only [decodeFields.eq_33, dec21.eq_2, reg_val, ofNat8_val, ofNat4_val, imm13_parts, imm13_fields, imm18_parts, maskOf_small, Option.bind, Option.map, Option.isNone, Fin.is_lt, and_self, true_and, Bool.false_eq_true, if_true, if_false, Nat.zero_mod, Nat.mod_succ, Nat.reduceMod]
  exact legal_of w
theorem sfreeAct : ∀ x0, Statement (.sfreeAct x0) := by
  intros; exact fun _ h => absurd h (Bool.eq_false_iff.mp rfl)
theorem sstat : ∀ d v, Statement (.sstat d v) := by
  intro d v w _
  rw [encode, decode_mkWord _ (by omega) (by omega) (by omega) (by omega) (by omega)]
  simp (disch := omega) only [decodeFields.eq_33, dec21.eq_3, reg_val, ofNat8_val, ofNat4_val, imm13_parts, imm13_fields, imm18_parts, maskOf_small, Option.bind, Option.map, Option.isNone, Fin.is_lt, and_self, true_and, Bool.false_eq_true, if_true, if_false, Nat.zero_mod, Nat.mod_succ, Nat.reduceMod]
  exact legal_of w
theorem scopy : ∀ d a b, Statement (.scopy d a b) := by
  intro d a b w _
  rw [encode, decode_mkWord _ (by omega) (by omega) (by omega) (by omega) (by omega)]
  simp (disch := omega) only [decodeFields.eq_33, dec21.eq_4, reg_val, ofNat8_val, ofNat4_val, imm13_parts, imm13_fields, imm18_parts, maskOf_small, Option.bind, Option.map, Option.isNone, Fin.is_lt, and_self, true_and, Bool.false_eq_true, if_true, if_false, Nat.zero_mod, Nat.mod_succ, Nat.reduceMod]
  exact legal_of w
theorem scopyb : ∀ d a b, Statement (.scopyb d a b) := by
  intro d a b w _
  rw [encode, decode_mkWord _ (by omega) (by omega) (by omega) (by omega) (by omega)]
  simp (disch := omega) only [decodeFields.eq_33, dec21.eq_5, reg_val, ofNat8_val, ofNat4_val, imm13_parts, imm13_fields, imm18_parts, maskOf_small, Option.bind, Option.map, Option.isNone, Fin.is_lt, and_self, true_and, Bool.false_eq_true, if_true, if_false, Nat.zero_mod, Nat.mod_succ, Nat.reduceMod]
  exact legal_of w
theorem apx : ∀ k i, Statement (.apx k i) := by
  intro k i w _
  rw [encode, decode_mkWord _ (by omega) (by omega) (by omega) (by omega) (by omega)]
  simp (disch := omega) only [decodeFields.eq_34, dec22.eq_1, reg_val, ofNat8_val, ofNat4_val, imm13_parts, imm13_fields, imm18_parts, maskOf_small, Option.bind, Option.map, Option.isNone, Fin.is_lt, and_self, true_and, Bool.false_eq_true, if_true, if_false, Nat.zero_mod, Nat.mod_succ, Nat.reduceMod]
  exact legal_of w
theorem apxend : ∀ k, Statement (.apxend k) := by
  intro k w _
  rw [encode, decode_mkWord _ (by omega) (by omega) (by omega) (by omega) (by omega)]
  simp (disch := omega) only [decodeFields.eq_34, dec22.eq_2, reg_val, ofNat8_val, ofNat4_val, imm13_parts, imm13_fields, imm18_parts, maskOf_small, Option.bind, Option.map, Option.isNone, Fin.is_lt, and_self, true_and, Bool.false_eq_true, if_true, if_false, Nat.zero_mod, Nat.mod_succ, Nat.reduceMod]
  exact legal_of w
theorem apxinv : ∀ k, Statement (.apxinv k) := by
  intro k w _
  rw [encode, decode_mkWord _ (by omega) (by omega) (by omega) (by omega) (by omega)]
  simp (disch := omega) only [decodeFields.eq_34, dec22.eq_3, reg_val, ofNat8_val, ofNat4_val, imm13_parts, imm13_fields, imm18_parts, maskOf_small, Option.bind, Option.map, Option.isNone, Fin.is_lt, and_self, true_and, Bool.false_eq_true, if_true, if_false, Nat.zero_mod, Nat.mod_succ, Nat.reduceMod]
  exact legal_of w
theorem setvl : ∀ d a t, Statement (.setvl d a t) := by
  intro d a t w _
  rw [encode, decode_mkWord _ (by omega) (by omega) (by omega) (by omega) (by omega)]
  have h1 : t.toNat / 32 < 128 := by omega
  have h2 : BitVec.ofNat 12 (32 * (t.toNat / 32) + t.toNat % 32) = t := by
    apply BitVec.eq_of_toNat_eq; simp only [BitVec.toNat_ofNat]; omega
  simp (disch := omega) only [decodeFields.eq_35, h1, h2, reg_val, ofNat8_val, ofNat4_val, imm13_parts, imm13_fields, imm18_parts, maskOf_small, Option.bind, Option.map, Option.isNone, Fin.is_lt, and_self, true_and, Bool.false_eq_true, if_true, if_false, Nat.zero_mod, Nat.mod_succ, Nat.reduceMod]
  exact legal_of w
theorem setvlg : ∀ d a t, Statement (.setvlg d a t) := by
  intro d a t w _
  rw [encode, decode_mkWord _ (by omega) (by omega) (by omega) (by omega) (by omega)]
  have h1 : ¬ 128 + t.toNat / 32 < 128 := by omega
  have h2 : BitVec.ofNat 12 (32 * (128 + t.toNat / 32 - 128) + t.toNat % 32) = t := by
    apply BitVec.eq_of_toNat_eq; simp only [BitVec.toNat_ofNat]; omega
  simp (disch := omega) only [decodeFields.eq_35, h1, h2, reg_val, ofNat8_val, ofNat4_val, imm13_parts, imm13_fields, imm18_parts, maskOf_small, Option.bind, Option.map, Option.isNone, Fin.is_lt, and_self, true_and, Bool.false_eq_true, if_true, if_false, Nat.zero_mod, Nat.mod_succ, Nat.reduceMod]
  exact legal_of w
theorem setvlr : ∀ d a b, Statement (.setvlr d a b) := by
  intro d a b w _
  rw [encode, decode_mkWord _ (by omega) (by omega) (by omega) (by omega) (by omega)]
  simp (disch := omega) only [decodeFields.eq_36, dec29.eq_1, reg_val, ofNat8_val, ofNat4_val, imm13_parts, imm13_fields, imm18_parts, maskOf_small, Option.bind, Option.map, Option.isNone, Fin.is_lt, and_self, true_and, Bool.false_eq_true, if_true, if_false, Nat.zero_mod, Nat.mod_succ, Nat.reduceMod]
  exact legal_of w
theorem vld : ∀ d a m c, Statement (.vld d a m c) := by
  intro d a m c w _
  rw [encode, decode_mkWord _ (maskF_lt _ (by omega)) (by omega) (by omega) (by omega) (by omega)]
  simp (disch := omega) only [decodeFields.eq_37, dec2A.eq_1, maskF_mod, maskOf_maskF, reg_val, ofNat8_val, ofNat4_val, imm13_parts, imm13_fields, imm18_parts, maskOf_small, Option.bind, Option.map, Option.isNone, Fin.is_lt, and_self, true_and, Bool.false_eq_true, if_true, if_false, Nat.zero_mod, Nat.mod_succ, Nat.reduceMod]
  exact legal_of w
theorem vlds : ∀ d a b m c, Statement (.vlds d a b m c) := by
  intro d a b m c w _
  rw [encode, decode_mkWord _ (maskF_lt _ (by omega)) (by omega) (by omega) (by omega) (by omega)]
  simp (disch := omega) only [decodeFields.eq_37, dec2A.eq_2, maskF_mod, maskOf_maskF, reg_val, ofNat8_val, ofNat4_val, imm13_parts, imm13_fields, imm18_parts, maskOf_small, Option.bind, Option.map, Option.isNone, Fin.is_lt, and_self, true_and, Bool.false_eq_true, if_true, if_false, Nat.zero_mod, Nat.mod_succ, Nat.reduceMod]
  exact legal_of w
theorem vldx : ∀ d a b m c, Statement (.vldx d a b m c) := by
  intro d a b m c w _
  rw [encode, decode_mkWord _ (maskF_lt _ (by omega)) (by omega) (by omega) (by omega) (by omega)]
  simp (disch := omega) only [decodeFields.eq_37, dec2A.eq_3, maskF_mod, maskOf_maskF, reg_val, ofNat8_val, ofNat4_val, imm13_parts, imm13_fields, imm18_parts, maskOf_small, Option.bind, Option.map, Option.isNone, Fin.is_lt, and_self, true_and, Bool.false_eq_true, if_true, if_false, Nat.zero_mod, Nat.mod_succ, Nat.reduceMod]
  exact legal_of w
theorem vldff : ∀ d a m c, Statement (.vldff d a m c) := by
  intro d a m c w _
  rw [encode, decode_mkWord _ (maskF_lt _ (by omega)) (by omega) (by omega) (by omega) (by omega)]
  simp (disch := omega) only [decodeFields.eq_37, dec2A.eq_4, maskF_mod, maskOf_maskF, reg_val, ofNat8_val, ofNat4_val, imm13_parts, imm13_fields, imm18_parts, maskOf_small, Option.bind, Option.map, Option.isNone, Fin.is_lt, and_self, true_and, Bool.false_eq_true, if_true, if_false, Nat.zero_mod, Nat.mod_succ, Nat.reduceMod]
  exact legal_of w
theorem vlseg2 : ∀ d a m c, Statement (.vlseg2 d a m c) := by
  intro d a m c w _
  rw [encode, decode_mkWord _ (maskF_lt _ (by omega)) (by omega) (by omega) (by omega) (by omega)]
  simp (disch := omega) only [decodeFields.eq_37, dec2A.eq_5, maskF_mod, maskOf_maskF, reg_val, ofNat8_val, ofNat4_val, imm13_parts, imm13_fields, imm18_parts, maskOf_small, Option.bind, Option.map, Option.isNone, Fin.is_lt, and_self, true_and, Bool.false_eq_true, if_true, if_false, Nat.zero_mod, Nat.mod_succ, Nat.reduceMod]
  exact legal_of w
theorem vlseg3 : ∀ d a m c, Statement (.vlseg3 d a m c) := by
  intro d a m c w _
  rw [encode, decode_mkWord _ (maskF_lt _ (by omega)) (by omega) (by omega) (by omega) (by omega)]
  simp (disch := omega) only [decodeFields.eq_37, dec2A.eq_6, maskF_mod, maskOf_maskF, reg_val, ofNat8_val, ofNat4_val, imm13_parts, imm13_fields, imm18_parts, maskOf_small, Option.bind, Option.map, Option.isNone, Fin.is_lt, and_self, true_and, Bool.false_eq_true, if_true, if_false, Nat.zero_mod, Nat.mod_succ, Nat.reduceMod]
  exact legal_of w
theorem vlseg4 : ∀ d a m c, Statement (.vlseg4 d a m c) := by
  intro d a m c w _
  rw [encode, decode_mkWord _ (maskF_lt _ (by omega)) (by omega) (by omega) (by omega) (by omega)]
  simp (disch := omega) only [decodeFields.eq_37, dec2A.eq_7, maskF_mod, maskOf_maskF, reg_val, ofNat8_val, ofNat4_val, imm13_parts, imm13_fields, imm18_parts, maskOf_small, Option.bind, Option.map, Option.isNone, Fin.is_lt, and_self, true_and, Bool.false_eq_true, if_true, if_false, Nat.zero_mod, Nat.mod_succ, Nat.reduceMod]
  exact legal_of w
theorem vlseg8 : ∀ d a m c, Statement (.vlseg8 d a m c) := by
  intro d a m c w _
  rw [encode, decode_mkWord _ (maskF_lt _ (by omega)) (by omega) (by omega) (by omega) (by omega)]
  simp (disch := omega) only [decodeFields.eq_37, dec2A.eq_8, maskF_mod, maskOf_maskF, reg_val, ofNat8_val, ofNat4_val, imm13_parts, imm13_fields, imm18_parts, maskOf_small, Option.bind, Option.map, Option.isNone, Fin.is_lt, and_self, true_and, Bool.false_eq_true, if_true, if_false, Nat.zero_mod, Nat.mod_succ, Nat.reduceMod]
  exact legal_of w
theorem mld : ∀ d a c, Statement (.mld d a c) := by
  intro d a c w _
  rw [encode, decode_mkWord _ (by omega) (by omega) (by omega) (by omega) (by omega)]
  simp (disch := omega) only [decodeFields.eq_37, dec2A.eq_9, reg_val, ofNat8_val, ofNat4_val, imm13_parts, imm13_fields, imm18_parts, maskOf_small, Option.bind, Option.map, Option.isNone, Fin.is_lt, and_self, true_and, Bool.false_eq_true, if_true, if_false, Nat.zero_mod, Nat.mod_succ, Nat.reduceMod]
  exact legal_of w
theorem kld : ∀ d a c, Statement (.kld d a c) := by
  intro d a c w _
  rw [encode, decode_mkWord _ (by omega) (by omega) (by omega) (by omega) (by omega)]
  simp (disch := omega) only [decodeFields.eq_37, dec2A.eq_10, reg_val, ofNat8_val, ofNat4_val, imm13_parts, imm13_fields, imm18_parts, maskOf_small, Option.bind, Option.map, Option.isNone, Fin.is_lt, and_self, true_and, Bool.false_eq_true, if_true, if_false, Nat.zero_mod, Nat.mod_succ, Nat.reduceMod]
  exact legal_of w
theorem vst : ∀ d a m c, Statement (.vst d a m c) := by
  intro d a m c w _
  rw [encode, decode_mkWord _ (maskF_lt _ (by omega)) (by omega) (by omega) (by omega) (by omega)]
  simp (disch := omega) only [decodeFields.eq_38, dec2B.eq_1, maskF_mod, maskOf_maskF, reg_val, ofNat8_val, ofNat4_val, imm13_parts, imm13_fields, imm18_parts, maskOf_small, Option.bind, Option.map, Option.isNone, Fin.is_lt, and_self, true_and, Bool.false_eq_true, if_true, if_false, Nat.zero_mod, Nat.mod_succ, Nat.reduceMod]
  exact legal_of w
theorem vsts : ∀ d a b m c, Statement (.vsts d a b m c) := by
  intro d a b m c w _
  rw [encode, decode_mkWord _ (maskF_lt _ (by omega)) (by omega) (by omega) (by omega) (by omega)]
  simp (disch := omega) only [decodeFields.eq_38, dec2B.eq_2, maskF_mod, maskOf_maskF, reg_val, ofNat8_val, ofNat4_val, imm13_parts, imm13_fields, imm18_parts, maskOf_small, Option.bind, Option.map, Option.isNone, Fin.is_lt, and_self, true_and, Bool.false_eq_true, if_true, if_false, Nat.zero_mod, Nat.mod_succ, Nat.reduceMod]
  exact legal_of w
theorem vstx : ∀ d a b m c, Statement (.vstx d a b m c) := by
  intro d a b m c w _
  rw [encode, decode_mkWord _ (maskF_lt _ (by omega)) (by omega) (by omega) (by omega) (by omega)]
  simp (disch := omega) only [decodeFields.eq_38, dec2B.eq_3, maskF_mod, maskOf_maskF, reg_val, ofNat8_val, ofNat4_val, imm13_parts, imm13_fields, imm18_parts, maskOf_small, Option.bind, Option.map, Option.isNone, Fin.is_lt, and_self, true_and, Bool.false_eq_true, if_true, if_false, Nat.zero_mod, Nat.mod_succ, Nat.reduceMod]
  exact legal_of w
theorem vstxo : ∀ d a b m c, Statement (.vstxo d a b m c) := by
  intro d a b m c w _
  rw [encode, decode_mkWord _ (maskF_lt _ (by omega)) (by omega) (by omega) (by omega) (by omega)]
  simp (disch := omega) only [decodeFields.eq_38, dec2B.eq_4, maskF_mod, maskOf_maskF, reg_val, ofNat8_val, ofNat4_val, imm13_parts, imm13_fields, imm18_parts, maskOf_small, Option.bind, Option.map, Option.isNone, Fin.is_lt, and_self, true_and, Bool.false_eq_true, if_true, if_false, Nat.zero_mod, Nat.mod_succ, Nat.reduceMod]
  exact legal_of w
theorem vsseg2 : ∀ d a m c, Statement (.vsseg2 d a m c) := by
  intro d a m c w _
  rw [encode, decode_mkWord _ (maskF_lt _ (by omega)) (by omega) (by omega) (by omega) (by omega)]
  simp (disch := omega) only [decodeFields.eq_38, dec2B.eq_5, maskF_mod, maskOf_maskF, reg_val, ofNat8_val, ofNat4_val, imm13_parts, imm13_fields, imm18_parts, maskOf_small, Option.bind, Option.map, Option.isNone, Fin.is_lt, and_self, true_and, Bool.false_eq_true, if_true, if_false, Nat.zero_mod, Nat.mod_succ, Nat.reduceMod]
  exact legal_of w
theorem vsseg3 : ∀ d a m c, Statement (.vsseg3 d a m c) := by
  intro d a m c w _
  rw [encode, decode_mkWord _ (maskF_lt _ (by omega)) (by omega) (by omega) (by omega) (by omega)]
  simp (disch := omega) only [decodeFields.eq_38, dec2B.eq_6, maskF_mod, maskOf_maskF, reg_val, ofNat8_val, ofNat4_val, imm13_parts, imm13_fields, imm18_parts, maskOf_small, Option.bind, Option.map, Option.isNone, Fin.is_lt, and_self, true_and, Bool.false_eq_true, if_true, if_false, Nat.zero_mod, Nat.mod_succ, Nat.reduceMod]
  exact legal_of w
theorem vsseg4 : ∀ d a m c, Statement (.vsseg4 d a m c) := by
  intro d a m c w _
  rw [encode, decode_mkWord _ (maskF_lt _ (by omega)) (by omega) (by omega) (by omega) (by omega)]
  simp (disch := omega) only [decodeFields.eq_38, dec2B.eq_7, maskF_mod, maskOf_maskF, reg_val, ofNat8_val, ofNat4_val, imm13_parts, imm13_fields, imm18_parts, maskOf_small, Option.bind, Option.map, Option.isNone, Fin.is_lt, and_self, true_and, Bool.false_eq_true, if_true, if_false, Nat.zero_mod, Nat.mod_succ, Nat.reduceMod]
  exact legal_of w
theorem vsseg8 : ∀ d a m c, Statement (.vsseg8 d a m c) := by
  intro d a m c w _
  rw [encode, decode_mkWord _ (maskF_lt _ (by omega)) (by omega) (by omega) (by omega) (by omega)]
  simp (disch := omega) only [decodeFields.eq_38, dec2B.eq_8, maskF_mod, maskOf_maskF, reg_val, ofNat8_val, ofNat4_val, imm13_parts, imm13_fields, imm18_parts, maskOf_small, Option.bind, Option.map, Option.isNone, Fin.is_lt, and_self, true_and, Bool.false_eq_true, if_true, if_false, Nat.zero_mod, Nat.mod_succ, Nat.reduceMod]
  exact legal_of w
theorem mst : ∀ d a c, Statement (.mst d a c) := by
  intro d a c w _
  rw [encode, decode_mkWord _ (by omega) (by omega) (by omega) (by omega) (by omega)]
  simp (disch := omega) only [decodeFields.eq_38, dec2B.eq_9, reg_val, ofNat8_val, ofNat4_val, imm13_parts, imm13_fields, imm18_parts, maskOf_small, Option.bind, Option.map, Option.isNone, Fin.is_lt, and_self, true_and, Bool.false_eq_true, if_true, if_false, Nat.zero_mod, Nat.mod_succ, Nat.reduceMod]
  exact legal_of w
theorem kst : ∀ d a c, Statement (.kst d a c) := by
  intro d a c w _
  rw [encode, decode_mkWord _ (by omega) (by omega) (by omega) (by omega) (by omega)]
  simp (disch := omega) only [decodeFields.eq_38, dec2B.eq_10, reg_val, ofNat8_val, ofNat4_val, imm13_parts, imm13_fields, imm18_parts, maskOf_small, Option.bind, Option.map, Option.isNone, Fin.is_lt, and_self, true_and, Bool.false_eq_true, if_true, if_false, Nat.zero_mod, Nat.mod_succ, Nat.reduceMod]
  exact legal_of w
theorem vaddVv : ∀ d a b m c, Statement (.vaddVv d a b m c) := by
  intro d a b m c w _
  rw [encode, decode_mkWord _ (maskF_lt _ (by omega)) (by omega) (by omega) (by omega) (by omega)]
  simp (disch := omega) only [decodeFields.eq_39, dec2C.eq_1, maskF_mod, maskOf_maskF, reg_val, ofNat8_val, ofNat4_val, imm13_parts, imm13_fields, imm18_parts, maskOf_small, Option.bind, Option.map, Option.isNone, Fin.is_lt, and_self, true_and, Bool.false_eq_true, if_true, if_false, Nat.zero_mod, Nat.mod_succ, Nat.reduceMod]
  exact legal_of w
theorem vsubVv : ∀ d a b m c, Statement (.vsubVv d a b m c) := by
  intro d a b m c w _
  rw [encode, decode_mkWord _ (maskF_lt _ (by omega)) (by omega) (by omega) (by omega) (by omega)]
  simp (disch := omega) only [decodeFields.eq_39, dec2C.eq_2, maskF_mod, maskOf_maskF, reg_val, ofNat8_val, ofNat4_val, imm13_parts, imm13_fields, imm18_parts, maskOf_small, Option.bind, Option.map, Option.isNone, Fin.is_lt, and_self, true_and, Bool.false_eq_true, if_true, if_false, Nat.zero_mod, Nat.mod_succ, Nat.reduceMod]
  exact legal_of w
theorem vrsubVv : ∀ d a b m c, Statement (.vrsubVv d a b m c) := by
  intro d a b m c w _
  rw [encode, decode_mkWord _ (maskF_lt _ (by omega)) (by omega) (by omega) (by omega) (by omega)]
  simp (disch := omega) only [decodeFields.eq_39, dec2C.eq_3, maskF_mod, maskOf_maskF, reg_val, ofNat8_val, ofNat4_val, imm13_parts, imm13_fields, imm18_parts, maskOf_small, Option.bind, Option.map, Option.isNone, Fin.is_lt, and_self, true_and, Bool.false_eq_true, if_true, if_false, Nat.zero_mod, Nat.mod_succ, Nat.reduceMod]
  exact legal_of w
theorem vandVv : ∀ d a b m c, Statement (.vandVv d a b m c) := by
  intro d a b m c w _
  rw [encode, decode_mkWord _ (maskF_lt _ (by omega)) (by omega) (by omega) (by omega) (by omega)]
  simp (disch := omega) only [decodeFields.eq_39, dec2C.eq_4, maskF_mod, maskOf_maskF, reg_val, ofNat8_val, ofNat4_val, imm13_parts, imm13_fields, imm18_parts, maskOf_small, Option.bind, Option.map, Option.isNone, Fin.is_lt, and_self, true_and, Bool.false_eq_true, if_true, if_false, Nat.zero_mod, Nat.mod_succ, Nat.reduceMod]
  exact legal_of w
theorem vorVv : ∀ d a b m c, Statement (.vorVv d a b m c) := by
  intro d a b m c w _
  rw [encode, decode_mkWord _ (maskF_lt _ (by omega)) (by omega) (by omega) (by omega) (by omega)]
  simp (disch := omega) only [decodeFields.eq_39, dec2C.eq_5, maskF_mod, maskOf_maskF, reg_val, ofNat8_val, ofNat4_val, imm13_parts, imm13_fields, imm18_parts, maskOf_small, Option.bind, Option.map, Option.isNone, Fin.is_lt, and_self, true_and, Bool.false_eq_true, if_true, if_false, Nat.zero_mod, Nat.mod_succ, Nat.reduceMod]
  exact legal_of w
theorem vxorVv : ∀ d a b m c, Statement (.vxorVv d a b m c) := by
  intro d a b m c w _
  rw [encode, decode_mkWord _ (maskF_lt _ (by omega)) (by omega) (by omega) (by omega) (by omega)]
  simp (disch := omega) only [decodeFields.eq_39, dec2C.eq_6, maskF_mod, maskOf_maskF, reg_val, ofNat8_val, ofNat4_val, imm13_parts, imm13_fields, imm18_parts, maskOf_small, Option.bind, Option.map, Option.isNone, Fin.is_lt, and_self, true_and, Bool.false_eq_true, if_true, if_false, Nat.zero_mod, Nat.mod_succ, Nat.reduceMod]
  exact legal_of w
theorem vsllVv : ∀ d a b m c, Statement (.vsllVv d a b m c) := by
  intro d a b m c w _
  rw [encode, decode_mkWord _ (maskF_lt _ (by omega)) (by omega) (by omega) (by omega) (by omega)]
  simp (disch := omega) only [decodeFields.eq_39, dec2C.eq_7, maskF_mod, maskOf_maskF, reg_val, ofNat8_val, ofNat4_val, imm13_parts, imm13_fields, imm18_parts, maskOf_small, Option.bind, Option.map, Option.isNone, Fin.is_lt, and_self, true_and, Bool.false_eq_true, if_true, if_false, Nat.zero_mod, Nat.mod_succ, Nat.reduceMod]
  exact legal_of w
theorem vsrlVv : ∀ d a b m c, Statement (.vsrlVv d a b m c) := by
  intro d a b m c w _
  rw [encode, decode_mkWord _ (maskF_lt _ (by omega)) (by omega) (by omega) (by omega) (by omega)]
  simp (disch := omega) only [decodeFields.eq_39, dec2C.eq_8, maskF_mod, maskOf_maskF, reg_val, ofNat8_val, ofNat4_val, imm13_parts, imm13_fields, imm18_parts, maskOf_small, Option.bind, Option.map, Option.isNone, Fin.is_lt, and_self, true_and, Bool.false_eq_true, if_true, if_false, Nat.zero_mod, Nat.mod_succ, Nat.reduceMod]
  exact legal_of w
theorem vsraVv : ∀ d a b m c, Statement (.vsraVv d a b m c) := by
  intro d a b m c w _
  rw [encode, decode_mkWord _ (maskF_lt _ (by omega)) (by omega) (by omega) (by omega) (by omega)]
  simp (disch := omega) only [decodeFields.eq_39, dec2C.eq_9, maskF_mod, maskOf_maskF, reg_val, ofNat8_val, ofNat4_val, imm13_parts, imm13_fields, imm18_parts, maskOf_small, Option.bind, Option.map, Option.isNone, Fin.is_lt, and_self, true_and, Bool.false_eq_true, if_true, if_false, Nat.zero_mod, Nat.mod_succ, Nat.reduceMod]
  exact legal_of w
theorem vminVv : ∀ d a b m c, Statement (.vminVv d a b m c) := by
  intro d a b m c w _
  rw [encode, decode_mkWord _ (maskF_lt _ (by omega)) (by omega) (by omega) (by omega) (by omega)]
  simp (disch := omega) only [decodeFields.eq_39, dec2C.eq_10, maskF_mod, maskOf_maskF, reg_val, ofNat8_val, ofNat4_val, imm13_parts, imm13_fields, imm18_parts, maskOf_small, Option.bind, Option.map, Option.isNone, Fin.is_lt, and_self, true_and, Bool.false_eq_true, if_true, if_false, Nat.zero_mod, Nat.mod_succ, Nat.reduceMod]
  exact legal_of w
theorem vmaxVv : ∀ d a b m c, Statement (.vmaxVv d a b m c) := by
  intro d a b m c w _
  rw [encode, decode_mkWord _ (maskF_lt _ (by omega)) (by omega) (by omega) (by omega) (by omega)]
  simp (disch := omega) only [decodeFields.eq_39, dec2C.eq_11, maskF_mod, maskOf_maskF, reg_val, ofNat8_val, ofNat4_val, imm13_parts, imm13_fields, imm18_parts, maskOf_small, Option.bind, Option.map, Option.isNone, Fin.is_lt, and_self, true_and, Bool.false_eq_true, if_true, if_false, Nat.zero_mod, Nat.mod_succ, Nat.reduceMod]
  exact legal_of w
theorem vminuVv : ∀ d a b m c, Statement (.vminuVv d a b m c) := by
  intro d a b m c w _
  rw [encode, decode_mkWord _ (maskF_lt _ (by omega)) (by omega) (by omega) (by omega) (by omega)]
  simp (disch := omega) only [decodeFields.eq_39, dec2C.eq_12, maskF_mod, maskOf_maskF, reg_val, ofNat8_val, ofNat4_val, imm13_parts, imm13_fields, imm18_parts, maskOf_small, Option.bind, Option.map, Option.isNone, Fin.is_lt, and_self, true_and, Bool.false_eq_true, if_true, if_false, Nat.zero_mod, Nat.mod_succ, Nat.reduceMod]
  exact legal_of w
theorem vmaxuVv : ∀ d a b m c, Statement (.vmaxuVv d a b m c) := by
  intro d a b m c w _
  rw [encode, decode_mkWord _ (maskF_lt _ (by omega)) (by omega) (by omega) (by omega) (by omega)]
  simp (disch := omega) only [decodeFields.eq_39, dec2C.eq_13, maskF_mod, maskOf_maskF, reg_val, ofNat8_val, ofNat4_val, imm13_parts, imm13_fields, imm18_parts, maskOf_small, Option.bind, Option.map, Option.isNone, Fin.is_lt, and_self, true_and, Bool.false_eq_true, if_true, if_false, Nat.zero_mod, Nat.mod_succ, Nat.reduceMod]
  exact legal_of w
theorem vmulVv : ∀ d a b m c, Statement (.vmulVv d a b m c) := by
  intro d a b m c w _
  rw [encode, decode_mkWord _ (maskF_lt _ (by omega)) (by omega) (by omega) (by omega) (by omega)]
  simp (disch := omega) only [decodeFields.eq_39, dec2C.eq_14, maskF_mod, maskOf_maskF, reg_val, ofNat8_val, ofNat4_val, imm13_parts, imm13_fields, imm18_parts, maskOf_small, Option.bind, Option.map, Option.isNone, Fin.is_lt, and_self, true_and, Bool.false_eq_true, if_true, if_false, Nat.zero_mod, Nat.mod_succ, Nat.reduceMod]
  exact legal_of w
theorem vmulhVv : ∀ d a b m c, Statement (.vmulhVv d a b m c) := by
  intro d a b m c w _
  rw [encode, decode_mkWord _ (maskF_lt _ (by omega)) (by omega) (by omega) (by omega) (by omega)]
  simp (disch := omega) only [decodeFields.eq_39, dec2C.eq_15, maskF_mod, maskOf_maskF, reg_val, ofNat8_val, ofNat4_val, imm13_parts, imm13_fields, imm18_parts, maskOf_small, Option.bind, Option.map, Option.isNone, Fin.is_lt, and_self, true_and, Bool.false_eq_true, if_true, if_false, Nat.zero_mod, Nat.mod_succ, Nat.reduceMod]
  exact legal_of w
theorem vmergeVv : ∀ d a b m c, Statement (.vmergeVv d a b m c) := by
  intro d a b m c w _
  rw [encode, decode_mkWord _ (maskF_lt _ (by omega)) (by omega) (by omega) (by omega) (by omega)]
  simp (disch := omega) only [decodeFields.eq_39, dec2C.eq_16, maskF_mod, maskOf_maskF, reg_val, ofNat8_val, ofNat4_val, imm13_parts, imm13_fields, imm18_parts, maskOf_small, Option.bind, Option.map, Option.isNone, Fin.is_lt, and_self, true_and, Bool.false_eq_true, if_true, if_false, Nat.zero_mod, Nat.mod_succ, Nat.reduceMod]
  exact legal_of w
theorem vaddVx : ∀ d a b m c, Statement (.vaddVx d a b m c) := by
  intro d a b m c w _
  rw [encode, decode_mkWord _ (maskF_lt _ (by omega)) (by omega) (by omega) (by omega) (by omega)]
  simp (disch := omega) only [decodeFields.eq_40, dec2D.eq_1, maskF_mod, maskOf_maskF, reg_val, ofNat8_val, ofNat4_val, imm13_parts, imm13_fields, imm18_parts, maskOf_small, Option.bind, Option.map, Option.isNone, Fin.is_lt, and_self, true_and, Bool.false_eq_true, if_true, if_false, Nat.zero_mod, Nat.mod_succ, Nat.reduceMod]
  exact legal_of w
theorem vsubVx : ∀ d a b m c, Statement (.vsubVx d a b m c) := by
  intro d a b m c w _
  rw [encode, decode_mkWord _ (maskF_lt _ (by omega)) (by omega) (by omega) (by omega) (by omega)]
  simp (disch := omega) only [decodeFields.eq_40, dec2D.eq_2, maskF_mod, maskOf_maskF, reg_val, ofNat8_val, ofNat4_val, imm13_parts, imm13_fields, imm18_parts, maskOf_small, Option.bind, Option.map, Option.isNone, Fin.is_lt, and_self, true_and, Bool.false_eq_true, if_true, if_false, Nat.zero_mod, Nat.mod_succ, Nat.reduceMod]
  exact legal_of w
theorem vrsubVx : ∀ d a b m c, Statement (.vrsubVx d a b m c) := by
  intro d a b m c w _
  rw [encode, decode_mkWord _ (maskF_lt _ (by omega)) (by omega) (by omega) (by omega) (by omega)]
  simp (disch := omega) only [decodeFields.eq_40, dec2D.eq_3, maskF_mod, maskOf_maskF, reg_val, ofNat8_val, ofNat4_val, imm13_parts, imm13_fields, imm18_parts, maskOf_small, Option.bind, Option.map, Option.isNone, Fin.is_lt, and_self, true_and, Bool.false_eq_true, if_true, if_false, Nat.zero_mod, Nat.mod_succ, Nat.reduceMod]
  exact legal_of w
theorem vandVx : ∀ d a b m c, Statement (.vandVx d a b m c) := by
  intro d a b m c w _
  rw [encode, decode_mkWord _ (maskF_lt _ (by omega)) (by omega) (by omega) (by omega) (by omega)]
  simp (disch := omega) only [decodeFields.eq_40, dec2D.eq_4, maskF_mod, maskOf_maskF, reg_val, ofNat8_val, ofNat4_val, imm13_parts, imm13_fields, imm18_parts, maskOf_small, Option.bind, Option.map, Option.isNone, Fin.is_lt, and_self, true_and, Bool.false_eq_true, if_true, if_false, Nat.zero_mod, Nat.mod_succ, Nat.reduceMod]
  exact legal_of w
theorem vorVx : ∀ d a b m c, Statement (.vorVx d a b m c) := by
  intro d a b m c w _
  rw [encode, decode_mkWord _ (maskF_lt _ (by omega)) (by omega) (by omega) (by omega) (by omega)]
  simp (disch := omega) only [decodeFields.eq_40, dec2D.eq_5, maskF_mod, maskOf_maskF, reg_val, ofNat8_val, ofNat4_val, imm13_parts, imm13_fields, imm18_parts, maskOf_small, Option.bind, Option.map, Option.isNone, Fin.is_lt, and_self, true_and, Bool.false_eq_true, if_true, if_false, Nat.zero_mod, Nat.mod_succ, Nat.reduceMod]
  exact legal_of w
theorem vxorVx : ∀ d a b m c, Statement (.vxorVx d a b m c) := by
  intro d a b m c w _
  rw [encode, decode_mkWord _ (maskF_lt _ (by omega)) (by omega) (by omega) (by omega) (by omega)]
  simp (disch := omega) only [decodeFields.eq_40, dec2D.eq_6, maskF_mod, maskOf_maskF, reg_val, ofNat8_val, ofNat4_val, imm13_parts, imm13_fields, imm18_parts, maskOf_small, Option.bind, Option.map, Option.isNone, Fin.is_lt, and_self, true_and, Bool.false_eq_true, if_true, if_false, Nat.zero_mod, Nat.mod_succ, Nat.reduceMod]
  exact legal_of w
theorem vsllVx : ∀ d a b m c, Statement (.vsllVx d a b m c) := by
  intro d a b m c w _
  rw [encode, decode_mkWord _ (maskF_lt _ (by omega)) (by omega) (by omega) (by omega) (by omega)]
  simp (disch := omega) only [decodeFields.eq_40, dec2D.eq_7, maskF_mod, maskOf_maskF, reg_val, ofNat8_val, ofNat4_val, imm13_parts, imm13_fields, imm18_parts, maskOf_small, Option.bind, Option.map, Option.isNone, Fin.is_lt, and_self, true_and, Bool.false_eq_true, if_true, if_false, Nat.zero_mod, Nat.mod_succ, Nat.reduceMod]
  exact legal_of w
theorem vsrlVx : ∀ d a b m c, Statement (.vsrlVx d a b m c) := by
  intro d a b m c w _
  rw [encode, decode_mkWord _ (maskF_lt _ (by omega)) (by omega) (by omega) (by omega) (by omega)]
  simp (disch := omega) only [decodeFields.eq_40, dec2D.eq_8, maskF_mod, maskOf_maskF, reg_val, ofNat8_val, ofNat4_val, imm13_parts, imm13_fields, imm18_parts, maskOf_small, Option.bind, Option.map, Option.isNone, Fin.is_lt, and_self, true_and, Bool.false_eq_true, if_true, if_false, Nat.zero_mod, Nat.mod_succ, Nat.reduceMod]
  exact legal_of w
theorem vsraVx : ∀ d a b m c, Statement (.vsraVx d a b m c) := by
  intro d a b m c w _
  rw [encode, decode_mkWord _ (maskF_lt _ (by omega)) (by omega) (by omega) (by omega) (by omega)]
  simp (disch := omega) only [decodeFields.eq_40, dec2D.eq_9, maskF_mod, maskOf_maskF, reg_val, ofNat8_val, ofNat4_val, imm13_parts, imm13_fields, imm18_parts, maskOf_small, Option.bind, Option.map, Option.isNone, Fin.is_lt, and_self, true_and, Bool.false_eq_true, if_true, if_false, Nat.zero_mod, Nat.mod_succ, Nat.reduceMod]
  exact legal_of w
theorem vminVx : ∀ d a b m c, Statement (.vminVx d a b m c) := by
  intro d a b m c w _
  rw [encode, decode_mkWord _ (maskF_lt _ (by omega)) (by omega) (by omega) (by omega) (by omega)]
  simp (disch := omega) only [decodeFields.eq_40, dec2D.eq_10, maskF_mod, maskOf_maskF, reg_val, ofNat8_val, ofNat4_val, imm13_parts, imm13_fields, imm18_parts, maskOf_small, Option.bind, Option.map, Option.isNone, Fin.is_lt, and_self, true_and, Bool.false_eq_true, if_true, if_false, Nat.zero_mod, Nat.mod_succ, Nat.reduceMod]
  exact legal_of w
theorem vmaxVx : ∀ d a b m c, Statement (.vmaxVx d a b m c) := by
  intro d a b m c w _
  rw [encode, decode_mkWord _ (maskF_lt _ (by omega)) (by omega) (by omega) (by omega) (by omega)]
  simp (disch := omega) only [decodeFields.eq_40, dec2D.eq_11, maskF_mod, maskOf_maskF, reg_val, ofNat8_val, ofNat4_val, imm13_parts, imm13_fields, imm18_parts, maskOf_small, Option.bind, Option.map, Option.isNone, Fin.is_lt, and_self, true_and, Bool.false_eq_true, if_true, if_false, Nat.zero_mod, Nat.mod_succ, Nat.reduceMod]
  exact legal_of w
theorem vminuVx : ∀ d a b m c, Statement (.vminuVx d a b m c) := by
  intro d a b m c w _
  rw [encode, decode_mkWord _ (maskF_lt _ (by omega)) (by omega) (by omega) (by omega) (by omega)]
  simp (disch := omega) only [decodeFields.eq_40, dec2D.eq_12, maskF_mod, maskOf_maskF, reg_val, ofNat8_val, ofNat4_val, imm13_parts, imm13_fields, imm18_parts, maskOf_small, Option.bind, Option.map, Option.isNone, Fin.is_lt, and_self, true_and, Bool.false_eq_true, if_true, if_false, Nat.zero_mod, Nat.mod_succ, Nat.reduceMod]
  exact legal_of w
theorem vmaxuVx : ∀ d a b m c, Statement (.vmaxuVx d a b m c) := by
  intro d a b m c w _
  rw [encode, decode_mkWord _ (maskF_lt _ (by omega)) (by omega) (by omega) (by omega) (by omega)]
  simp (disch := omega) only [decodeFields.eq_40, dec2D.eq_13, maskF_mod, maskOf_maskF, reg_val, ofNat8_val, ofNat4_val, imm13_parts, imm13_fields, imm18_parts, maskOf_small, Option.bind, Option.map, Option.isNone, Fin.is_lt, and_self, true_and, Bool.false_eq_true, if_true, if_false, Nat.zero_mod, Nat.mod_succ, Nat.reduceMod]
  exact legal_of w
theorem vmulVx : ∀ d a b m c, Statement (.vmulVx d a b m c) := by
  intro d a b m c w _
  rw [encode, decode_mkWord _ (maskF_lt _ (by omega)) (by omega) (by omega) (by omega) (by omega)]
  simp (disch := omega) only [decodeFields.eq_40, dec2D.eq_14, maskF_mod, maskOf_maskF, reg_val, ofNat8_val, ofNat4_val, imm13_parts, imm13_fields, imm18_parts, maskOf_small, Option.bind, Option.map, Option.isNone, Fin.is_lt, and_self, true_and, Bool.false_eq_true, if_true, if_false, Nat.zero_mod, Nat.mod_succ, Nat.reduceMod]
  exact legal_of w
theorem vmulhVx : ∀ d a b m c, Statement (.vmulhVx d a b m c) := by
  intro d a b m c w _
  rw [encode, decode_mkWord _ (maskF_lt _ (by omega)) (by omega) (by omega) (by omega) (by omega)]
  simp (disch := omega) only [decodeFields.eq_40, dec2D.eq_15, maskF_mod, maskOf_maskF, reg_val, ofNat8_val, ofNat4_val, imm13_parts, imm13_fields, imm18_parts, maskOf_small, Option.bind, Option.map, Option.isNone, Fin.is_lt, and_self, true_and, Bool.false_eq_true, if_true, if_false, Nat.zero_mod, Nat.mod_succ, Nat.reduceMod]
  exact legal_of w
theorem vmergeVx : ∀ d a b m c, Statement (.vmergeVx d a b m c) := by
  intro d a b m c w _
  rw [encode, decode_mkWord _ (maskF_lt _ (by omega)) (by omega) (by omega) (by omega) (by omega)]
  simp (disch := omega) only [decodeFields.eq_40, dec2D.eq_16, maskF_mod, maskOf_maskF, reg_val, ofNat8_val, ofNat4_val, imm13_parts, imm13_fields, imm18_parts, maskOf_small, Option.bind, Option.map, Option.isNone, Fin.is_lt, and_self, true_and, Bool.false_eq_true, if_true, if_false, Nat.zero_mod, Nat.mod_succ, Nat.reduceMod]
  exact legal_of w
theorem vaddVi : ∀ d a i m c, Statement (.vaddVi d a i m c) := by
  intro d a i m c w _
  rw [encode, decode_mkWord _ (maskF_lt _ (by omega)) (by omega) (by omega) (by omega) (by omega)]
  simp (disch := omega) only [decodeFields.eq_41, dec2E.eq_1, maskF_mod, maskOf_maskF, BitVec.ofNat_toNat, BitVec.setWidth_eq, reg_val, ofNat8_val, ofNat4_val, imm13_parts, imm13_fields, imm18_parts, maskOf_small, Option.bind, Option.map, Option.isNone, Fin.is_lt, and_self, true_and, Bool.false_eq_true, if_true, if_false, Nat.zero_mod, Nat.mod_succ, Nat.reduceMod]
  exact legal_of w
theorem vsubVi : ∀ d a i m c, Statement (.vsubVi d a i m c) := by
  intro d a i m c w _
  rw [encode, decode_mkWord _ (maskF_lt _ (by omega)) (by omega) (by omega) (by omega) (by omega)]
  simp (disch := omega) only [decodeFields.eq_41, dec2E.eq_2, maskF_mod, maskOf_maskF, BitVec.ofNat_toNat, BitVec.setWidth_eq, reg_val, ofNat8_val, ofNat4_val, imm13_parts, imm13_fields, imm18_parts, maskOf_small, Option.bind, Option.map, Option.isNone, Fin.is_lt, and_self, true_and, Bool.false_eq_true, if_true, if_false, Nat.zero_mod, Nat.mod_succ, Nat.reduceMod]
  exact legal_of w
theorem vrsubVi : ∀ d a i m c, Statement (.vrsubVi d a i m c) := by
  intro d a i m c w _
  rw [encode, decode_mkWord _ (maskF_lt _ (by omega)) (by omega) (by omega) (by omega) (by omega)]
  simp (disch := omega) only [decodeFields.eq_41, dec2E.eq_3, maskF_mod, maskOf_maskF, BitVec.ofNat_toNat, BitVec.setWidth_eq, reg_val, ofNat8_val, ofNat4_val, imm13_parts, imm13_fields, imm18_parts, maskOf_small, Option.bind, Option.map, Option.isNone, Fin.is_lt, and_self, true_and, Bool.false_eq_true, if_true, if_false, Nat.zero_mod, Nat.mod_succ, Nat.reduceMod]
  exact legal_of w
theorem vandVi : ∀ d a i m c, Statement (.vandVi d a i m c) := by
  intro d a i m c w _
  rw [encode, decode_mkWord _ (maskF_lt _ (by omega)) (by omega) (by omega) (by omega) (by omega)]
  simp (disch := omega) only [decodeFields.eq_41, dec2E.eq_4, maskF_mod, maskOf_maskF, BitVec.ofNat_toNat, BitVec.setWidth_eq, reg_val, ofNat8_val, ofNat4_val, imm13_parts, imm13_fields, imm18_parts, maskOf_small, Option.bind, Option.map, Option.isNone, Fin.is_lt, and_self, true_and, Bool.false_eq_true, if_true, if_false, Nat.zero_mod, Nat.mod_succ, Nat.reduceMod]
  exact legal_of w
theorem vorVi : ∀ d a i m c, Statement (.vorVi d a i m c) := by
  intro d a i m c w _
  rw [encode, decode_mkWord _ (maskF_lt _ (by omega)) (by omega) (by omega) (by omega) (by omega)]
  simp (disch := omega) only [decodeFields.eq_41, dec2E.eq_5, maskF_mod, maskOf_maskF, BitVec.ofNat_toNat, BitVec.setWidth_eq, reg_val, ofNat8_val, ofNat4_val, imm13_parts, imm13_fields, imm18_parts, maskOf_small, Option.bind, Option.map, Option.isNone, Fin.is_lt, and_self, true_and, Bool.false_eq_true, if_true, if_false, Nat.zero_mod, Nat.mod_succ, Nat.reduceMod]
  exact legal_of w
theorem vxorVi : ∀ d a i m c, Statement (.vxorVi d a i m c) := by
  intro d a i m c w _
  rw [encode, decode_mkWord _ (maskF_lt _ (by omega)) (by omega) (by omega) (by omega) (by omega)]
  simp (disch := omega) only [decodeFields.eq_41, dec2E.eq_6, maskF_mod, maskOf_maskF, BitVec.ofNat_toNat, BitVec.setWidth_eq, reg_val, ofNat8_val, ofNat4_val, imm13_parts, imm13_fields, imm18_parts, maskOf_small, Option.bind, Option.map, Option.isNone, Fin.is_lt, and_self, true_and, Bool.false_eq_true, if_true, if_false, Nat.zero_mod, Nat.mod_succ, Nat.reduceMod]
  exact legal_of w
theorem vsllVi : ∀ d a i m c, Statement (.vsllVi d a i m c) := by
  intro d a i m c w _
  rw [encode, decode_mkWord _ (maskF_lt _ (by omega)) (by omega) (by omega) (by omega) (by omega)]
  simp (disch := omega) only [decodeFields.eq_41, dec2E.eq_7, maskF_mod, maskOf_maskF, BitVec.ofNat_toNat, BitVec.setWidth_eq, reg_val, ofNat8_val, ofNat4_val, imm13_parts, imm13_fields, imm18_parts, maskOf_small, Option.bind, Option.map, Option.isNone, Fin.is_lt, and_self, true_and, Bool.false_eq_true, if_true, if_false, Nat.zero_mod, Nat.mod_succ, Nat.reduceMod]
  exact legal_of w
theorem vsrlVi : ∀ d a i m c, Statement (.vsrlVi d a i m c) := by
  intro d a i m c w _
  rw [encode, decode_mkWord _ (maskF_lt _ (by omega)) (by omega) (by omega) (by omega) (by omega)]
  simp (disch := omega) only [decodeFields.eq_41, dec2E.eq_8, maskF_mod, maskOf_maskF, BitVec.ofNat_toNat, BitVec.setWidth_eq, reg_val, ofNat8_val, ofNat4_val, imm13_parts, imm13_fields, imm18_parts, maskOf_small, Option.bind, Option.map, Option.isNone, Fin.is_lt, and_self, true_and, Bool.false_eq_true, if_true, if_false, Nat.zero_mod, Nat.mod_succ, Nat.reduceMod]
  exact legal_of w
theorem vsraVi : ∀ d a i m c, Statement (.vsraVi d a i m c) := by
  intro d a i m c w _
  rw [encode, decode_mkWord _ (maskF_lt _ (by omega)) (by omega) (by omega) (by omega) (by omega)]
  simp (disch := omega) only [decodeFields.eq_41, dec2E.eq_9, maskF_mod, maskOf_maskF, BitVec.ofNat_toNat, BitVec.setWidth_eq, reg_val, ofNat8_val, ofNat4_val, imm13_parts, imm13_fields, imm18_parts, maskOf_small, Option.bind, Option.map, Option.isNone, Fin.is_lt, and_self, true_and, Bool.false_eq_true, if_true, if_false, Nat.zero_mod, Nat.mod_succ, Nat.reduceMod]
  exact legal_of w
theorem vminVi : ∀ d a i m c, Statement (.vminVi d a i m c) := by
  intro d a i m c w _
  rw [encode, decode_mkWord _ (maskF_lt _ (by omega)) (by omega) (by omega) (by omega) (by omega)]
  simp (disch := omega) only [decodeFields.eq_41, dec2E.eq_10, maskF_mod, maskOf_maskF, BitVec.ofNat_toNat, BitVec.setWidth_eq, reg_val, ofNat8_val, ofNat4_val, imm13_parts, imm13_fields, imm18_parts, maskOf_small, Option.bind, Option.map, Option.isNone, Fin.is_lt, and_self, true_and, Bool.false_eq_true, if_true, if_false, Nat.zero_mod, Nat.mod_succ, Nat.reduceMod]
  exact legal_of w
theorem vmaxVi : ∀ d a i m c, Statement (.vmaxVi d a i m c) := by
  intro d a i m c w _
  rw [encode, decode_mkWord _ (maskF_lt _ (by omega)) (by omega) (by omega) (by omega) (by omega)]
  simp (disch := omega) only [decodeFields.eq_41, dec2E.eq_11, maskF_mod, maskOf_maskF, BitVec.ofNat_toNat, BitVec.setWidth_eq, reg_val, ofNat8_val, ofNat4_val, imm13_parts, imm13_fields, imm18_parts, maskOf_small, Option.bind, Option.map, Option.isNone, Fin.is_lt, and_self, true_and, Bool.false_eq_true, if_true, if_false, Nat.zero_mod, Nat.mod_succ, Nat.reduceMod]
  exact legal_of w
theorem vminuVi : ∀ d a i m c, Statement (.vminuVi d a i m c) := by
  intro d a i m c w _
  rw [encode, decode_mkWord _ (maskF_lt _ (by omega)) (by omega) (by omega) (by omega) (by omega)]
  simp (disch := omega) only [decodeFields.eq_41, dec2E.eq_12, maskF_mod, maskOf_maskF, BitVec.ofNat_toNat, BitVec.setWidth_eq, reg_val, ofNat8_val, ofNat4_val, imm13_parts, imm13_fields, imm18_parts, maskOf_small, Option.bind, Option.map, Option.isNone, Fin.is_lt, and_self, true_and, Bool.false_eq_true, if_true, if_false, Nat.zero_mod, Nat.mod_succ, Nat.reduceMod]
  exact legal_of w
theorem vmaxuVi : ∀ d a i m c, Statement (.vmaxuVi d a i m c) := by
  intro d a i m c w _
  rw [encode, decode_mkWord _ (maskF_lt _ (by omega)) (by omega) (by omega) (by omega) (by omega)]
  simp (disch := omega) only [decodeFields.eq_41, dec2E.eq_13, maskF_mod, maskOf_maskF, BitVec.ofNat_toNat, BitVec.setWidth_eq, reg_val, ofNat8_val, ofNat4_val, imm13_parts, imm13_fields, imm18_parts, maskOf_small, Option.bind, Option.map, Option.isNone, Fin.is_lt, and_self, true_and, Bool.false_eq_true, if_true, if_false, Nat.zero_mod, Nat.mod_succ, Nat.reduceMod]
  exact legal_of w
theorem vmulVi : ∀ d a i m c, Statement (.vmulVi d a i m c) := by
  intro d a i m c w _
  rw [encode, decode_mkWord _ (maskF_lt _ (by omega)) (by omega) (by omega) (by omega) (by omega)]
  simp (disch := omega) only [decodeFields.eq_41, dec2E.eq_14, maskF_mod, maskOf_maskF, BitVec.ofNat_toNat, BitVec.setWidth_eq, reg_val, ofNat8_val, ofNat4_val, imm13_parts, imm13_fields, imm18_parts, maskOf_small, Option.bind, Option.map, Option.isNone, Fin.is_lt, and_self, true_and, Bool.false_eq_true, if_true, if_false, Nat.zero_mod, Nat.mod_succ, Nat.reduceMod]
  exact legal_of w
theorem vmulhVi : ∀ d a i m c, Statement (.vmulhVi d a i m c) := by
  intro d a i m c w _
  rw [encode, decode_mkWord _ (maskF_lt _ (by omega)) (by omega) (by omega) (by omega) (by omega)]
  simp (disch := omega) only [decodeFields.eq_41, dec2E.eq_15, maskF_mod, maskOf_maskF, BitVec.ofNat_toNat, BitVec.setWidth_eq, reg_val, ofNat8_val, ofNat4_val, imm13_parts, imm13_fields, imm18_parts, maskOf_small, Option.bind, Option.map, Option.isNone, Fin.is_lt, and_self, true_and, Bool.false_eq_true, if_true, if_false, Nat.zero_mod, Nat.mod_succ, Nat.reduceMod]
  exact legal_of w
theorem vmergeVi : ∀ d a i m c, Statement (.vmergeVi d a i m c) := by
  intro d a i m c w _
  rw [encode, decode_mkWord _ (maskF_lt _ (by omega)) (by omega) (by omega) (by omega) (by omega)]
  simp (disch := omega) only [decodeFields.eq_41, dec2E.eq_16, maskF_mod, maskOf_maskF, BitVec.ofNat_toNat, BitVec.setWidth_eq, reg_val, ofNat8_val, ofNat4_val, imm13_parts, imm13_fields, imm18_parts, maskOf_small, Option.bind, Option.map, Option.isNone, Fin.is_lt, and_self, true_and, Bool.false_eq_true, if_true, if_false, Nat.zero_mod, Nat.mod_succ, Nat.reduceMod]
  exact legal_of w
theorem vsadd : ∀ d a b m c, Statement (.vsadd d a b m c) := by
  intro d a b m c w _
  rw [encode, decode_mkWord _ (maskF_lt _ (by omega)) (by omega) (by omega) (by omega) (by omega)]
  simp (disch := omega) only [decodeFields.eq_42, dec2F.eq_1, maskF_mod, maskOf_maskF, reg_val, ofNat8_val, ofNat4_val, imm13_parts, imm13_fields, imm18_parts, maskOf_small, Option.bind, Option.map, Option.isNone, Fin.is_lt, and_self, true_and, Bool.false_eq_true, if_true, if_false, Nat.zero_mod, Nat.mod_succ, Nat.reduceMod]
  exact legal_of w
theorem vsaddu : ∀ d a b m c, Statement (.vsaddu d a b m c) := by
  intro d a b m c w _
  rw [encode, decode_mkWord _ (maskF_lt _ (by omega)) (by omega) (by omega) (by omega) (by omega)]
  simp (disch := omega) only [decodeFields.eq_42, dec2F.eq_2, maskF_mod, maskOf_maskF, reg_val, ofNat8_val, ofNat4_val, imm13_parts, imm13_fields, imm18_parts, maskOf_small, Option.bind, Option.map, Option.isNone, Fin.is_lt, and_self, true_and, Bool.false_eq_true, if_true, if_false, Nat.zero_mod, Nat.mod_succ, Nat.reduceMod]
  exact legal_of w
theorem vssub : ∀ d a b m c, Statement (.vssub d a b m c) := by
  intro d a b m c w _
  rw [encode, decode_mkWord _ (maskF_lt _ (by omega)) (by omega) (by omega) (by omega) (by omega)]
  simp (disch := omega) only [decodeFields.eq_42, dec2F.eq_3, maskF_mod, maskOf_maskF, reg_val, ofNat8_val, ofNat4_val, imm13_parts, imm13_fields, imm18_parts, maskOf_small, Option.bind, Option.map, Option.isNone, Fin.is_lt, and_self, true_and, Bool.false_eq_true, if_true, if_false, Nat.zero_mod, Nat.mod_succ, Nat.reduceMod]
  exact legal_of w
theorem vssubu : ∀ d a b m c, Statement (.vssubu d a b m c) := by
  intro d a b m c w _
  rw [encode, decode_mkWord _ (maskF_lt _ (by omega)) (by omega) (by omega) (by omega) (by omega)]
  simp (disch := omega) only [decodeFields.eq_42, dec2F.eq_4, maskF_mod, maskOf_maskF, reg_val, ofNat8_val, ofNat4_val, imm13_parts, imm13_fields, imm18_parts, maskOf_small, Option.bind, Option.map, Option.isNone, Fin.is_lt, and_self, true_and, Bool.false_eq_true, if_true, if_false, Nat.zero_mod, Nat.mod_succ, Nat.reduceMod]
  exact legal_of w
theorem vaadd : ∀ d a b m c, Statement (.vaadd d a b m c) := by
  intro d a b m c w _
  rw [encode, decode_mkWord _ (maskF_lt _ (by omega)) (by omega) (by omega) (by omega) (by omega)]
  simp (disch := omega) only [decodeFields.eq_42, dec2F.eq_5, maskF_mod, maskOf_maskF, reg_val, ofNat8_val, ofNat4_val, imm13_parts, imm13_fields, imm18_parts, maskOf_small, Option.bind, Option.map, Option.isNone, Fin.is_lt, and_self, true_and, Bool.false_eq_true, if_true, if_false, Nat.zero_mod, Nat.mod_succ, Nat.reduceMod]
  exact legal_of w
theorem vaaddu : ∀ d a b m c, Statement (.vaaddu d a b m c) := by
  intro d a b m c w _
  rw [encode, decode_mkWord _ (maskF_lt _ (by omega)) (by omega) (by omega) (by omega) (by omega)]
  simp (disch := omega) only [decodeFields.eq_42, dec2F.eq_6, maskF_mod, maskOf_maskF, reg_val, ofNat8_val, ofNat4_val, imm13_parts, imm13_fields, imm18_parts, maskOf_small, Option.bind, Option.map, Option.isNone, Fin.is_lt, and_self, true_and, Bool.false_eq_true, if_true, if_false, Nat.zero_mod, Nat.mod_succ, Nat.reduceMod]
  exact legal_of w
theorem vsmul : ∀ d a b m c, Statement (.vsmul d a b m c) := by
  intro d a b m c w _
  rw [encode, decode_mkWord _ (maskF_lt _ (by omega)) (by omega) (by omega) (by omega) (by omega)]
  simp (disch := omega) only [decodeFields.eq_42, dec2F.eq_7, maskF_mod, maskOf_maskF, reg_val, ofNat8_val, ofNat4_val, imm13_parts, imm13_fields, imm18_parts, maskOf_small, Option.bind, Option.map, Option.isNone, Fin.is_lt, and_self, true_and, Bool.false_eq_true, if_true, if_false, Nat.zero_mod, Nat.mod_succ, Nat.reduceMod]
  exact legal_of w
theorem vssrl : ∀ d a n m c, Statement (.vssrl d a n m c) := by
  intro d a n m c w _
  rw [encode, decode_mkWord _ (maskF_lt _ (by omega)) (by omega) (by omega) (by omega) (by omega)]
  simp (disch := omega) only [decodeFields.eq_42, dec2F.eq_8, maskF_mod, maskOf_maskF, BitVec.ofNat_toNat, BitVec.setWidth_eq, reg_val, ofNat8_val, ofNat4_val, imm13_parts, imm13_fields, imm18_parts, maskOf_small, Option.bind, Option.map, Option.isNone, Fin.is_lt, and_self, true_and, Bool.false_eq_true, if_true, if_false, Nat.zero_mod, Nat.mod_succ, Nat.reduceMod]
  exact legal_of w
theorem vssra : ∀ d a n m c, Statement (.vssra d a n m c) := by
  intro d a n m c w _
  rw [encode, decode_mkWord _ (maskF_lt _ (by omega)) (by omega) (by omega) (by omega) (by omega)]
  simp (disch := omega) only [decodeFields.eq_42, dec2F.eq_9, maskF_mod, maskOf_maskF, BitVec.ofNat_toNat, BitVec.setWidth_eq, reg_val, ofNat8_val, ofNat4_val, imm13_parts, imm13_fields, imm18_parts, maskOf_small, Option.bind, Option.map, Option.isNone, Fin.is_lt, and_self, true_and, Bool.false_eq_true, if_true, if_false, Nat.zero_mod, Nat.mod_succ, Nat.reduceMod]
  exact legal_of w
theorem vnsrl : ∀ d a n m c, Statement (.vnsrl d a n m c) := by
  intro d a n m c w _
  rw [encode, decode_mkWord _ (maskF_lt _ (by omega)) (by omega) (by omega) (by omega) (by omega)]
  simp (disch := omega) only [decodeFields.eq_42, dec2F.eq_10, maskF_mod, maskOf_maskF, BitVec.ofNat_toNat, BitVec.setWidth_eq, reg_val, ofNat8_val, ofNat4_val, imm13_parts, imm13_fields, imm18_parts, maskOf_small, Option.bind, Option.map, Option.isNone, Fin.is_lt, and_self, true_and, Bool.false_eq_true, if_true, if_false, Nat.zero_mod, Nat.mod_succ, Nat.reduceMod]
  exact legal_of w
theorem vnsra : ∀ d a n m c, Statement (.vnsra d a n m c) := by
  intro d a n m c w _
  rw [encode, decode_mkWord _ (maskF_lt _ (by omega)) (by omega) (by omega) (by omega) (by omega)]
  simp (disch := omega) only [decodeFields.eq_42, dec2F.eq_11, maskF_mod, maskOf_maskF, BitVec.ofNat_toNat, BitVec.setWidth_eq, reg_val, ofNat8_val, ofNat4_val, imm13_parts, imm13_fields, imm18_parts, maskOf_small, Option.bind, Option.map, Option.isNone, Fin.is_lt, and_self, true_and, Bool.false_eq_true, if_true, if_false, Nat.zero_mod, Nat.mod_succ, Nat.reduceMod]
  exact legal_of w
theorem vnclip : ∀ d a n m c, Statement (.vnclip d a n m c) := by
  intro d a n m c w _
  rw [encode, decode_mkWord _ (maskF_lt _ (by omega)) (by omega) (by omega) (by omega) (by omega)]
  simp (disch := omega) only [decodeFields.eq_42, dec2F.eq_12, maskF_mod, maskOf_maskF, BitVec.ofNat_toNat, BitVec.setWidth_eq, reg_val, ofNat8_val, ofNat4_val, imm13_parts, imm13_fields, imm18_parts, maskOf_small, Option.bind, Option.map, Option.isNone, Fin.is_lt, and_self, true_and, Bool.false_eq_true, if_true, if_false, Nat.zero_mod, Nat.mod_succ, Nat.reduceMod]
  exact legal_of w
theorem vnclipu : ∀ d a n m c, Statement (.vnclipu d a n m c) := by
  intro d a n m c w _
  rw [encode, decode_mkWord _ (maskF_lt _ (by omega)) (by omega) (by omega) (by omega) (by omega)]
  simp (disch := omega) only [decodeFields.eq_42, dec2F.eq_13, maskF_mod, maskOf_maskF, BitVec.ofNat_toNat, BitVec.setWidth_eq, reg_val, ofNat8_val, ofNat4_val, imm13_parts, imm13_fields, imm18_parts, maskOf_small, Option.bind, Option.map, Option.isNone, Fin.is_lt, and_self, true_and, Bool.false_eq_true, if_true, if_false, Nat.zero_mod, Nat.mod_succ, Nat.reduceMod]
  exact legal_of w
theorem vwadd : ∀ d a b m c, Statement (.vwadd d a b m c) := by
  intro d a b m c w _
  rw [encode, decode_mkWord _ (maskF_lt _ (by omega)) (by omega) (by omega) (by omega) (by omega)]
  simp (disch := omega) only [decodeFields.eq_43, dec30.eq_1, maskF_mod, maskOf_maskF, reg_val, ofNat8_val, ofNat4_val, imm13_parts, imm13_fields, imm18_parts, maskOf_small, Option.bind, Option.map, Option.isNone, Fin.is_lt, and_self, true_and, Bool.false_eq_true, if_true, if_false, Nat.zero_mod, Nat.mod_succ, Nat.reduceMod]
  exact legal_of w
theorem vwaddu : ∀ d a b m c, Statement (.vwaddu d a b m c) := by
  intro d a b m c w _
  rw [encode, decode_mkWord _ (maskF_lt _ (by omega)) (by omega) (by omega) (by omega) (by omega)]
  simp (disch := omega) only [decodeFields.eq_43, dec30.eq_2, maskF_mod, maskOf_maskF, reg_val, ofNat8_val, ofNat4_val, imm13_parts, imm13_fields, imm18_parts, maskOf_small, Option.bind, Option.map, Option.isNone, Fin.is_lt, and_self, true_and, Bool.false_eq_true, if_true, if_false, Nat.zero_mod, Nat.mod_succ, Nat.reduceMod]
  exact legal_of w
theorem vwsub : ∀ d a b m c, Statement (.vwsub d a b m c) := by
  intro d a b m c w _
  rw [encode, decode_mkWord _ (maskF_lt _ (by omega)) (by omega) (by omega) (by omega) (by omega)]
  simp (disch := omega) only [decodeFields.eq_43, dec30.eq_3, maskF_mod, maskOf_maskF, reg_val, ofNat8_val, ofNat4_val, imm13_parts, imm13_fields, imm18_parts, maskOf_small, Option.bind, Option.map, Option.isNone, Fin.is_lt, and_self, true_and, Bool.false_eq_true, if_true, if_false, Nat.zero_mod, Nat.mod_succ, Nat.reduceMod]
  exact legal_of w
theorem vwsubu : ∀ d a b m c, Statement (.vwsubu d a b m c) := by
  intro d a b m c w _
  rw [encode, decode_mkWord _ (maskF_lt _ (by omega)) (by omega) (by omega) (by omega) (by omega)]
  simp (disch := omega) only [decodeFields.eq_43, dec30.eq_4, maskF_mod, maskOf_maskF, reg_val, ofNat8_val, ofNat4_val, imm13_parts, imm13_fields, imm18_parts, maskOf_small, Option.bind, Option.map, Option.isNone, Fin.is_lt, and_self, true_and, Bool.false_eq_true, if_true, if_false, Nat.zero_mod, Nat.mod_succ, Nat.reduceMod]
  exact legal_of w
theorem vwmul : ∀ d a b m c, Statement (.vwmul d a b m c) := by
  intro d a b m c w _
  rw [encode, decode_mkWord _ (maskF_lt _ (by omega)) (by omega) (by omega) (by omega) (by omega)]
  simp (disch := omega) only [decodeFields.eq_43, dec30.eq_5, maskF_mod, maskOf_maskF, reg_val, ofNat8_val, ofNat4_val, imm13_parts, imm13_fields, imm18_parts, maskOf_small, Option.bind, Option.map, Option.isNone, Fin.is_lt, and_self, true_and, Bool.false_eq_true, if_true, if_false, Nat.zero_mod, Nat.mod_succ, Nat.reduceMod]
  exact legal_of w
theorem vwmulu : ∀ d a b m c, Statement (.vwmulu d a b m c) := by
  intro d a b m c w _
  rw [encode, decode_mkWord _ (maskF_lt _ (by omega)) (by omega) (by omega) (by omega) (by omega)]
  simp (disch := omega) only [decodeFields.eq_43, dec30.eq_6, maskF_mod, maskOf_maskF, reg_val, ofNat8_val, ofNat4_val, imm13_parts, imm13_fields, imm18_parts, maskOf_small, Option.bind, Option.map, Option.isNone, Fin.is_lt, and_self, true_and, Bool.false_eq_true, if_true, if_false, Nat.zero_mod, Nat.mod_succ, Nat.reduceMod]
  exact legal_of w
theorem vwmulsu : ∀ d a b m c, Statement (.vwmulsu d a b m c) := by
  intro d a b m c w _
  rw [encode, decode_mkWord _ (maskF_lt _ (by omega)) (by omega) (by omega) (by omega) (by omega)]
  simp (disch := omega) only [decodeFields.eq_43, dec30.eq_7, maskF_mod, maskOf_maskF, reg_val, ofNat8_val, ofNat4_val, imm13_parts, imm13_fields, imm18_parts, maskOf_small, Option.bind, Option.map, Option.isNone, Fin.is_lt, and_self, true_and, Bool.false_eq_true, if_true, if_false, Nat.zero_mod, Nat.mod_succ, Nat.reduceMod]
  exact legal_of w
theorem vwmacc : ∀ d a b m c, Statement (.vwmacc d a b m c) := by
  intro d a b m c w _
  rw [encode, decode_mkWord _ (maskF_lt _ (by omega)) (by omega) (by omega) (by omega) (by omega)]
  simp (disch := omega) only [decodeFields.eq_43, dec30.eq_8, maskF_mod, maskOf_maskF, reg_val, ofNat8_val, ofNat4_val, imm13_parts, imm13_fields, imm18_parts, maskOf_small, Option.bind, Option.map, Option.isNone, Fin.is_lt, and_self, true_and, Bool.false_eq_true, if_true, if_false, Nat.zero_mod, Nat.mod_succ, Nat.reduceMod]
  exact legal_of w
theorem vwmaccu : ∀ d a b m c, Statement (.vwmaccu d a b m c) := by
  intro d a b m c w _
  rw [encode, decode_mkWord _ (maskF_lt _ (by omega)) (by omega) (by omega) (by omega) (by omega)]
  simp (disch := omega) only [decodeFields.eq_43, dec30.eq_9, maskF_mod, maskOf_maskF, reg_val, ofNat8_val, ofNat4_val, imm13_parts, imm13_fields, imm18_parts, maskOf_small, Option.bind, Option.map, Option.isNone, Fin.is_lt, and_self, true_and, Bool.false_eq_true, if_true, if_false, Nat.zero_mod, Nat.mod_succ, Nat.reduceMod]
  exact legal_of w
theorem vwmaccsu : ∀ d a b m c, Statement (.vwmaccsu d a b m c) := by
  intro d a b m c w _
  rw [encode, decode_mkWord _ (maskF_lt _ (by omega)) (by omega) (by omega) (by omega) (by omega)]
  simp (disch := omega) only [decodeFields.eq_43, dec30.eq_10, maskF_mod, maskOf_maskF, reg_val, ofNat8_val, ofNat4_val, imm13_parts, imm13_fields, imm18_parts, maskOf_small, Option.bind, Option.map, Option.isNone, Fin.is_lt, and_self, true_and, Bool.false_eq_true, if_true, if_false, Nat.zero_mod, Nat.mod_succ, Nat.reduceMod]
  exact legal_of w
theorem vqmacc : ∀ d a b m c, Statement (.vqmacc d a b m c) := by
  intro d a b m c w _
  rw [encode, decode_mkWord _ (maskF_lt _ (by omega)) (by omega) (by omega) (by omega) (by omega)]
  simp (disch := omega) only [decodeFields.eq_43, dec30.eq_11, maskF_mod, maskOf_maskF, reg_val, ofNat8_val, ofNat4_val, imm13_parts, imm13_fields, imm18_parts, maskOf_small, Option.bind, Option.map, Option.isNone, Fin.is_lt, and_self, true_and, Bool.false_eq_true, if_true, if_false, Nat.zero_mod, Nat.mod_succ, Nat.reduceMod]
  exact legal_of w
theorem vseq : ∀ d a b m c, Statement (.vseq d a b m c) := by
  intro d a b m c w _
  rw [encode, decode_mkWord _ (maskF_lt _ (by omega)) (by omega) (by omega) (by omega) (by omega)]
  simp (disch := omega) only [decodeFields.eq_44, dec31.eq_1, maskF_mod, maskOf_maskF, reg_val, ofNat8_val, ofNat4_val, imm13_parts, imm13_fields, imm18_parts, maskOf_small, Option.bind, Option.map, Option.isNone, Fin.is_lt, and_self, true_and, Bool.false_eq_true, if_true, if_false, Nat.zero_mod, Nat.mod_succ, Nat.reduceMod]
  exact legal_of w
theorem vsne : ∀ d a b m c, Statement (.vsne d a b m c) := by
  intro d a b m c w _
  rw [encode, decode_mkWord _ (maskF_lt _ (by omega)) (by omega) (by omega) (by omega) (by omega)]
  simp (disch := omega) only [decodeFields.eq_44, dec31.eq_2, maskF_mod, maskOf_maskF, reg_val, ofNat8_val, ofNat4_val, imm13_parts, imm13_fields, imm18_parts, maskOf_small, Option.bind, Option.map, Option.isNone, Fin.is_lt, and_self, true_and, Bool.false_eq_true, if_true, if_false, Nat.zero_mod, Nat.mod_succ, Nat.reduceMod]
  exact legal_of w
theorem vslt : ∀ d a b m c, Statement (.vslt d a b m c) := by
  intro d a b m c w _
  rw [encode, decode_mkWord _ (maskF_lt _ (by omega)) (by omega) (by omega) (by omega) (by omega)]
  simp (disch := omega) only [decodeFields.eq_44, dec31.eq_3, maskF_mod, maskOf_maskF, reg_val, ofNat8_val, ofNat4_val, imm13_parts, imm13_fields, imm18_parts, maskOf_small, Option.bind, Option.map, Option.isNone, Fin.is_lt, and_self, true_and, Bool.false_eq_true, if_true, if_false, Nat.zero_mod, Nat.mod_succ, Nat.reduceMod]
  exact legal_of w
theorem vsltu : ∀ d a b m c, Statement (.vsltu d a b m c) := by
  intro d a b m c w _
  rw [encode, decode_mkWord _ (maskF_lt _ (by omega)) (by omega) (by omega) (by omega) (by omega)]
  simp (disch := omega) only [decodeFields.eq_44, dec31.eq_4, maskF_mod, maskOf_maskF, reg_val, ofNat8_val, ofNat4_val, imm13_parts, imm13_fields, imm18_parts, maskOf_small, Option.bind, Option.map, Option.isNone, Fin.is_lt, and_self, true_and, Bool.false_eq_true, if_true, if_false, Nat.zero_mod, Nat.mod_succ, Nat.reduceMod]
  exact legal_of w
theorem vsle : ∀ d a b m c, Statement (.vsle d a b m c) := by
  intro d a b m c w _
  rw [encode, decode_mkWord _ (maskF_lt _ (by omega)) (by omega) (by omega) (by omega) (by omega)]
  simp (disch := omega) only [decodeFields.eq_44, dec31.eq_5, maskF_mod, maskOf_maskF, reg_val, ofNat8_val, ofNat4_val, imm13_parts, imm13_fields, imm18_parts, maskOf_small, Option.bind, Option.map, Option.isNone, Fin.is_lt, and_self, true_and, Bool.false_eq_true, if_true, if_false, Nat.zero_mod, Nat.mod_succ, Nat.reduceMod]
  exact legal_of w
theorem vsleu : ∀ d a b m c, Statement (.vsleu d a b m c) := by
  intro d a b m c w _
  rw [encode, decode_mkWord _ (maskF_lt _ (by omega)) (by omega) (by omega) (by omega) (by omega)]
  simp (disch := omega) only [decodeFields.eq_44, dec31.eq_6, maskF_mod, maskOf_maskF, reg_val, ofNat8_val, ofNat4_val, imm13_parts, imm13_fields, imm18_parts, maskOf_small, Option.bind, Option.map, Option.isNone, Fin.is_lt, and_self, true_and, Bool.false_eq_true, if_true, if_false, Nat.zero_mod, Nat.mod_succ, Nat.reduceMod]
  exact legal_of w
theorem vsgt : ∀ d a b m c, Statement (.vsgt d a b m c) := by
  intro d a b m c w _
  rw [encode, decode_mkWord _ (maskF_lt _ (by omega)) (by omega) (by omega) (by omega) (by omega)]
  simp (disch := omega) only [decodeFields.eq_44, dec31.eq_7, maskF_mod, maskOf_maskF, reg_val, ofNat8_val, ofNat4_val, imm13_parts, imm13_fields, imm18_parts, maskOf_small, Option.bind, Option.map, Option.isNone, Fin.is_lt, and_self, true_and, Bool.false_eq_true, if_true, if_false, Nat.zero_mod, Nat.mod_succ, Nat.reduceMod]
  exact legal_of w
theorem vsgtu : ∀ d a b m c, Statement (.vsgtu d a b m c) := by
  intro d a b m c w _
  rw [encode, decode_mkWord _ (maskF_lt _ (by omega)) (by omega) (by omega) (by omega) (by omega)]
  simp (disch := omega) only [decodeFields.eq_44, dec31.eq_8, maskF_mod, maskOf_maskF, reg_val, ofNat8_val, ofNat4_val, imm13_parts, imm13_fields, imm18_parts, maskOf_small, Option.bind, Option.map, Option.isNone, Fin.is_lt, and_self, true_and, Bool.false_eq_true, if_true, if_false, Nat.zero_mod, Nat.mod_succ, Nat.reduceMod]
  exact legal_of w
theorem vadc : ∀ d a b m c, Statement (.vadc d a b m c) := by
  intro d a b m c w _
  rw [encode, decode_mkWord _ (maskF_lt _ (by omega)) (by omega) (by omega) (by omega) (by omega)]
  simp (disch := omega) only [decodeFields.eq_44, dec31.eq_9, maskF_mod, maskOf_maskF, reg_val, ofNat8_val, ofNat4_val, imm13_parts, imm13_fields, imm18_parts, maskOf_small, Option.bind, Option.map, Option.isNone, Fin.is_lt, and_self, true_and, Bool.false_eq_true, if_true, if_false, Nat.zero_mod, Nat.mod_succ, Nat.reduceMod]
  exact legal_of w
theorem vmadc : ∀ d a b m c, Statement (.vmadc d a b m c) := by
  intro d a b m c w _
  rw [encode, decode_mkWord _ (maskF_lt _ (by omega)) (by omega) (by omega) (by omega) (by omega)]
  simp (disch := omega) only [decodeFields.eq_44, dec31.eq_10, maskF_mod, maskOf_maskF, reg_val, ofNat8_val, ofNat4_val, imm13_parts, imm13_fields, imm18_parts, maskOf_small, Option.bind, Option.map, Option.isNone, Fin.is_lt, and_self, true_and, Bool.false_eq_true, if_true, if_false, Nat.zero_mod, Nat.mod_succ, Nat.reduceMod]
  exact legal_of w
theorem vsbc : ∀ d a b m c, Statement (.vsbc d a b m c) := by
  intro d a b m c w _
  rw [encode, decode_mkWord _ (maskF_lt _ (by omega)) (by omega) (by omega) (by omega) (by omega)]
  simp (disch := omega) only [decodeFields.eq_44, dec31.eq_11, maskF_mod, maskOf_maskF, reg_val, ofNat8_val, ofNat4_val, imm13_parts, imm13_fields, imm18_parts, maskOf_small, Option.bind, Option.map, Option.isNone, Fin.is_lt, and_self, true_and, Bool.false_eq_true, if_true, if_false, Nat.zero_mod, Nat.mod_succ, Nat.reduceMod]
  exact legal_of w
theorem vmsbc : ∀ d a b m c, Statement (.vmsbc d a b m c) := by
  intro d a b m c w _
  rw [encode, decode_mkWord _ (maskF_lt _ (by omega)) (by omega) (by omega) (by omega) (by omega)]
  simp (disch := omega) only [decodeFields.eq_44, dec31.eq_12, maskF_mod, maskOf_maskF, reg_val, ofNat8_val, ofNat4_val, imm13_parts, imm13_fields, imm18_parts, maskOf_small, Option.bind, Option.map, Option.isNone, Fin.is_lt, and_self, true_and, Bool.false_eq_true, if_true, if_false, Nat.zero_mod, Nat.mod_succ, Nat.reduceMod]
  exact legal_of w
theorem mand : ∀ d a b c, Statement (.mand d a b c) := by
  intro d a b c w _
  rw [encode, decode_mkWord _ (by omega) (by omega) (by omega) (by omega) (by omega)]
  simp (disch := omega) only [decodeFields.eq_45, dec32.eq_1, reg_val, ofNat8_val, ofNat4_val, imm13_parts, imm13_fields, imm18_parts, maskOf_small, Option.bind, Option.map, Option.isNone, Fin.is_lt, and_self, true_and, Bool.false_eq_true, if_true, if_false, Nat.zero_mod, Nat.mod_succ, Nat.reduceMod]
  exact legal_of w
theorem mor : ∀ d a b c, Statement (.mor d a b c) := by
  intro d a b c w _
  rw [encode, decode_mkWord _ (by omega) (by omega) (by omega) (by omega) (by omega)]
  simp (disch := omega) only [decodeFields.eq_45, dec32.eq_2, reg_val, ofNat8_val, ofNat4_val, imm13_parts, imm13_fields, imm18_parts, maskOf_small, Option.bind, Option.map, Option.isNone, Fin.is_lt, and_self, true_and, Bool.false_eq_true, if_true, if_false, Nat.zero_mod, Nat.mod_succ, Nat.reduceMod]
  exact legal_of w
theorem mxor : ∀ d a b c, Statement (.mxor d a b c) := by
  intro d a b c w _
  rw [encode, decode_mkWord _ (by omega) (by omega) (by omega) (by omega) (by omega)]
  simp (disch := omega) only [decodeFields.eq_45, dec32.eq_3, reg_val, ofNat8_val, ofNat4_val, imm13_parts, imm13_fields, imm18_parts, maskOf_small, Option.bind, Option.map, Option.isNone, Fin.is_lt, and_self, true_and, Bool.false_eq_true, if_true, if_false, Nat.zero_mod, Nat.mod_succ, Nat.reduceMod]
  exact legal_of w
theorem mandn : ∀ d a b c, Statement (.mandn d a b c) := by
  intro d a b c w _
  rw [encode, decode_mkWord _ (by omega) (by omega) (by omega) (by omega) (by omega)]
  simp (disch := omega) only [decodeFields.eq_45, dec32.eq_4, reg_val, ofNat8_val, ofNat4_val, imm13_parts, imm13_fields, imm18_parts, maskOf_small, Option.bind, Option.map, Option.isNone, Fin.is_lt, and_self, true_and, Bool.false_eq_true, if_true, if_false, Nat.zero_mod, Nat.mod_succ, Nat.reduceMod]
  exact legal_of w
theorem mnot : ∀ d a c, Statement (.mnot d a c) := by
  intro d a c w _
  rw [encode, decode_mkWord _ (by omega) (by omega) (by omega) (by omega) (by omega)]
  simp (disch := omega) only [decodeFields.eq_45, dec32.eq_5, reg_val, ofNat8_val, ofNat4_val, imm13_parts, imm13_fields, imm18_parts, maskOf_small, Option.bind, Option.map, Option.isNone, Fin.is_lt, and_self, true_and, Bool.false_eq_true, if_true, if_false, Nat.zero_mod, Nat.mod_succ, Nat.reduceMod]
  exact legal_of w
theorem mshl : ∀ d a b c, Statement (.mshl d a b c) := by
  intro d a b c w _
  rw [encode, decode_mkWord _ (by omega) (by omega) (by omega) (by omega) (by omega)]
  simp (disch := omega) only [decodeFields.eq_45, dec32.eq_6, reg_val, ofNat8_val, ofNat4_val, imm13_parts, imm13_fields, imm18_parts, maskOf_small, Option.bind, Option.map, Option.isNone, Fin.is_lt, and_self, true_and, Bool.false_eq_true, if_true, if_false, Nat.zero_mod, Nat.mod_succ, Nat.reduceMod]
  exact legal_of w
theorem mpop : ∀ d a c, Statement (.mpop d a c) := by
  intro d a c w _
  rw [encode, decode_mkWord _ (by omega) (by omega) (by omega) (by omega) (by omega)]
  simp (disch := omega) only [decodeFields.eq_45, dec32.eq_7, reg_val, ofNat8_val, ofNat4_val, imm13_parts, imm13_fields, imm18_parts, maskOf_small, Option.bind, Option.map, Option.isNone, Fin.is_lt, and_self, true_and, Bool.false_eq_true, if_true, if_false, Nat.zero_mod, Nat.mod_succ, Nat.reduceMod]
  exact legal_of w
theorem mfirst : ∀ d a c, Statement (.mfirst d a c) := by
  intro d a c w _
  rw [encode, decode_mkWord _ (by omega) (by omega) (by omega) (by omega) (by omega)]
  simp (disch := omega) only [decodeFields.eq_45, dec32.eq_8, reg_val, ofNat8_val, ofNat4_val, imm13_parts, imm13_fields, imm18_parts, maskOf_small, Option.bind, Option.map, Option.isNone, Fin.is_lt, and_self, true_and, Bool.false_eq_true, if_true, if_false, Nat.zero_mod, Nat.mod_succ, Nat.reduceMod]
  exact legal_of w
theorem mlast : ∀ d a c, Statement (.mlast d a c) := by
  intro d a c w _
  rw [encode, decode_mkWord _ (by omega) (by omega) (by omega) (by omega) (by omega)]
  simp (disch := omega) only [decodeFields.eq_45, dec32.eq_9, reg_val, ofNat8_val, ofNat4_val, imm13_parts, imm13_fields, imm18_parts, maskOf_small, Option.bind, Option.map, Option.isNone, Fin.is_lt, and_self, true_and, Bool.false_eq_true, if_true, if_false, Nat.zero_mod, Nat.mod_succ, Nat.reduceMod]
  exact legal_of w
theorem mset : ∀ d c, Statement (.mset d c) := by
  intro d c w _
  rw [encode, decode_mkWord _ (by omega) (by omega) (by omega) (by omega) (by omega)]
  simp (disch := omega) only [decodeFields.eq_45, dec32.eq_10, reg_val, ofNat8_val, ofNat4_val, imm13_parts, imm13_fields, imm18_parts, maskOf_small, Option.bind, Option.map, Option.isNone, Fin.is_lt, and_self, true_and, Bool.false_eq_true, if_true, if_false, Nat.zero_mod, Nat.mod_succ, Nat.reduceMod]
  exact legal_of w
theorem mclr : ∀ d c, Statement (.mclr d c) := by
  intro d c w _
  rw [encode, decode_mkWord _ (by omega) (by omega) (by omega) (by omega) (by omega)]
  simp (disch := omega) only [decodeFields.eq_45, dec32.eq_11, reg_val, ofNat8_val, ofNat4_val, imm13_parts, imm13_fields, imm18_parts, maskOf_small, Option.bind, Option.map, Option.isNone, Fin.is_lt, and_self, true_and, Bool.false_eq_true, if_true, if_false, Nat.zero_mod, Nat.mod_succ, Nat.reduceMod]
  exact legal_of w
theorem mmv : ∀ d a c, Statement (.mmv d a c) := by
  intro d a c w _
  rw [encode, decode_mkWord _ (by omega) (by omega) (by omega) (by omega) (by omega)]
  simp (disch := omega) only [decodeFields.eq_45, dec32.eq_12, reg_val, ofNat8_val, ofNat4_val, imm13_parts, imm13_fields, imm18_parts, maskOf_small, Option.bind, Option.map, Option.isNone, Fin.is_lt, and_self, true_and, Bool.false_eq_true, if_true, if_false, Nat.zero_mod, Nat.mod_succ, Nat.reduceMod]
  exact legal_of w
theorem mtop : ∀ d a c, Statement (.mtop d a c) := by
  intro d a c w _
  rw [encode, decode_mkWord _ (by omega) (by omega) (by omega) (by omega) (by omega)]
  simp (disch := omega) only [decodeFields.eq_45, dec32.eq_13, reg_val, ofNat8_val, ofNat4_val, imm13_parts, imm13_fields, imm18_parts, maskOf_small, Option.bind, Option.map, Option.isNone, Fin.is_lt, and_self, true_and, Bool.false_eq_true, if_true, if_false, Nat.zero_mod, Nat.mod_succ, Nat.reduceMod]
  exact legal_of w
theorem mfromv : ∀ d a c, Statement (.mfromv d a c) := by
  intro d a c w _
  rw [encode, decode_mkWord _ (by omega) (by omega) (by omega) (by omega) (by omega)]
  simp (disch := omega) only [decodeFields.eq_45, dec32.eq_14, reg_val, ofNat8_val, ofNat4_val, imm13_parts, imm13_fields, imm18_parts, maskOf_small, Option.bind, Option.map, Option.isNone, Fin.is_lt, and_self, true_and, Bool.false_eq_true, if_true, if_false, Nat.zero_mod, Nat.mod_succ, Nat.reduceMod]
  exact legal_of w
theorem mtov : ∀ d a c, Statement (.mtov d a c) := by
  intro d a c w _
  rw [encode, decode_mkWord _ (by omega) (by omega) (by omega) (by omega) (by omega)]
  simp (disch := omega) only [decodeFields.eq_45, dec32.eq_15, reg_val, ofNat8_val, ofNat4_val, imm13_parts, imm13_fields, imm18_parts, maskOf_small, Option.bind, Option.map, Option.isNone, Fin.is_lt, and_self, true_and, Bool.false_eq_true, if_true, if_false, Nat.zero_mod, Nat.mod_succ, Nat.reduceMod]
  exact legal_of w
theorem vfadd : ∀ d a b m c, Statement (.vfadd d a b m c) := by
  intro d a b m c w _
  rw [encode, decode_mkWord _ (maskF_lt _ (by omega)) (by omega) (by omega) (by omega) (by omega)]
  simp (disch := omega) only [decodeFields.eq_46, dec33.eq_1, maskF_mod, maskOf_maskF, reg_val, ofNat8_val, ofNat4_val, imm13_parts, imm13_fields, imm18_parts, maskOf_small, Option.bind, Option.map, Option.isNone, Fin.is_lt, and_self, true_and, Bool.false_eq_true, if_true, if_false, Nat.zero_mod, Nat.mod_succ, Nat.reduceMod]
  exact legal_of w
theorem vfsub : ∀ d a b m c, Statement (.vfsub d a b m c) := by
  intro d a b m c w _
  rw [encode, decode_mkWord _ (maskF_lt _ (by omega)) (by omega) (by omega) (by omega) (by omega)]
  simp (disch := omega) only [decodeFields.eq_46, dec33.eq_2, maskF_mod, maskOf_maskF, reg_val, ofNat8_val, ofNat4_val, imm13_parts, imm13_fields, imm18_parts, maskOf_small, Option.bind, Option.map, Option.isNone, Fin.is_lt, and_self, true_and, Bool.false_eq_true, if_true, if_false, Nat.zero_mod, Nat.mod_succ, Nat.reduceMod]
  exact legal_of w
theorem vfmul : ∀ d a b m c, Statement (.vfmul d a b m c) := by
  intro d a b m c w _
  rw [encode, decode_mkWord _ (maskF_lt _ (by omega)) (by omega) (by omega) (by omega) (by omega)]
  simp (disch := omega) only [decodeFields.eq_46, dec33.eq_3, maskF_mod, maskOf_maskF, reg_val, ofNat8_val, ofNat4_val, imm13_parts, imm13_fields, imm18_parts, maskOf_small, Option.bind, Option.map, Option.isNone, Fin.is_lt, and_self, true_and, Bool.false_eq_true, if_true, if_false, Nat.zero_mod, Nat.mod_succ, Nat.reduceMod]
  exact legal_of w
theorem vfdiv : ∀ d a b m c, Statement (.vfdiv d a b m c) := by
  intro d a b m c w _
  rw [encode, decode_mkWord _ (maskF_lt _ (by omega)) (by omega) (by omega) (by omega) (by omega)]
  simp (disch := omega) only [decodeFields.eq_46, dec33.eq_4, maskF_mod, maskOf_maskF, reg_val, ofNat8_val, ofNat4_val, imm13_parts, imm13_fields, imm18_parts, maskOf_small, Option.bind, Option.map, Option.isNone, Fin.is_lt, and_self, true_and, Bool.false_eq_true, if_true, if_false, Nat.zero_mod, Nat.mod_succ, Nat.reduceMod]
  exact legal_of w
theorem vfmin : ∀ d a b m c, Statement (.vfmin d a b m c) := by
  intro d a b m c w _
  rw [encode, decode_mkWord _ (maskF_lt _ (by omega)) (by omega) (by omega) (by omega) (by omega)]
  simp (disch := omega) only [decodeFields.eq_46, dec33.eq_5, maskF_mod, maskOf_maskF, reg_val, ofNat8_val, ofNat4_val, imm13_parts, imm13_fields, imm18_parts, maskOf_small, Option.bind, Option.map, Option.isNone, Fin.is_lt, and_self, true_and, Bool.false_eq_true, if_true, if_false, Nat.zero_mod, Nat.mod_succ, Nat.reduceMod]
  exact legal_of w
theorem vfmax : ∀ d a b m c, Statement (.vfmax d a b m c) := by
  intro d a b m c w _
  rw [encode, decode_mkWord _ (maskF_lt _ (by omega)) (by omega) (by omega) (by omega) (by omega)]
  simp (disch := omega) only [decodeFields.eq_46, dec33.eq_6, maskF_mod, maskOf_maskF, reg_val, ofNat8_val, ofNat4_val, imm13_parts, imm13_fields, imm18_parts, maskOf_small, Option.bind, Option.map, Option.isNone, Fin.is_lt, and_self, true_and, Bool.false_eq_true, if_true, if_false, Nat.zero_mod, Nat.mod_succ, Nat.reduceMod]
  exact legal_of w
theorem vfsqrt : ∀ d a m c, Statement (.vfsqrt d a m c) := by
  intro d a m c w _
  rw [encode, decode_mkWord _ (maskF_lt _ (by omega)) (by omega) (by omega) (by omega) (by omega)]
  simp (disch := omega) only [decodeFields.eq_46, dec33.eq_7, maskF_mod, maskOf_maskF, reg_val, ofNat8_val, ofNat4_val, imm13_parts, imm13_fields, imm18_parts, maskOf_small, Option.bind, Option.map, Option.isNone, Fin.is_lt, and_self, true_and, Bool.false_eq_true, if_true, if_false, Nat.zero_mod, Nat.mod_succ, Nat.reduceMod]
  exact legal_of w
theorem vfmacc : ∀ d a b m c, Statement (.vfmacc d a b m c) := by
  intro d a b m c w _
  rw [encode, decode_mkWord _ (maskF_lt _ (by omega)) (by omega) (by omega) (by omega) (by omega)]
  simp (disch := omega) only [decodeFields.eq_46, dec33.eq_8, maskF_mod, maskOf_maskF, reg_val, ofNat8_val, ofNat4_val, imm13_parts, imm13_fields, imm18_parts, maskOf_small, Option.bind, Option.map, Option.isNone, Fin.is_lt, and_self, true_and, Bool.false_eq_true, if_true, if_false, Nat.zero_mod, Nat.mod_succ, Nat.reduceMod]
  exact legal_of w
theorem vfnmacc : ∀ d a b m c, Statement (.vfnmacc d a b m c) := by
  intro d a b m c w _
  rw [encode, decode_mkWord _ (maskF_lt _ (by omega)) (by omega) (by omega) (by omega) (by omega)]
  simp (disch := omega) only [decodeFields.eq_46, dec33.eq_9, maskF_mod, maskOf_maskF, reg_val, ofNat8_val, ofNat4_val, imm13_parts, imm13_fields, imm18_parts, maskOf_small, Option.bind, Option.map, Option.isNone, Fin.is_lt, and_self, true_and, Bool.false_eq_true, if_true, if_false, Nat.zero_mod, Nat.mod_succ, Nat.reduceMod]
  exact legal_of w
theorem vfmsac : ∀ d a b m c, Statement (.vfmsac d a b m c) := by
  intro d a b m c w _
  rw [encode, decode_mkWord _ (maskF_lt _ (by omega)) (by omega) (by omega) (by omega) (by omega)]
  simp (disch := omega) only [decodeFields.eq_46, dec33.eq_10, maskF_mod, maskOf_maskF, reg_val, ofNat8_val, ofNat4_val, imm13_parts, imm13_fields, imm18_parts, maskOf_small, Option.bind, Option.map, Option.isNone, Fin.is_lt, and_self, true_and, Bool.false_eq_true, if_true, if_false, Nat.zero_mod, Nat.mod_succ, Nat.reduceMod]
  exact legal_of w
theorem vfeq : ∀ d a b m c, Statement (.vfeq d a b m c) := by
  intro d a b m c w _
  rw [encode, decode_mkWord _ (maskF_lt _ (by omega)) (by omega) (by omega) (by omega) (by omega)]
  simp (disch := omega) only [decodeFields.eq_46, dec33.eq_11, maskF_mod, maskOf_maskF, reg_val, ofNat8_val, ofNat4_val, imm13_parts, imm13_fields, imm18_parts, maskOf_small, Option.bind, Option.map, Option.isNone, Fin.is_lt, and_self, true_and, Bool.false_eq_true, if_true, if_false, Nat.zero_mod, Nat.mod_succ, Nat.reduceMod]
  exact legal_of w
theorem vflt : ∀ d a b m c, Statement (.vflt d a b m c) := by
  intro d a b m c w _
  rw [encode, decode_mkWord _ (maskF_lt _ (by omega)) (by omega) (by omega) (by omega) (by omega)]
  simp (disch := omega) only [decodeFields.eq_46, dec33.eq_12, maskF_mod, maskOf_maskF, reg_val, ofNat8_val, ofNat4_val, imm13_parts, imm13_fields, imm18_parts, maskOf_small, Option.bind, Option.map, Option.isNone, Fin.is_lt, and_self, true_and, Bool.false_eq_true, if_true, if_false, Nat.zero_mod, Nat.mod_succ, Nat.reduceMod]
  exact legal_of w
theorem vfle : ∀ d a b m c, Statement (.vfle d a b m c) := by
  intro d a b m c w _
  rw [encode, decode_mkWord _ (maskF_lt _ (by omega)) (by omega) (by omega) (by omega) (by omega)]
  simp (disch := omega) only [decodeFields.eq_46, dec33.eq_13, maskF_mod, maskOf_maskF, reg_val, ofNat8_val, ofNat4_val, imm13_parts, imm13_fields, imm18_parts, maskOf_small, Option.bind, Option.map, Option.isNone, Fin.is_lt, and_self, true_and, Bool.false_eq_true, if_true, if_false, Nat.zero_mod, Nat.mod_succ, Nat.reduceMod]
  exact legal_of w
theorem vfsgnj : ∀ d a b m c, Statement (.vfsgnj d a b m c) := by
  intro d a b m c w _
  rw [encode, decode_mkWord _ (maskF_lt _ (by omega)) (by omega) (by omega) (by omega) (by omega)]
  simp (disch := omega) only [decodeFields.eq_46, dec33.eq_14, maskF_mod, maskOf_maskF, reg_val, ofNat8_val, ofNat4_val, imm13_parts, imm13_fields, imm18_parts, maskOf_small, Option.bind, Option.map, Option.isNone, Fin.is_lt, and_self, true_and, Bool.false_eq_true, if_true, if_false, Nat.zero_mod, Nat.mod_succ, Nat.reduceMod]
  exact legal_of w
theorem vfsgnjn : ∀ d a b m c, Statement (.vfsgnjn d a b m c) := by
  intro d a b m c w _
  rw [encode, decode_mkWord _ (maskF_lt _ (by omega)) (by omega) (by omega) (by omega) (by omega)]
  simp (disch := omega) only [decodeFields.eq_46, dec33.eq_15, maskF_mod, maskOf_maskF, reg_val, ofNat8_val, ofNat4_val, imm13_parts, imm13_fields, imm18_parts, maskOf_small, Option.bind, Option.map, Option.isNone, Fin.is_lt, and_self, true_and, Bool.false_eq_true, if_true, if_false, Nat.zero_mod, Nat.mod_succ, Nat.reduceMod]
  exact legal_of w
theorem vfabs : ∀ d a m c, Statement (.vfabs d a m c) := by
  intro d a m c w _
  rw [encode, decode_mkWord _ (maskF_lt _ (by omega)) (by omega) (by omega) (by omega) (by omega)]
  simp (disch := omega) only [decodeFields.eq_46, dec33.eq_16, maskF_mod, maskOf_maskF, reg_val, ofNat8_val, ofNat4_val, imm13_parts, imm13_fields, imm18_parts, maskOf_small, Option.bind, Option.map, Option.isNone, Fin.is_lt, and_self, true_and, Bool.false_eq_true, if_true, if_false, Nat.zero_mod, Nat.mod_succ, Nat.reduceMod]
  exact legal_of w
theorem vexp2 : ∀ d a m c, Statement (.vexp2 d a m c) := by
  intro d a m c w _
  rw [encode, decode_mkWord _ (maskF_lt _ (by omega)) (by omega) (by omega) (by omega) (by omega)]
  simp (disch := omega) only [decodeFields.eq_47, dec34.eq_1, maskF_mod, maskOf_maskF, reg_val, ofNat8_val, ofNat4_val, imm13_parts, imm13_fields, imm18_parts, maskOf_small, Option.bind, Option.map, Option.isNone, Fin.is_lt, and_self, true_and, Bool.false_eq_true, if_true, if_false, Nat.zero_mod, Nat.mod_succ, Nat.reduceMod]
  exact legal_of w
theorem vlog2 : ∀ d a m c, Statement (.vlog2 d a m c) := by
  intro d a m c w _
  rw [encode, decode_mkWord _ (maskF_lt _ (by omega)) (by omega) (by omega) (by omega) (by omega)]
  simp (disch := omega) only [decodeFields.eq_47, dec34.eq_2, maskF_mod, maskOf_maskF, reg_val, ofNat8_val, ofNat4_val, imm13_parts, imm13_fields, imm18_parts, maskOf_small, Option.bind, Option.map, Option.isNone, Fin.is_lt, and_self, true_and, Bool.false_eq_true, if_true, if_false, Nat.zero_mod, Nat.mod_succ, Nat.reduceMod]
  exact legal_of w
theorem vrcp : ∀ d a m c, Statement (.vrcp d a m c) := by
  intro d a m c w _
  rw [encode, decode_mkWord _ (maskF_lt _ (by omega)) (by omega) (by omega) (by omega) (by omega)]
  simp (disch := omega) only [decodeFields.eq_47, dec34.eq_3, maskF_mod, maskOf_maskF, reg_val, ofNat8_val, ofNat4_val, imm13_parts, imm13_fields, imm18_parts, maskOf_small, Option.bind, Option.map, Option.isNone, Fin.is_lt, and_self, true_and, Bool.false_eq_true, if_true, if_false, Nat.zero_mod, Nat.mod_succ, Nat.reduceMod]
  exact legal_of w
theorem vrsqrt : ∀ d a m c, Statement (.vrsqrt d a m c) := by
  intro d a m c w _
  rw [encode, decode_mkWord _ (maskF_lt _ (by omega)) (by omega) (by omega) (by omega) (by omega)]
  simp (disch := omega) only [decodeFields.eq_47, dec34.eq_4, maskF_mod, maskOf_maskF, reg_val, ofNat8_val, ofNat4_val, imm13_parts, imm13_fields, imm18_parts, maskOf_small, Option.bind, Option.map, Option.isNone, Fin.is_lt, and_self, true_and, Bool.false_eq_true, if_true, if_false, Nat.zero_mod, Nat.mod_succ, Nat.reduceMod]
  exact legal_of w
theorem vtanh : ∀ d a m c, Statement (.vtanh d a m c) := by
  intro d a m c w _
  rw [encode, decode_mkWord _ (maskF_lt _ (by omega)) (by omega) (by omega) (by omega) (by omega)]
  simp (disch := omega) only [decodeFields.eq_47, dec34.eq_5, maskF_mod, maskOf_maskF, reg_val, ofNat8_val, ofNat4_val, imm13_parts, imm13_fields, imm18_parts, maskOf_small, Option.bind, Option.map, Option.isNone, Fin.is_lt, and_self, true_and, Bool.false_eq_true, if_true, if_false, Nat.zero_mod, Nat.mod_succ, Nat.reduceMod]
  exact legal_of w
theorem vsigm : ∀ d a m c, Statement (.vsigm d a m c) := by
  intro d a m c w _
  rw [encode, decode_mkWord _ (maskF_lt _ (by omega)) (by omega) (by omega) (by omega) (by omega)]
  simp (disch := omega) only [decodeFields.eq_47, dec34.eq_6, maskF_mod, maskOf_maskF, reg_val, ofNat8_val, ofNat4_val, imm13_parts, imm13_fields, imm18_parts, maskOf_small, Option.bind, Option.map, Option.isNone, Fin.is_lt, and_self, true_and, Bool.false_eq_true, if_true, if_false, Nat.zero_mod, Nat.mod_succ, Nat.reduceMod]
  exact legal_of w
theorem vslup : ∀ d a b m c, Statement (.vslup d a b m c) := by
  intro d a b m c w _
  rw [encode, decode_mkWord _ (maskF_lt _ (by omega)) (by omega) (by omega) (by omega) (by omega)]
  simp (disch := omega) only [decodeFields.eq_48, dec35.eq_1, maskF_mod, maskOf_maskF, reg_val, ofNat8_val, ofNat4_val, imm13_parts, imm13_fields, imm18_parts, maskOf_small, Option.bind, Option.map, Option.isNone, Fin.is_lt, and_self, true_and, Bool.false_eq_true, if_true, if_false, Nat.zero_mod, Nat.mod_succ, Nat.reduceMod]
  exact legal_of w
theorem vsldn : ∀ d a b m c, Statement (.vsldn d a b m c) := by
  intro d a b m c w _
  rw [encode, decode_mkWord _ (maskF_lt _ (by omega)) (by omega) (by omega) (by omega) (by omega)]
  simp (disch := omega) only [decodeFields.eq_48, dec35.eq_2, maskF_mod, maskOf_maskF, reg_val, ofNat8_val, ofNat4_val, imm13_parts, imm13_fields, imm18_parts, maskOf_small, Option.bind, Option.map, Option.isNone, Fin.is_lt, and_self, true_and, Bool.false_eq_true, if_true, if_false, Nat.zero_mod, Nat.mod_succ, Nat.reduceMod]
  exact legal_of w
theorem vrgat : ∀ d a b m c, Statement (.vrgat d a b m c) := by
  intro d a b m c w _
  rw [encode, decode_mkWord _ (maskF_lt _ (by omega)) (by omega) (by omega) (by omega) (by omega)]
  simp (disch := omega) only [decodeFields.eq_48, dec35.eq_3, maskF_mod, maskOf_maskF, reg_val, ofNat8_val, ofNat4_val, imm13_parts, imm13_fields, imm18_parts, maskOf_small, Option.bind, Option.map, Option.isNone, Fin.is_lt, and_self, true_and, Bool.false_eq_true, if_true, if_false, Nat.zero_mod, Nat.mod_succ, Nat.reduceMod]
  exact legal_of w
theorem vscat : ∀ d a b m c, Statement (.vscat d a b m c) := by
  intro d a b m c w _
  rw [encode, decode_mkWord _ (maskF_lt _ (by omega)) (by omega) (by omega) (by omega) (by omega)]
  simp (disch := omega) only [decodeFields.eq_48, dec35.eq_4, maskF_mod, maskOf_maskF, reg_val, ofNat8_val, ofNat4_val, imm13_parts, imm13_fields, imm18_parts, maskOf_small, Option.bind, Option.map, Option.isNone, Fin.is_lt, and_self, true_and, Bool.false_eq_true, if_true, if_false, Nat.zero_mod, Nat.mod_succ, Nat.reduceMod]
  exact legal_of w
theorem vcomp : ∀ d a m c, Statement (.vcomp d a m c) := by
  intro d a m c w _
  rw [encode, decode_mkWord _ (maskF_lt _ (by omega)) (by omega) (by omega) (by omega) (by omega)]
  simp (disch := omega) only [decodeFields.eq_48, dec35.eq_5, maskF_mod, maskOf_maskF, reg_val, ofNat8_val, ofNat4_val, imm13_parts, imm13_fields, imm18_parts, maskOf_small, Option.bind, Option.map, Option.isNone, Fin.is_lt, and_self, true_and, Bool.false_eq_true, if_true, if_false, Nat.zero_mod, Nat.mod_succ, Nat.reduceMod]
  exact legal_of w
theorem vcapp : ∀ a b m c, Statement (.vcapp a b m c) := by
  intro a b m c w _
  rw [encode, decode_mkWord _ (maskF_lt _ (by omega)) (by omega) (by omega) (by omega) (by omega)]
  simp (disch := omega) only [decodeFields.eq_48, dec35.eq_6, maskF_mod, maskOf_maskF, reg_val, ofNat8_val, ofNat4_val, imm13_parts, imm13_fields, imm18_parts, maskOf_small, Option.bind, Option.map, Option.isNone, Fin.is_lt, and_self, true_and, Bool.false_eq_true, if_true, if_false, Nat.zero_mod, Nat.mod_succ, Nat.reduceMod]
  exact legal_of w
theorem vredsum : ∀ d a b m c, Statement (.vredsum d a b m c) := by
  intro d a b m c w _
  rw [encode, decode_mkWord _ (maskF_lt _ (by omega)) (by omega) (by omega) (by omega) (by omega)]
  simp (disch := omega) only [decodeFields.eq_48, dec35.eq_7, maskF_mod, maskOf_maskF, reg_val, ofNat8_val, ofNat4_val, imm13_parts, imm13_fields, imm18_parts, maskOf_small, Option.bind, Option.map, Option.isNone, Fin.is_lt, and_self, true_and, Bool.false_eq_true, if_true, if_false, Nat.zero_mod, Nat.mod_succ, Nat.reduceMod]
  exact legal_of w
theorem vredmax : ∀ d a b m c, Statement (.vredmax d a b m c) := by
  intro d a b m c w _
  rw [encode, decode_mkWord _ (maskF_lt _ (by omega)) (by omega) (by omega) (by omega) (by omega)]
  simp (disch := omega) only [decodeFields.eq_48, dec35.eq_8, maskF_mod, maskOf_maskF, reg_val, ofNat8_val, ofNat4_val, imm13_parts, imm13_fields, imm18_parts, maskOf_small, Option.bind, Option.map, Option.isNone, Fin.is_lt, and_self, true_and, Bool.false_eq_true, if_true, if_false, Nat.zero_mod, Nat.mod_succ, Nat.reduceMod]
  exact legal_of w
theorem vredmin : ∀ d a b m c, Statement (.vredmin d a b m c) := by
  intro d a b m c w _
  rw [encode, decode_mkWord _ (maskF_lt _ (by omega)) (by omega) (by omega) (by omega) (by omega)]
  simp (disch := omega) only [decodeFields.eq_48, dec35.eq_9, maskF_mod, maskOf_maskF, reg_val, ofNat8_val, ofNat4_val, imm13_parts, imm13_fields, imm18_parts, maskOf_small, Option.bind, Option.map, Option.isNone, Fin.is_lt, and_self, true_and, Bool.false_eq_true, if_true, if_false, Nat.zero_mod, Nat.mod_succ, Nat.reduceMod]
  exact legal_of w
theorem vfredsum : ∀ d a b m c, Statement (.vfredsum d a b m c) := by
  intro d a b m c w _
  rw [encode, decode_mkWord _ (maskF_lt _ (by omega)) (by omega) (by omega) (by omega) (by omega)]
  simp (disch := omega) only [decodeFields.eq_48, dec35.eq_10, maskF_mod, maskOf_maskF, reg_val, ofNat8_val, ofNat4_val, imm13_parts, imm13_fields, imm18_parts, maskOf_small, Option.bind, Option.map, Option.isNone, Fin.is_lt, and_self, true_and, Bool.false_eq_true, if_true, if_false, Nat.zero_mod, Nat.mod_succ, Nat.reduceMod]
  exact legal_of w
theorem vid : ∀ d m c, Statement (.vid d m c) := by
  intro d m c w _
  rw [encode, decode_mkWord _ (maskF_lt _ (by omega)) (by omega) (by omega) (by omega) (by omega)]
  simp (disch := omega) only [decodeFields.eq_48, dec35.eq_11, maskF_mod, maskOf_maskF, reg_val, ofNat8_val, ofNat4_val, imm13_parts, imm13_fields, imm18_parts, maskOf_small, Option.bind, Option.map, Option.isNone, Fin.is_lt, and_self, true_and, Bool.false_eq_true, if_true, if_false, Nat.zero_mod, Nat.mod_succ, Nat.reduceMod]
  exact legal_of w
theorem viota : ∀ d a m c, Statement (.viota d a m c) := by
  intro d a m c w _
  rw [encode, decode_mkWord _ (maskF_lt _ (by omega)) (by omega) (by omega) (by omega) (by omega)]
  simp (disch := omega) only [decodeFields.eq_48, dec35.eq_12, maskF_mod, maskOf_maskF, reg_val, ofNat8_val, ofNat4_val, imm13_parts, imm13_fields, imm18_parts, maskOf_small, Option.bind, Option.map, Option.isNone, Fin.is_lt, and_self, true_and, Bool.false_eq_true, if_true, if_false, Nat.zero_mod, Nat.mod_succ, Nat.reduceMod]
  exact legal_of w
theorem vmvsg : ∀ d a m c, Statement (.vmvsg d a m c) := by
  intro d a m c w _
  rw [encode, decode_mkWord _ (maskF_lt _ (by omega)) (by omega) (by omega) (by omega) (by omega)]
  simp (disch := omega) only [decodeFields.eq_48, dec35.eq_13, maskF_mod, maskOf_maskF, reg_val, ofNat8_val, ofNat4_val, imm13_parts, imm13_fields, imm18_parts, maskOf_small, Option.bind, Option.map, Option.isNone, Fin.is_lt, and_self, true_and, Bool.false_eq_true, if_true, if_false, Nat.zero_mod, Nat.mod_succ, Nat.reduceMod]
  exact legal_of w
theorem vmvgs : ∀ d a m c, Statement (.vmvgs d a m c) := by
  intro d a m c w _
  rw [encode, decode_mkWord _ (maskF_lt _ (by omega)) (by omega) (by omega) (by omega) (by omega)]
  simp (disch := omega) only [decodeFields.eq_48, dec35.eq_14, maskF_mod, maskOf_maskF, reg_val, ofNat8_val, ofNat4_val, imm13_parts, imm13_fields, imm18_parts, maskOf_small, Option.bind, Option.map, Option.isNone, Fin.is_lt, and_self, true_and, Bool.false_eq_true, if_true, if_false, Nat.zero_mod, Nat.mod_succ, Nat.reduceMod]
  exact legal_of w
theorem vbcast : ∀ d a m c, Statement (.vbcast d a m c) := by
  intro d a m c w _
  rw [encode, decode_mkWord _ (maskF_lt _ (by omega)) (by omega) (by omega) (by omega) (by omega)]
  simp (disch := omega) only [decodeFields.eq_48, dec35.eq_15, maskF_mod, maskOf_maskF, reg_val, ofNat8_val, ofNat4_val, imm13_parts, imm13_fields, imm18_parts, maskOf_small, Option.bind, Option.map, Option.isNone, Fin.is_lt, and_self, true_and, Bool.false_eq_true, if_true, if_false, Nat.zero_mod, Nat.mod_succ, Nat.reduceMod]
  exact legal_of w
theorem vfredmax : ∀ d a b m c, Statement (.vfredmax d a b m c) := by
  intro d a b m c w _
  rw [encode, decode_mkWord _ (maskF_lt _ (by omega)) (by omega) (by omega) (by omega) (by omega)]
  simp (disch := omega) only [decodeFields.eq_48, dec35.eq_16, maskF_mod, maskOf_maskF, reg_val, ofNat8_val, ofNat4_val, imm13_parts, imm13_fields, imm18_parts, maskOf_small, Option.bind, Option.map, Option.isNone, Fin.is_lt, and_self, true_and, Bool.false_eq_true, if_true, if_false, Nat.zero_mod, Nat.mod_succ, Nat.reduceMod]
  exact legal_of w
theorem vfetch : ∀ n, Statement (.vfetch n) := by
  intro n w _
  rw [encode, decode_mkWord _ (by omega) (by omega) (by omega) (by omega) (by omega)]
  have h1 : n.toNat / 1024 < 64 := by omega
  have h2 : BitVec.ofNat 16 (1024 * (n.toNat / 1024) + 32 * (n.toNat / 32 % 32) + n.toNat % 32) = n := by
    apply BitVec.eq_of_toNat_eq; simp only [BitVec.toNat_ofNat]; omega
  simp (disch := omega) only [decodeFields.eq_49, dec36.eq_1, h1, h2, reg_val, ofNat8_val, ofNat4_val, imm13_parts, imm13_fields, imm18_parts, maskOf_small, Option.bind, Option.map, Option.isNone, Fin.is_lt, and_self, true_and, Bool.false_eq_true, if_true, if_false, Nat.zero_mod, Nat.mod_succ, Nat.reduceMod]
  exact legal_of w
theorem vtfetch : ∀ n m, Statement (.vtfetch n m) := by
  intro n m w _
  rw [encode, decode_mkWord _ (by omega) (by omega) (by omega) (by omega) (by omega)]
  have h1 : Fin.ofNat 8 (8 * (n.toNat % 4) + m.val) = m := by
    apply Fin.ext; simp only [Fin.ofNat, Fin.val_mk]; omega
  have h2 : BitVec.ofNat 15 (128 * (n.toNat / 128) + 4 * (n.toNat / 4 % 32) + (8 * (n.toNat % 4) + m.val) / 8) = n := by
    apply BitVec.eq_of_toNat_eq; simp only [BitVec.toNat_ofNat]; omega
  simp (disch := omega) only [decodeFields.eq_49, dec36.eq_2, h1, h2, reg_val, ofNat8_val, ofNat4_val, imm13_parts, imm13_fields, imm18_parts, maskOf_small, Option.bind, Option.map, Option.isNone, Fin.is_lt, and_self, true_and, Bool.false_eq_true, if_true, if_false, Nat.zero_mod, Nat.mod_succ, Nat.reduceMod]
  exact legal_of w
theorem vstop : Statement .vstop := by
  intro w _
  rw [encode, decode_mkWord _ (by omega) (by omega) (by omega) (by omega) (by omega)]
  simp (disch := omega) only [decodeFields.eq_49, dec36.eq_3, reg_val, ofNat8_val, ofNat4_val, imm13_parts, imm13_fields, imm18_parts, maskOf_small, Option.bind, Option.map, Option.isNone, Fin.is_lt, and_self, true_and, Bool.false_eq_true, if_true, if_false, Nat.zero_mod, Nat.mod_succ, Nat.reduceMod]
  exact legal_of w
theorem vskip : ∀ m i, Statement (.vskip m i) := by
  intro m i w _
  rw [encode, decode_mkWord _ (by omega) (by omega) (by omega) (by omega) (by omega)]
  simp (disch := omega) only [decodeFields.eq_49, dec36.eq_4, reg_val, ofNat8_val, ofNat4_val, imm13_parts, imm13_fields, imm18_parts, maskOf_small, Option.bind, Option.map, Option.isNone, Fin.is_lt, and_self, true_and, Bool.false_eq_true, if_true, if_false, Nat.zero_mod, Nat.mod_succ, Nat.reduceMod]
  exact legal_of w
theorem vlset : ∀ n i, Statement (.vlset n i) := by
  intro n i w _
  rw [encode, decode_mkWord _ (by omega) (by omega) (by omega) (by omega) (by omega)]
  simp (disch := omega) only [decodeFields.eq_49, dec36.eq_5, reg_val, ofNat8_val, ofNat4_val, imm13_parts, imm13_fields, imm18_parts, maskOf_small, Option.bind, Option.map, Option.isNone, Fin.is_lt, and_self, true_and, Bool.false_eq_true, if_true, if_false, Nat.zero_mod, Nat.mod_succ, Nat.reduceMod]
  exact legal_of w
theorem vlbr : ∀ n i, Statement (.vlbr n i) := by
  intro n i w _
  rw [encode, decode_mkWord _ (by omega) (by omega) (by omega) (by omega) (by omega)]
  simp (disch := omega) only [decodeFields.eq_49, dec36.eq_6, reg_val, ofNat8_val, ofNat4_val, imm13_parts, imm13_fields, imm18_parts, maskOf_small, Option.bind, Option.map, Option.isNone, Fin.is_lt, and_self, true_and, Bool.false_eq_true, if_true, if_false, Nat.zero_mod, Nat.mod_succ, Nat.reduceMod]
  exact legal_of w
theorem vreply : ∀ m k, Statement (.vreply m k) := by
  intro m k w _
  rw [encode, decode_mkWord _ (by omega) (by omega) (by omega) (by omega) (by omega)]
  simp (disch := omega) only [decodeFields.eq_49, dec36.eq_7, reg_val, ofNat8_val, ofNat4_val, imm13_parts, imm13_fields, imm18_parts, maskOf_small, Option.bind, Option.map, Option.isNone, Fin.is_lt, and_self, true_and, Bool.false_eq_true, if_true, if_false, Nat.zero_mod, Nat.mod_succ, Nat.reduceMod]
  exact legal_of w
theorem vfetchr : ∀ a, Statement (.vfetchr a) := by
  intro a w _
  rw [encode, decode_mkWord _ (by omega) (by omega) (by omega) (by omega) (by omega)]
  simp (disch := omega) only [decodeFields.eq_49, dec36.eq_8, reg_val, ofNat8_val, ofNat4_val, imm13_parts, imm13_fields, imm18_parts, maskOf_small, Option.bind, Option.map, Option.isNone, Fin.is_lt, and_self, true_and, Bool.false_eq_true, if_true, if_false, Nat.zero_mod, Nat.mod_succ, Nat.reduceMod]
  exact legal_of w
theorem vxadd : ∀ d a b m c, Statement (.vxadd d a b m c) := by
  intro d a b m c w _
  rw [encode, decode_mkWord _ (maskF_lt _ (by omega)) (by omega) (by omega) (by omega) (by omega)]
  simp (disch := omega) only [decodeFields.eq_50, dec37.eq_1, maskF_mod, maskOf_maskF, reg_val, ofNat8_val, ofNat4_val, imm13_parts, imm13_fields, imm18_parts, maskOf_small, Option.bind, Option.map, Option.isNone, Fin.is_lt, and_self, true_and, Bool.false_eq_true, if_true, if_false, Nat.zero_mod, Nat.mod_succ, Nat.reduceMod]
  exact legal_of w
theorem vxfadd : ∀ d a b m c, Statement (.vxfadd d a b m c) := by
  intro d a b m c w _
  rw [encode, decode_mkWord _ (maskF_lt _ (by omega)) (by omega) (by omega) (by omega) (by omega)]
  simp (disch := omega) only [decodeFields.eq_50, dec37.eq_2, maskF_mod, maskOf_maskF, reg_val, ofNat8_val, ofNat4_val, imm13_parts, imm13_fields, imm18_parts, maskOf_small, Option.bind, Option.map, Option.isNone, Fin.is_lt, and_self, true_and, Bool.false_eq_true, if_true, if_false, Nat.zero_mod, Nat.mod_succ, Nat.reduceMod]
  exact legal_of w
theorem vxmax : ∀ d a b m c, Statement (.vxmax d a b m c) := by
  intro d a b m c w _
  rw [encode, decode_mkWord _ (maskF_lt _ (by omega)) (by omega) (by omega) (by omega) (by omega)]
  simp (disch := omega) only [decodeFields.eq_50, dec37.eq_3, maskF_mod, maskOf_maskF, reg_val, ofNat8_val, ofNat4_val, imm13_parts, imm13_fields, imm18_parts, maskOf_small, Option.bind, Option.map, Option.isNone, Fin.is_lt, and_self, true_and, Bool.false_eq_true, if_true, if_false, Nat.zero_mod, Nat.mod_succ, Nat.reduceMod]
  exact legal_of w
theorem vxmin : ∀ d a b m c, Statement (.vxmin d a b m c) := by
  intro d a b m c w _
  rw [encode, decode_mkWord _ (maskF_lt _ (by omega)) (by omega) (by omega) (by omega) (by omega)]
  simp (disch := omega) only [decodeFields.eq_50, dec37.eq_4, maskF_mod, maskOf_maskF, reg_val, ofNat8_val, ofNat4_val, imm13_parts, imm13_fields, imm18_parts, maskOf_small, Option.bind, Option.map, Option.isNone, Fin.is_lt, and_self, true_and, Bool.false_eq_true, if_true, if_false, Nat.zero_mod, Nat.mod_succ, Nat.reduceMod]
  exact legal_of w
theorem vxand : ∀ d a b m c, Statement (.vxand d a b m c) := by
  intro d a b m c w _
  rw [encode, decode_mkWord _ (maskF_lt _ (by omega)) (by omega) (by omega) (by omega) (by omega)]
  simp (disch := omega) only [decodeFields.eq_50, dec37.eq_5, maskF_mod, maskOf_maskF, reg_val, ofNat8_val, ofNat4_val, imm13_parts, imm13_fields, imm18_parts, maskOf_small, Option.bind, Option.map, Option.isNone, Fin.is_lt, and_self, true_and, Bool.false_eq_true, if_true, if_false, Nat.zero_mod, Nat.mod_succ, Nat.reduceMod]
  exact legal_of w
theorem vxorAtomic : ∀ d a b m c, Statement (.vxorAtomic d a b m c) := by
  intro d a b m c w _
  rw [encode, decode_mkWord _ (maskF_lt _ (by omega)) (by omega) (by omega) (by omega) (by omega)]
  simp (disch := omega) only [decodeFields.eq_50, dec37.eq_6, maskF_mod, maskOf_maskF, reg_val, ofNat8_val, ofNat4_val, imm13_parts, imm13_fields, imm18_parts, maskOf_small, Option.bind, Option.map, Option.isNone, Fin.is_lt, and_self, true_and, Bool.false_eq_true, if_true, if_false, Nat.zero_mod, Nat.mod_succ, Nat.reduceMod]
  exact legal_of w
theorem vxmaxu : ∀ d a b m c, Statement (.vxmaxu d a b m c) := by
  intro d a b m c w _
  rw [encode, decode_mkWord _ (maskF_lt _ (by omega)) (by omega) (by omega) (by omega) (by omega)]
  simp (disch := omega) only [decodeFields.eq_50, dec37.eq_7, maskF_mod, maskOf_maskF, reg_val, ofNat8_val, ofNat4_val, imm13_parts, imm13_fields, imm18_parts, maskOf_small, Option.bind, Option.map, Option.isNone, Fin.is_lt, and_self, true_and, Bool.false_eq_true, if_true, if_false, Nat.zero_mod, Nat.mod_succ, Nat.reduceMod]
  exact legal_of w
theorem vxminu : ∀ d a b m c, Statement (.vxminu d a b m c) := by
  intro d a b m c w _
  rw [encode, decode_mkWord _ (maskF_lt _ (by omega)) (by omega) (by omega) (by omega) (by omega)]
  simp (disch := omega) only [decodeFields.eq_50, dec37.eq_8, maskF_mod, maskOf_maskF, reg_val, ofNat8_val, ofNat4_val, imm13_parts, imm13_fields, imm18_parts, maskOf_small, Option.bind, Option.map, Option.isNone, Fin.is_lt, and_self, true_and, Bool.false_eq_true, if_true, if_false, Nat.zero_mod, Nat.mod_succ, Nat.reduceMod]
  exact legal_of w
theorem vcvtf : ∀ d a m c, Statement (.vcvtf d a m c) := by
  intro d a m c w _
  rw [encode, decode_mkWord _ (maskF_lt _ (by omega)) (by omega) (by omega) (by omega) (by omega)]
  simp (disch := omega) only [decodeFields.eq_51, dec38.eq_1, maskF_mod, maskOf_maskF, reg_val, ofNat8_val, ofNat4_val, imm13_parts, imm13_fields, imm18_parts, maskOf_small, Option.bind, Option.map, Option.isNone, Fin.is_lt, and_self, true_and, Bool.false_eq_true, if_true, if_false, Nat.zero_mod, Nat.mod_succ, Nat.reduceMod]
  exact legal_of w
theorem vcvtfi : ∀ d a m c, Statement (.vcvtfi d a m c) := by
  intro d a m c w _
  rw [encode, decode_mkWord _ (maskF_lt _ (by omega)) (by omega) (by omega) (by omega) (by omega)]
  simp (disch := omega) only [decodeFields.eq_51, dec38.eq_2, maskF_mod, maskOf_maskF, reg_val, ofNat8_val, ofNat4_val, imm13_parts, imm13_fields, imm18_parts, maskOf_small, Option.bind, Option.map, Option.isNone, Fin.is_lt, and_self, true_and, Bool.false_eq_true, if_true, if_false, Nat.zero_mod, Nat.mod_succ, Nat.reduceMod]
  exact legal_of w
theorem vcvtif : ∀ d a m c, Statement (.vcvtif d a m c) := by
  intro d a m c w _
  rw [encode, decode_mkWord _ (maskF_lt _ (by omega)) (by omega) (by omega) (by omega) (by omega)]
  simp (disch := omega) only [decodeFields.eq_51, dec38.eq_3, maskF_mod, maskOf_maskF, reg_val, ofNat8_val, ofNat4_val, imm13_parts, imm13_fields, imm18_parts, maskOf_small, Option.bind, Option.map, Option.isNone, Fin.is_lt, and_self, true_and, Bool.false_eq_true, if_true, if_false, Nat.zero_mod, Nat.mod_succ, Nat.reduceMod]
  exact legal_of w
theorem vdenc : ∀ d a m c, Statement (.vdenc d a m c) := by
  intro d a m c w _
  rw [encode, decode_mkWord _ (maskF_lt _ (by omega)) (by omega) (by omega) (by omega) (by omega)]
  simp (disch := omega) only [decodeFields.eq_51, dec38.eq_4, maskF_mod, maskOf_maskF, reg_val, ofNat8_val, ofNat4_val, imm13_parts, imm13_fields, imm18_parts, maskOf_small, Option.bind, Option.map, Option.isNone, Fin.is_lt, and_self, true_and, Bool.false_eq_true, if_true, if_false, Nat.zero_mod, Nat.mod_succ, Nat.reduceMod]
  exact legal_of w
theorem vddec : ∀ d a m c, Statement (.vddec d a m c) := by
  intro d a m c w _
  rw [encode, decode_mkWord _ (maskF_lt _ (by omega)) (by omega) (by omega) (by omega) (by omega)]
  simp (disch := omega) only [decodeFields.eq_51, dec38.eq_5, maskF_mod, maskOf_maskF, reg_val, ofNat8_val, ofNat4_val, imm13_parts, imm13_fields, imm18_parts, maskOf_small, Option.bind, Option.map, Option.isNone, Fin.is_lt, and_self, true_and, Bool.false_eq_true, if_true, if_false, Nat.zero_mod, Nat.mod_succ, Nat.reduceMod]
  exact legal_of w
theorem vscl : ∀ d a m c, Statement (.vscl d a m c) := by
  intro d a m c w _
  rw [encode, decode_mkWord _ (maskF_lt _ (by omega)) (by omega) (by omega) (by omega) (by omega)]
  simp (disch := omega) only [decodeFields.eq_51, dec38.eq_6, maskF_mod, maskOf_maskF, reg_val, ofNat8_val, ofNat4_val, imm13_parts, imm13_fields, imm18_parts, maskOf_small, Option.bind, Option.map, Option.isNone, Fin.is_lt, and_self, true_and, Bool.false_eq_true, if_true, if_false, Nat.zero_mod, Nat.mod_succ, Nat.reduceMod]
  exact legal_of w
theorem vqnt : ∀ d a m c, Statement (.vqnt d a m c) := by
  intro d a m c w _
  rw [encode, decode_mkWord _ (maskF_lt _ (by omega)) (by omega) (by omega) (by omega) (by omega)]
  simp (disch := omega) only [decodeFields.eq_51, dec38.eq_7, maskF_mod, maskOf_maskF, reg_val, ofNat8_val, ofNat4_val, imm13_parts, imm13_fields, imm18_parts, maskOf_small, Option.bind, Option.map, Option.isNone, Fin.is_lt, and_self, true_and, Bool.false_eq_true, if_true, if_false, Nat.zero_mod, Nat.mod_succ, Nat.reduceMod]
  exact legal_of w
theorem mma : ∀ t b a asrc tr i32 accum mm1 c, Statement (.mma t b a asrc tr i32 accum mm1 c) := by
  intro t b a asrc tr i32 accum mm1 c w _
  rw [encode, decode_mkTile _ (by first | omega | exact Bool.toNat_lt _) (by first | omega | exact Bool.toNat_lt _) (by first | omega | exact Bool.toNat_lt _) (by first | omega | exact Bool.toNat_lt _) (by first | omega | exact lt_of_lt_of_le (Bool.toNat_lt _) (by omega)) (by first | omega | exact Bool.toNat_lt _) (by first | omega | exact Bool.toNat_lt _) (by first | omega | exact Bool.toNat_lt _) (by omega) (by first | omega | exact Bool.toNat_lt _) (by first | omega | exact Bool.toNat_lt _) (by first | omega | exact Bool.toNat_lt _)]
  have h1 : (asrc.toNat == 1) = asrc := by cases asrc <;> rfl
  have h2 : (tr.toNat == 1) = tr := by cases tr <;> rfl
  have h3 : (i32.toNat == 1) = i32 := by cases i32 <;> rfl
  have h4 : (accum.toNat == 1) = accum := by cases accum <;> rfl
  have h5 : i32.toNat < 2 := Bool.toNat_lt _
  have h6 : asrc.toNat = 1 → a.val % 2 = 0 := by cases asrc <;> simp_all [Instr.wf]
  simp (disch := omega) only [decodeTile, h1, h2, h3, h4, h5, if_pos h6, reg_val, ofNat8_val, ofNat4_val, imm13_parts, imm13_fields, imm18_parts, maskOf_small, Option.bind, Option.map, Option.isNone, Fin.is_lt, and_self, true_and, Bool.false_eq_true, if_true, if_false, Nat.zero_mod, Nat.mod_succ, Nat.reduceMod]
  exact legal_of w
theorem mzero : ∀ t c, Statement (.mzero t c) := by
  intro t c w _
  rw [encode, decode_mkTile _ (by first | omega | exact Bool.toNat_lt _) (by first | omega | exact Bool.toNat_lt _) (by first | omega | exact Bool.toNat_lt _) (by first | omega | exact Bool.toNat_lt _) (by first | omega | exact lt_of_lt_of_le (Bool.toNat_lt _) (by omega)) (by first | omega | exact Bool.toNat_lt _) (by first | omega | exact Bool.toNat_lt _) (by first | omega | exact Bool.toNat_lt _) (by omega) (by first | omega | exact Bool.toNat_lt _) (by first | omega | exact Bool.toNat_lt _) (by first | omega | exact Bool.toNat_lt _)]
  simp (disch := omega) only [decodeTile, reg_val, ofNat8_val, ofNat4_val, imm13_parts, imm13_fields, imm18_parts, maskOf_small, Option.bind, Option.map, Option.isNone, Fin.is_lt, and_self, true_and, Bool.false_eq_true, if_true, if_false, Nat.zero_mod, Nat.mod_succ, Nat.reduceMod]
  exact legal_of w
theorem mrow : ∀ d t row fmt m c, Statement (.mrow d t row fmt m c) := by
  intro d t row fmt m c w _
  rw [encode, decode_mkTile _ (by first | omega | exact Bool.toNat_lt _) (by first | omega | exact Bool.toNat_lt _) (by first | omega | exact Bool.toNat_lt _) (by first | omega | exact Bool.toNat_lt _) (by first | omega | exact lt_of_lt_of_le (Bool.toNat_lt _) (by omega)) (by first | omega | exact Bool.toNat_lt _) (by first | omega | exact Bool.toNat_lt _) (by first | omega | exact Bool.toNat_lt _) (maskF_lt _ (by omega)) (by first | omega | exact Bool.toNat_lt _) (by first | omega | exact Bool.toNat_lt _) (by first | omega | exact Bool.toNat_lt _)]
  have h1 : fmt.val < 7 := by have := fmt.isLt; simp [Instr.wf] at w; omega
  simp (disch := omega) only [decodeTile, maskF_mod, maskOf_maskF, h1, reg_val, ofNat8_val, ofNat4_val, imm13_parts, imm13_fields, imm18_parts, maskOf_small, Option.bind, Option.map, Option.isNone, Fin.is_lt, and_self, true_and, Bool.false_eq_true, if_true, if_false, Nat.zero_mod, Nat.mod_succ, Nat.reduceMod]
  exact legal_of w
theorem mstr : ∀ t d a b fmt m c, Statement (.mstr t d a b fmt m c) := by
  intro t d a b fmt m c w _
  rw [encode, decode_mkTile _ (by first | omega | exact Bool.toNat_lt _) (by first | omega | exact Bool.toNat_lt _) (by first | omega | exact Bool.toNat_lt _) (by first | omega | exact Bool.toNat_lt _) (by first | omega | exact lt_of_lt_of_le (Bool.toNat_lt _) (by omega)) (by first | omega | exact Bool.toNat_lt _) (by first | omega | exact Bool.toNat_lt _) (by first | omega | exact Bool.toNat_lt _) (maskF_lt _ (by omega)) (by first | omega | exact Bool.toNat_lt _) (by first | omega | exact Bool.toNat_lt _) (by first | omega | exact Bool.toNat_lt _)]
  have h1 : fmt.val < 7 := by have := fmt.isLt; simp [Instr.wf] at w; omega
  simp (disch := omega) only [decodeTile, maskF_mod, maskOf_maskF, h1, reg_val, ofNat8_val, ofNat4_val, imm13_parts, imm13_fields, imm18_parts, maskOf_small, Option.bind, Option.map, Option.isNone, Fin.is_lt, and_self, true_and, Bool.false_eq_true, if_true, if_false, Nat.zero_mod, Nat.mod_succ, Nat.reduceMod]
  exact legal_of w
theorem mstx : ∀ t d a b fmt m c, Statement (.mstx t d a b fmt m c) := by
  intro t d a b fmt m c w _
  rw [encode, decode_mkTile _ (by first | omega | exact Bool.toNat_lt _) (by first | omega | exact Bool.toNat_lt _) (by first | omega | exact Bool.toNat_lt _) (by first | omega | exact Bool.toNat_lt _) (by first | omega | exact lt_of_lt_of_le (Bool.toNat_lt _) (by omega)) (by first | omega | exact Bool.toNat_lt _) (by first | omega | exact Bool.toNat_lt _) (by first | omega | exact Bool.toNat_lt _) (maskF_lt _ (by omega)) (by first | omega | exact Bool.toNat_lt _) (by first | omega | exact Bool.toNat_lt _) (by first | omega | exact Bool.toNat_lt _)]
  have h1 : fmt.val < 7 := by have := fmt.isLt; simp [Instr.wf] at w; omega
  simp (disch := omega) only [decodeTile, maskF_mod, maskOf_maskF, h1, reg_val, ofNat8_val, ofNat4_val, imm13_parts, imm13_fields, imm18_parts, maskOf_small, Option.bind, Option.map, Option.isNone, Fin.is_lt, and_self, true_and, Bool.false_eq_true, if_true, if_false, Nat.zero_mod, Nat.mod_succ, Nat.reduceMod]
  exact legal_of w
theorem cAddi : ∀ x n, Statement (.cAddi x n) := by
  intro x n w _
  rw [encode, decode_mkParcel (by first | omega | exact Bool.toNat_lt _) (by omega) (by omega) (by omega)]
  have h2 : BitVec.ofNat 6 (32 * (n.toNat / 32) + n.toNat % 32) = n := by
    apply BitVec.eq_of_toNat_eq; simp only [BitVec.toNat_ofNat]; omega
  have hx : x.val ≠ 0 := of_decide_eq_true w
  simp (disch := omega) only [decodeParcel.eq_1, h2, ne_eq, hx, not_false_iff, reg_val, ofNat8_val, ofNat4_val, imm13_parts, imm13_fields, imm18_parts, maskOf_small, Option.bind, Option.map, Option.isNone, Fin.is_lt, and_self, true_and, Bool.false_eq_true, if_true, if_false, Nat.zero_mod, Nat.mod_succ, Nat.reduceMod]
  exact legal_of w
theorem cLi : ∀ x n, Statement (.cLi x n) := by
  intro x n w _
  rw [encode, decode_mkParcel (by first | omega | exact Bool.toNat_lt _) (by omega) (by omega) (by omega)]
  have h2 : BitVec.ofNat 6 (32 * (n.toNat / 32) + n.toNat % 32) = n := by
    apply BitVec.eq_of_toNat_eq; simp only [BitVec.toNat_ofNat]; omega
  have hx : x.val ≠ 0 := of_decide_eq_true w
  simp (disch := omega) only [decodeParcel.eq_2, h2, ne_eq, hx, not_false_iff, reg_val, ofNat8_val, ofNat4_val, imm13_parts, imm13_fields, imm18_parts, maskOf_small, Option.bind, Option.map, Option.isNone, Fin.is_lt, and_self, true_and, Bool.false_eq_true, if_true, if_false, Nat.zero_mod, Nat.mod_succ, Nat.reduceMod]
  exact legal_of w
theorem cMv : ∀ x y, Statement (.cMv x y) := by
  intro x y w _
  rw [encode, decode_mkParcel (by first | omega | exact Bool.toNat_lt _) (by omega) (by omega) (by omega)]
  have hx : x.val ≠ 0 := of_decide_eq_true w
  simp (disch := omega) only [decodeParcel.eq_3, ne_eq, hx, not_false_iff, reg_val, ofNat8_val, ofNat4_val, imm13_parts, imm13_fields, imm18_parts, maskOf_small, Option.bind, Option.map, Option.isNone, Fin.is_lt, and_self, true_and, Bool.false_eq_true, if_true, if_false, Nat.zero_mod, Nat.mod_succ, Nat.reduceMod]
  exact legal_of w
theorem cAdd : ∀ x y, Statement (.cAdd x y) := by
  intro x y w _
  rw [encode, decode_mkParcel (by first | omega | exact Bool.toNat_lt _) (by omega) (by omega) (by omega)]
  have hx : x.val ≠ 0 := of_decide_eq_true w
  simp (disch := omega) only [decodeParcel.eq_4, ne_eq, hx, not_false_iff, reg_val, ofNat8_val, ofNat4_val, imm13_parts, imm13_fields, imm18_parts, maskOf_small, Option.bind, Option.map, Option.isNone, Fin.is_lt, and_self, true_and, Bool.false_eq_true, if_true, if_false, Nat.zero_mod, Nat.mod_succ, Nat.reduceMod]
  exact legal_of w
theorem cSub : ∀ x y, Statement (.cSub x y) := by
  intro x y w _
  rw [encode, decode_mkParcel (by first | omega | exact Bool.toNat_lt _) (by omega) (by omega) (by omega)]
  have hx : x.val ≠ 0 := of_decide_eq_true w
  simp (disch := omega) only [decodeParcel.eq_5, ne_eq, hx, not_false_iff, reg_val, ofNat8_val, ofNat4_val, imm13_parts, imm13_fields, imm18_parts, maskOf_small, Option.bind, Option.map, Option.isNone, Fin.is_lt, and_self, true_and, Bool.false_eq_true, if_true, if_false, Nat.zero_mod, Nat.mod_succ, Nat.reduceMod]
  exact legal_of w
theorem cAnd : ∀ x y, Statement (.cAnd x y) := by
  intro x y w _
  rw [encode, decode_mkParcel (by first | omega | exact Bool.toNat_lt _) (by omega) (by omega) (by omega)]
  have hx : x.val ≠ 0 := of_decide_eq_true w
  simp (disch := omega) only [decodeParcel.eq_6, ne_eq, hx, not_false_iff, reg_val, ofNat8_val, ofNat4_val, imm13_parts, imm13_fields, imm18_parts, maskOf_small, Option.bind, Option.map, Option.isNone, Fin.is_lt, and_self, true_and, Bool.false_eq_true, if_true, if_false, Nat.zero_mod, Nat.mod_succ, Nat.reduceMod]
  exact legal_of w
theorem cShli : ∀ x n, Statement (.cShli x n) := by
  intro x n w _
  rw [encode, decode_mkParcel (by first | omega | exact Bool.toNat_lt _) (by omega) (by omega) (by omega)]
  have h2 : BitVec.ofNat 6 (32 * (n.toNat / 32) + n.toNat % 32) = n := by
    apply BitVec.eq_of_toNat_eq; simp only [BitVec.toNat_ofNat]; omega
  have hx : x.val ≠ 0 := of_decide_eq_true w
  simp (disch := omega) only [decodeParcel.eq_7, h2, ne_eq, hx, not_false_iff, reg_val, ofNat8_val, ofNat4_val, imm13_parts, imm13_fields, imm18_parts, maskOf_small, Option.bind, Option.map, Option.isNone, Fin.is_lt, and_self, true_and, Bool.false_eq_true, if_true, if_false, Nat.zero_mod, Nat.mod_succ, Nat.reduceMod]
  exact legal_of w
theorem cLdd : ∀ x n, Statement (.cLdd x n) := by
  intro x n w _
  rw [encode, decode_mkParcel (by first | omega | exact Bool.toNat_lt _) (by omega) (by omega) (by omega)]
  have h2 : BitVec.ofNat 6 (32 * (n.toNat / 32) + n.toNat % 32) = n := by
    apply BitVec.eq_of_toNat_eq; simp only [BitVec.toNat_ofNat]; omega
  have hx : x.val ≠ 0 := of_decide_eq_true w
  simp (disch := omega) only [decodeParcel.eq_8, h2, ne_eq, hx, not_false_iff, reg_val, ofNat8_val, ofNat4_val, imm13_parts, imm13_fields, imm18_parts, maskOf_small, Option.bind, Option.map, Option.isNone, Fin.is_lt, and_self, true_and, Bool.false_eq_true, if_true, if_false, Nat.zero_mod, Nat.mod_succ, Nat.reduceMod]
  exact legal_of w
theorem cStd : ∀ x n, Statement (.cStd x n) := by
  intro x n w _
  rw [encode, decode_mkParcel (by first | omega | exact Bool.toNat_lt _) (by omega) (by omega) (by omega)]
  have h2 : BitVec.ofNat 6 (32 * (n.toNat / 32) + n.toNat % 32) = n := by
    apply BitVec.eq_of_toNat_eq; simp only [BitVec.toNat_ofNat]; omega
  simp (disch := omega) only [decodeParcel.eq_9, h2, reg_val, ofNat8_val, ofNat4_val, imm13_parts, imm13_fields, imm18_parts, maskOf_small, Option.bind, Option.map, Option.isNone, Fin.is_lt, and_self, true_and, Bool.false_eq_true, if_true, if_false, Nat.zero_mod, Nat.mod_succ, Nat.reduceMod]
  exact legal_of w
theorem cBeqz : ∀ x n, Statement (.cBeqz x n) := by
  intro x n w _
  rw [encode, decode_mkParcel (by first | omega | exact Bool.toNat_lt _) (by omega) (by omega) (by omega)]
  have h2 : BitVec.ofNat 6 (32 * (n.toNat / 32) + n.toNat % 32) = n := by
    apply BitVec.eq_of_toNat_eq; simp only [BitVec.toNat_ofNat]; omega
  simp (disch := omega) only [decodeParcel.eq_10, h2, reg_val, ofNat8_val, ofNat4_val, imm13_parts, imm13_fields, imm18_parts, maskOf_small, Option.bind, Option.map, Option.isNone, Fin.is_lt, and_self, true_and, Bool.false_eq_true, if_true, if_false, Nat.zero_mod, Nat.mod_succ, Nat.reduceMod]
  exact legal_of w
theorem cBnez : ∀ x n, Statement (.cBnez x n) := by
  intro x n w _
  rw [encode, decode_mkParcel (by first | omega | exact Bool.toNat_lt _) (by omega) (by omega) (by omega)]
  have h2 : BitVec.ofNat 6 (32 * (n.toNat / 32) + n.toNat % 32) = n := by
    apply BitVec.eq_of_toNat_eq; simp only [BitVec.toNat_ofNat]; omega
  simp (disch := omega) only [decodeParcel.eq_11, h2, reg_val, ofNat8_val, ofNat4_val, imm13_parts, imm13_fields, imm18_parts, maskOf_small, Option.bind, Option.map, Option.isNone, Fin.is_lt, and_self, true_and, Bool.false_eq_true, if_true, if_false, Nat.zero_mod, Nat.mod_succ, Nat.reduceMod]
  exact legal_of w
theorem cJ : ∀ o, Statement (.cJ o) := by
  intro o w _
  rw [encode, decode_mkParcel (by first | omega | exact Bool.toNat_lt _) (by omega) (by omega) (by omega)]
  have h2 : BitVec.ofNat 11 (1024 * (o.toNat / 1024) + 32 * (o.toNat / 32 % 32) + o.toNat % 32) = o := by
    apply BitVec.eq_of_toNat_eq; simp only [BitVec.toNat_ofNat]; omega
  simp (disch := omega) only [decodeParcel.eq_12, h2, reg_val, ofNat8_val, ofNat4_val, imm13_parts, imm13_fields, imm18_parts, maskOf_small, Option.bind, Option.map, Option.isNone, Fin.is_lt, and_self, true_and, Bool.false_eq_true, if_true, if_false, Nat.zero_mod, Nat.mod_succ, Nat.reduceMod]
  exact legal_of w
theorem cJlr : ∀ x z, Statement (.cJlr x z) := by
  intro x z w _
  rw [encode, decode_mkParcel (by first | omega | exact Bool.toNat_lt _) (by omega) (by omega) (by omega)]
  have h2 : (z.toNat == 1) = z := by cases z <;> rfl
  simp (disch := omega) only [decodeParcel.eq_13, h2, reg_val, ofNat8_val, ofNat4_val, imm13_parts, imm13_fields, imm18_parts, maskOf_small, Option.bind, Option.map, Option.isNone, Fin.is_lt, and_self, true_and, Bool.false_eq_true, if_true, if_false, Nat.zero_mod, Nat.mod_succ, Nat.reduceMod]
  exact legal_of w
theorem cVstop : Statement .cVstop := by
  intro w _
  rw [encode, decode_mkParcel (by first | omega | exact Bool.toNat_lt _) (by omega) (by omega) (by omega)]
  simp (disch := omega) only [decodeParcel.eq_14, reg_val, ofNat8_val, ofNat4_val, imm13_parts, imm13_fields, imm18_parts, maskOf_small, Option.bind, Option.map, Option.isNone, Fin.is_lt, and_self, true_and, Bool.false_eq_true, if_true, if_false, Nat.zero_mod, Nat.mod_succ, Nat.reduceMod]
  exact legal_of w
theorem streamBegin : ∀ x0, Statement (.streamBegin x0) := by
  intros; exact fun _ h => absurd h (Bool.eq_false_iff.mp rfl)
theorem elementGroupComplete : ∀ x0, Statement (.elementGroupComplete x0) := by
  intros; exact fun _ h => absurd h (Bool.eq_false_iff.mp rfl)
theorem vectorSideFault : ∀ x0, Statement (.vectorSideFault x0) := by
  intros; exact fun _ h => absurd h (Bool.eq_false_iff.mp rfl)
theorem eventTaken : ∀ x0, Statement (.eventTaken x0) := by
  intros; exact fun _ h => absurd h (Bool.eq_false_iff.mp rfl)
theorem resume : ∀ x0, Statement (.resume x0) := by
  intros; exact fun _ h => absurd h (Bool.eq_false_iff.mp rfl)
theorem stop : ∀ x0, Statement (.stop x0) := by
  intros; exact fun _ h => absurd h (Bool.eq_false_iff.mp rfl)
theorem clear : ∀ x0, Statement (.clear x0) := by
  intros; exact fun _ h => absurd h (Bool.eq_false_iff.mp rfl)
theorem step : ∀ x0, Statement (.step x0) := by
  intros; exact fun _ h => absurd h (Bool.eq_false_iff.mp rfl)
theorem saveComplete : ∀ x0, Statement (.saveComplete x0) := by
  intros; exact fun _ h => absurd h (Bool.eq_false_iff.mp rfl)
theorem slotWordStore : ∀ x0 x1 x2, Statement (.slotWordStore x0 x1 x2) := by
  intros; exact fun _ h => absurd h (Bool.eq_false_iff.mp rfl)
theorem errorLogClear : ∀ x0 x1 x2, Statement (.errorLogClear x0 x1 x2) := by
  intros; exact fun _ h => absurd h (Bool.eq_false_iff.mp rfl)
theorem controlPageWrite : ∀ x0 x1 x2, Statement (.controlPageWrite x0 x1 x2) := by
  intros; exact fun _ h => absurd h (Bool.eq_false_iff.mp rfl)
theorem queueHeadStore : ∀ x0 x1 x2 x3, Statement (.queueHeadStore x0 x1 x2 x3) := by
  intros; exact fun _ h => absurd h (Bool.eq_false_iff.mp rfl)
theorem queueErrClear : ∀ x0 x1 x2, Statement (.queueErrClear x0 x1 x2) := by
  intros; exact fun _ h => absurd h (Bool.eq_false_iff.mp rfl)
theorem copyStripTake : ∀ x0, Statement (.copyStripTake x0) := by
  intros; exact fun _ h => absurd h (Bool.eq_false_iff.mp rfl)
theorem copyStripComplete : ∀ x0, Statement (.copyStripComplete x0) := by
  intros; exact fun _ h => absurd h (Bool.eq_false_iff.mp rfl)
theorem copyStripFault : ∀ x0, Statement (.copyStripFault x0) := by
  intros; exact fun _ h => absurd h (Bool.eq_false_iff.mp rfl)
theorem rayPrefetch : ∀ x0 x1, Statement (.rayPrefetch x0 x1) := by
  intros; exact fun _ h => absurd h (Bool.eq_false_iff.mp rfl)
theorem rayDrain : ∀ x0 x1, Statement (.rayDrain x0 x1) := by
  intros; exact fun _ h => absurd h (Bool.eq_false_iff.mp rfl)
theorem rayEngineFault : ∀ x0 x1, Statement (.rayEngineFault x0 x1) := by
  intros; exact fun _ h => absurd h (Bool.eq_false_iff.mp rfl)
theorem walkerStep : ∀ x0, Statement (.walkerStep x0) := by
  intros; exact fun _ h => absurd h (Bool.eq_false_iff.mp rfl)
theorem budgetExhausted : ∀ x0, Statement (.budgetExhausted x0) := by
  intros; exact fun _ h => absurd h (Bool.eq_false_iff.mp rfl)
theorem worldSwitch : ∀ x0 x1, Statement (.worldSwitch x0 x1) := by
  intros; exact fun _ h => absurd h (Bool.eq_false_iff.mp rfl)
theorem gearChangeEnd : ∀ x0, Statement (.gearChangeEnd x0) := by
  intros; exact fun _ h => absurd h (Bool.eq_false_iff.mp rfl)
theorem arm : ∀ x0, Statement (.arm x0) := by
  intros; exact fun _ h => absurd h (Bool.eq_false_iff.mp rfl)
theorem abort : ∀ x0, Statement (.abort x0) := by
  intros; exact fun _ h => absurd h (Bool.eq_false_iff.mp rfl)
theorem reset : ∀ x0, Statement (.reset x0) := by
  intros; exact fun _ h => absurd h (Bool.eq_false_iff.mp rfl)
theorem kernelStart : ∀ x0, Statement (.kernelStart x0) := by
  intros; exact fun _ h => absurd h (Bool.eq_false_iff.mp rfl)
theorem launcherAppend : ∀ x0, Statement (.launcherAppend x0) := by
  intros; exact fun _ h => absurd h (Bool.eq_false_iff.mp rfl)
theorem closureSample : ∀ x0, Statement (.closureSample x0) := by
  intros; exact fun _ h => absurd h (Bool.eq_false_iff.mp rfl)
theorem enable : ∀ x0, Statement (.enable x0) := by
  intros; exact fun _ h => absurd h (Bool.eq_false_iff.mp rfl)
theorem disable : ∀ x0, Statement (.disable x0) := by
  intros; exact fun _ h => absurd h (Bool.eq_false_iff.mp rfl)
theorem invalidate : ∀ x0, Statement (.invalidate x0) := by
  intros; exact fun _ h => absurd h (Bool.eq_false_iff.mp rfl)
theorem load : ∀ x0, Statement (.load x0) := by
  intros; exact fun _ h => absurd h (Bool.eq_false_iff.mp rfl)
theorem trainingStep : ∀ x0, Statement (.trainingStep x0) := by
  intros; exact fun _ h => absurd h (Bool.eq_false_iff.mp rfl)
theorem notifyWrite : ∀ x0 x1 x2, Statement (.notifyWrite x0 x1 x2) := by
  intros; exact fun _ h => absurd h (Bool.eq_false_iff.mp rfl)
theorem notifyApply : ∀ x0 x1, Statement (.notifyApply x0 x1) := by
  intros; exact fun _ h => absurd h (Bool.eq_false_iff.mp rfl)
theorem nop : ∀ x0, Statement (.nop x0) := by
  intros; exact fun _ h => absurd h (Bool.eq_false_iff.mp rfl)
theorem launch : ∀ x0, Statement (.launch x0) := by
  intros; exact fun _ h => absurd h (Bool.eq_false_iff.mp rfl)
theorem copyHost : ∀ x0, Statement (.copyHost x0) := by
  intros; exact fun _ h => absurd h (Bool.eq_false_iff.mp rfl)
theorem writeValue : ∀ x0, Statement (.writeValue x0) := by
  intros; exact fun _ h => absurd h (Bool.eq_false_iff.mp rfl)
theorem waitValue : ∀ x0, Statement (.waitValue x0) := by
  intros; exact fun _ h => absurd h (Bool.eq_false_iff.mp rfl)
theorem waitValueMet : ∀ x0, Statement (.waitValueMet x0) := by
  intros; exact fun _ h => absurd h (Bool.eq_false_iff.mp rfl)
theorem signal : ∀ x0, Statement (.signal x0) := by
  intros; exact fun _ h => absurd h (Bool.eq_false_iff.mp rfl)
theorem writeThenSignal : ∀ x0, Statement (.writeThenSignal x0) := by
  intros; exact fun _ h => absurd h (Bool.eq_false_iff.mp rfl)
theorem map : ∀ x0, Statement (.map x0) := by
  intros; exact fun _ h => absurd h (Bool.eq_false_iff.mp rfl)
theorem fence : ∀ x0, Statement (.fence x0) := by
  intros; exact fun _ h => absurd h (Bool.eq_false_iff.mp rfl)
theorem hostBar2Access : ∀ x0 x1 x2 x3, Statement (.hostBar2Access x0 x1 x2 x3) := by
  intros; exact fun _ h => absurd h (Bool.eq_false_iff.mp rfl)
theorem pcieCompletionTimeout : ∀ x0, Statement (.pcieCompletionTimeout x0) := by
  intros; exact fun _ h => absurd h (Bool.eq_false_iff.mp rfl)
theorem functionLevelReset : ∀ x0, Statement (.functionLevelReset x0) := by
  intros; exact fun _ h => absurd h (Bool.eq_false_iff.mp rfl)
theorem flaodInboundAccess : ∀ x0 x1 x2, Statement (.flaodInboundAccess x0 x1 x2) := by
  intros; exact fun _ h => absurd h (Bool.eq_false_iff.mp rfl)
theorem portDown : ∀ x0, Statement (.portDown x0) := by
  intros; exact fun _ h => absurd h (Bool.eq_false_iff.mp rfl)
theorem flaodRequestTimeout : ∀ x0, Statement (.flaodRequestTimeout x0) := by
  intros; exact fun _ h => absurd h (Bool.eq_false_iff.mp rfl)
theorem syncFlit : ∀ x0 x1, Statement (.syncFlit x0 x1) := by
  intros; exact fun _ h => absurd h (Bool.eq_false_iff.mp rfl)
theorem tileQuarantine : ∀ x0, Statement (.tileQuarantine x0) := by
  intros; exact fun _ h => absurd h (Bool.eq_false_iff.mp rfl)
theorem softError : ∀ x0 x1 x2 x3, Statement (.softError x0 x1 x2 x3) := by
  intros; exact fun _ h => absurd h (Bool.eq_false_iff.mp rfl)
theorem storeUncorrectable : ∀ x0, Statement (.storeUncorrectable x0) := by
  intros; exact fun _ h => absurd h (Bool.eq_false_iff.mp rfl)
theorem functionEnable : ∀ x0, Statement (.functionEnable x0) := by
  intros; exact fun _ h => absurd h (Bool.eq_false_iff.mp rfl)
theorem handOver : ∀ x0 x1 x2 x3 x4, Statement (.handOver x0 x1 x2 x3 x4) := by
  intros; exact fun _ h => absurd h (Bool.eq_false_iff.mp rfl)
theorem handOverSwitch : ∀ x0, Statement (.handOverSwitch x0) := by
  intros; exact fun _ h => absurd h (Bool.eq_false_iff.mp rfl)
theorem powerOn : ∀ x0 x1, Statement (.powerOn x0 x1) := by
  intros; exact fun _ h => absurd h (Bool.eq_false_iff.mp rfl)
theorem getVersion : Statement .getVersion := by
  exact fun _ h => absurd h (Bool.eq_false_iff.mp rfl)
theorem getCapabilities : Statement .getCapabilities := by
  exact fun _ h => absurd h (Bool.eq_false_iff.mp rfl)
theorem negotiateAlgorithms : ∀ x0 x1, Statement (.negotiateAlgorithms x0 x1) := by
  intros; exact fun _ h => absurd h (Bool.eq_false_iff.mp rfl)
theorem getDigests : Statement .getDigests := by
  exact fun _ h => absurd h (Bool.eq_false_iff.mp rfl)
theorem getCertificate : ∀ x0, Statement (.getCertificate x0) := by
  intros; exact fun _ h => absurd h (Bool.eq_false_iff.mp rfl)
theorem challenge : ∀ x0, Statement (.challenge x0) := by
  intros; exact fun _ h => absurd h (Bool.eq_false_iff.mp rfl)
theorem getMeasurements : ∀ x0, Statement (.getMeasurements x0) := by
  intros; exact fun _ h => absurd h (Bool.eq_false_iff.mp rfl)
theorem leaseBegin : ∀ x0 x1 x2 x3, Statement (.leaseBegin x0 x1 x2 x3) := by
  intros; exact fun _ h => absurd h (Bool.eq_false_iff.mp rfl)
theorem leaseReset : ∀ x0, Statement (.leaseReset x0) := by
  intros; exact fun _ h => absurd h (Bool.eq_false_iff.mp rfl)
theorem leaseResetComplete : Statement .leaseResetComplete := by
  exact fun _ h => absurd h (Bool.eq_false_iff.mp rfl)
theorem getRecord : Statement .getRecord := by
  exact fun _ h => absurd h (Bool.eq_false_iff.mp rfl)
theorem illegalInstruction : ∀ x0, Statement (.illegalInstruction x0) := by
  intros; exact fun _ h => absurd h (Bool.eq_false_iff.mp rfl)
theorem fetchFault : ∀ x0 x1, Statement (.fetchFault x0 x1) := by
  intros; exact fun _ h => absurd h (Bool.eq_false_iff.mp rfl)
theorem dependencyReadComplete : ∀ x0, Statement (.dependencyReadComplete x0) := by
  intros; exact fun _ h => absurd h (Bool.eq_false_iff.mp rfl)
theorem clusterModeChange : ∀ x0 x1, Statement (.clusterModeChange x0 x1) := by
  intros; exact fun _ h => absurd h (Bool.eq_false_iff.mp rfl)
theorem undefinedOpPacket : ∀ x0, Statement (.undefinedOpPacket x0) := by
  intros; exact fun _ h => absurd h (Bool.eq_false_iff.mp rfl)
theorem pciePostedWriteLoss : ∀ x0 x1, Statement (.pciePostedWriteLoss x0 x1) := by
  intros; exact fun _ h => absurd h (Bool.eq_false_iff.mp rfl)
theorem flaodPostedStoreError : ∀ x0 x1, Statement (.flaodPostedStoreError x0 x1) := by
  intros; exact fun _ h => absurd h (Bool.eq_false_iff.mp rfl)
theorem flaodPortUp : ∀ x0, Statement (.flaodPortUp x0) := by
  intros; exact fun _ h => absurd h (Bool.eq_false_iff.mp rfl)
theorem msixTableWrite : ∀ x0 x1 x2 x3, Statement (.msixTableWrite x0 x1 x2 x3) := by
  intros; exact fun _ h => absurd h (Bool.eq_false_iff.mp rfl)

end Sys2Proof.Laws.RoundTrip
end

