-- ==== Sys2Proof/Safety.lean ====
section
/-! DEFINITION. What counts as a safe run, in the terms that claims use. -/
namespace Sys2Proof.Safety
open Sys2Proof.Machine

/-- A step goes on: it ends in no fault and no refusal of the model. -/
def GoesOn (s : State) : Prop := ∃ t, step s = .next t

/-- The state after a step, where it goes on. -/
def After (s t : State) : Prop := step s = .next t

/-- States that runs from `s` reach. -/
inductive Reaches (s : State) : State → Prop
  | refl : Reaches s s
  | after {t u : State} : Reaches s t → After t u → Reaches s u

end Sys2Proof.Safety
end

