-- ==== Sys2Proof/Tests/Slice0.lean ====
section
/-! SUPPORT. Tests: small machines; words of the spec's encodings; a witness for the hypotheses of each statement; and
instructions whose results the spec states or that follow by hand from it. -/
namespace Sys2Proof.Tests
set_option Elab.async false
open Sys2Proof Sys2Proof.Machine Sys2Proof.Claims
noncomputable section

/-! Small machines. -/

/-- Entry n of the last table, for the page at n × 16 KiB. -/
def leaf (s : State) (n e : Nat) : State := { s with mem := memWrite s.mem (0x10C000 + 8 * n) 8 e }
/-- The bytes of the tables: pages 1 (the code), 2 (HBM), 3 (store of tile 0), 4 and 5 (queues 0 and 1), 6 (the last table, as an
alias), 7 (HBM, read only). -/
def tables : List Host.Cell :=
    [(0x100000, 0x03), (0x100001, 0x40), (0x100004, 0x80), (0x100005, 0x7F), (0x104000, 0x03), (0x104001, 0x80), (0x104004, 0x80), (0x104005, 0x7F),
    (0x108000, 0x03), (0x108001, 0xC0), (0x108004, 0x80), (0x108005, 0x7F), (0x10C008, 0x11), (0x10C009, 0x02), (0x10C00A, 0x20), (0x10C010, 0x0D),
    (0x10C011, 0x06), (0x10C012, 0x30), (0x10C018, 0x0D), (0x10C019, 0x06), (0x10C01D, 0x10), (0x10C020, 0x4D), (0x10C021, 0x06), (0x10C024, 0x04),
    (0x10C025, 0x20), (0x10C028, 0x4D), (0x10C029, 0x46), (0x10C02C, 0x04), (0x10C02D, 0x20), (0x10C030, 0x6D), (0x10C031, 0xC6), (0x10C034, 0x80),
    (0x10C035, 0x7F), (0x10C038, 0x05), (0x10C039, 0x42), (0x10C03A, 0x30)]
/-- Hart 0 at 0x4000, where the instruction w stands. -/
def mach (w : Nat) : State := { State.reset.withFetchWord 64 w with
  mem := tables ++ ((List.range 8).map fun i => ((0x200000 + i, BitVec.ofNat 8 (w / 256 ^ i)) : Host.Cell)).filter fun c => c.2 != 0 }
/-- They are what `withFetchWord` and six more entries make of empty memory. -/
theorem test_tables : (mach 0x00314809).mem = (leaf (leaf (leaf (leaf (leaf (leaf (State.reset.withFetchWord 64 0x00314809) 2 0x30060D)
    3 0x10000000060D) 4 0x20040000064D) 5 0x20040000464D) 6 0x7F800000C66D) 7 0x304205).mem := by decide +kernel
/-- The general registers that are named. -/
def regs (s : State) (l : List (Nat × Nat)) : State :=
  s.onHart 0 fun x => { x with c := { x.c with g := Vector.ofFn fun i : Fin 32 => BitVec.ofNat 64 (mget l i.val 0) } }
def status (s : State) (i : Fin 18) (v : Nat) : State := s.onHart 0 fun x => { x with c := { x.c with st := x.c.st.set i (BitVec.ofNat 64 v) } }
/-- Under VT and VL. -/
def vec (s : State) (vt vl : Nat) : State := status (status s 1 vt) 0 vl
/-- Element i of 32 bits of register r is v. -/
def lane32 (s : State) (r : Fin 32) (l : List Nat) : State :=
  s.onHart 0 fun x => { x with live := { x.live with v := x.live.v.set r (BitVec.ofNat 8192 (l.zipIdx.map fun p => p.1 * 2 ^ (p.2 % 4 * 256 + p.2 / 4 * 32)).sum) } }
/-- Words of eight bytes at addresses that rise, behind all that the memory lists. -/
def words (s : State) (l : List (Nat × Nat)) : State :=
  { s with mem := s.mem ++ l.flatMap fun p => ((List.range 8).map fun i => ((p.1 + i, BitVec.ofNat 8 (p.2 / 256 ^ i)) : Host.Cell)).filter fun c => c.2 != 0 }
/-- The state of a next, or the one given. -/
def after (o : Host.Outcome State Fault Refusal) : State := match o with | .next t => t | _ => State.reset
/-- The machine after i; its registers. -/
def run (i : Instr) (s : State) : State := after (exec i s)
def g_ (s : State) (x : Fin 32) : Nat := (gr s x).toNat
/-- Elements of 32 bits of register r, for 4 lanes. -/
def e32 (s : State) (r i : Nat) : Nat := element (s.hart 0).live.v 4 r 32 i

/-! What a computation shows, as conditions of statements. -/

def okIs (r : Except Trap Xl) (x : Xl) : Bool := match r with | .ok y => y == x | .error _ => false
theorem ok_of {r : Except Trap Xl} {x : Xl} (h : okIs r x = true) : r = .ok x := by
  unfold okIs at h; split at h
  · rw [eq_of_beq h]
  · cases h
def errIs (r : Except Trap Xl) (x : Trap) : Bool := match r with | .error y => y == x | .ok _ => false
theorem err_of {r : Except Trap Xl} {x : Trap} (h : errIs r x = true) : r = .error x := by
  unfold errIs at h; split at h
  · rw [eq_of_beq h]
  · cases h
/-- The bytes that a fetch finds. -/
def got (p : Except Trap Nat × State) (b : Nat) : Bool := match p.1 with | .ok y => y == b | .error _ => false
theorem got_of {p : Except Trap Nat × State} {b : Nat} (h : got p b = true) : p = (.ok b, p.2) := by
  unfold got at h; split at h
  · next e => rw [← eq_of_beq h, ← e]
  · cases h
def lost (p : Except Trap Nat × State) (t : Trap) : Bool := match p.1 with | .error y => y == t | .ok _ => false
theorem lost_of {p : Except Trap Nat × State} {t : Trap} (h : lost p t = true) : p = (.error t, p.2) := by
  unfold lost at h; split at h
  · next e => rw [← eq_of_beq h, ← e]
  · cases h
def plainB (s : State) (w : Who) (acc : Acc) (va n : Nat) (x : Xl) : Bool :=
  decide (va % n = 0) && okIs (xlate s w acc va) x && (x.region == .hbm || x.region == .store) &&
  (eKind x.leaf == 0 || eKind x.leaf == 4) && (poisoned s x.pa n == false) &&
  (x.region != .hbm || lineKeyAt s x.pa == keyAt s (eKey x.leaf)) && s.dcache.isEmpty && s.vbuf.isEmpty &&
  (match w.iss.hart with | some h => w.port != .v || ((s.hart h).live.vfence == false && (s.hart h).lazyV == false) | none => true)
theorem plain_of {s : State} {w : Who} {acc : Acc} {va n : Nat} {x : Xl} (h : plainB s w acc va n x = true) : Plain s w acc va n x := by
  simp only [plainB, Bool.and_eq_true, Bool.or_eq_true, decide_eq_true_eq, beq_iff_eq, List.isEmpty_iff, bne_iff_ne, ne_eq] at h
  obtain ⟨⟨⟨⟨⟨⟨⟨⟨h1, h2⟩, h3⟩, h4⟩, h5⟩, h6⟩, h7⟩, h8⟩, h9⟩ := h
  refine ⟨h1, ok_of h2, h3, h4, h5, fun e => h6.resolve_left (fun n => n e), h7, h8, fun a e p => ?_⟩
  rw [e] at h9
  simpa [p] using h9
/-- The bits A, and for a store D, of the leaf are set. -/
def markedB (x : Xl) (store : Bool) : Bool := eBit x.leaf 9 && (!store || eBit x.leaf 10)
theorem marked_of {s : State} {x : Xl} {store : Bool} (h : markedB x store = true) : touch s x store = s := if_pos h
def clearB (s : State) (w : Who) (acc : Acc) (va n : Nat) (x : Xl) : Bool := plainB s w acc va n x && markedB x (acc != .load)
theorem clear_of {s : State} {w : Who} {acc : Acc} {va n : Nat} {x : Xl} (h : clearB s w acc va n x = true) : Clear s w acc va n x := by
  simp only [clearB, Bool.and_eq_true] at h
  exact ⟨plain_of h.1, marked_of h.2⟩
def vplainB (s : State) (acc : Acc) (va n : Nat) (x : Xl) : Bool :=
  clearB s (whoV s s.me) acc va n x && decide (s.hub.aback.toNat % 0x4000 = 0)
theorem vplain_of {s : State} {acc : Acc} {va n : Nat} {x : Xl} (h : vplainB s acc va n x = true) : VPlain s acc va n x := by
  simp only [vplainB, Bool.and_eq_true, decide_eq_true_eq] at h
  exact ⟨(clear_of h.1).plain, (clear_of h.1).marked, h.2⟩
def movesB (s : State) (h : HartId) : Bool :=
  ((s.tile (tileOf h)).gchg == false) && ((s.hart h).func == 31 || (s.hart h).world || s.hub.cluster.getLsbD (h.val / 64) == false)
theorem moves_of {s : State} {h : HartId} (k : movesB s h = true) : Moves s h := by
  simp only [movesB, Bool.and_eq_true, Bool.or_eq_true, beq_iff_eq] at k
  refine ⟨k.1, fun a b => ?_⟩
  obtain (k2 | k2) | k2 := k.2
  · exact absurd k2 a
  · rw [b] at k2; cases k2
  · exact k2
def boundaryB (s : State) : Bool :=
  s.agenda.isEmpty && (s.hart s.cur.hart).state == .running && movesB s s.cur.hart && (s.hart s.cur.hart).falling == false && vDue (s.hart s.cur.hart) == false &&
  vIdle (s.hart s.cur.hart) && (dueEvent (s.hart s.cur.hart)).isNone
theorem boundary_of {s : State} (h : boundaryB s = true) : AtBoundary s := by
  simp only [boundaryB, Bool.and_eq_true, beq_iff_eq, List.isEmpty_iff, Option.isNone_iff_eq_none] at h
  obtain ⟨⟨⟨⟨⟨⟨h1, h2⟩, h3⟩, h4⟩, h5⟩, h6⟩, h7⟩ := h
  exact ⟨h1, .inl h2, moves_of h3, h4, h5, .inr h6, h7⟩
def readyB (s : State) : Bool :=
  (match s.cur.thread with | .control => true | _ => false) && decide ((s.hart s.me).c.vt < 4096) && (vtIllegal (s.hart s.me).c.vt == false) &&
  decide ((s.hart s.me).c.st[3].toNat < 20) && decide (vlOf s ≤ vlmaxOf s s.me (s.hart s.me).c.vt) &&
  (slotN (s.slotWord s.me) == 1 || slotN (s.slotWord s.me) == 2 || slotN (s.slotWord s.me) == 4 || slotN (s.slotWord s.me) == 8) &&
  (homeOnLoan s s.me == false) && vIdle (s.hart s.me) && ((s.hart s.me).live.frozen == false) && ((s.hart s.me).defer == false) &&
  decide (∀ r : Fin 8, (s.hart s.me).c.rays[r][0].toNat % 2 = 0) && decide (∀ j : Fin 32, (s.hart s.me).live.vPois[j] = 0) &&
  decide (∀ j : Fin 8, (s.hart s.me).c.mPois[j] = 0) && decide (∀ j : Fin 8, (s.hart s.me).c.kPois[j] = 0) && decide ((s.hart s.me).live.vstore = 0) &&
  s.vbuf.all fun p => p.2.hart != s.me || p.2.vp.isNone
theorem ready_of {s : State} (h : readyB s = true) : Ready s := by
  simp only [readyB, Bool.and_eq_true, Bool.or_eq_true, decide_eq_true_eq, beq_iff_eq] at h
  obtain ⟨⟨⟨⟨⟨⟨⟨⟨⟨⟨⟨⟨⟨⟨⟨h1, h2⟩, h3⟩, h4⟩, h5⟩, h6⟩, h7⟩, h8⟩, h9⟩, h10⟩, h11⟩, h12⟩, h13⟩, h14⟩, h15⟩, h16⟩ := h
  refine ⟨?_, ⟨h2, h3⟩, h4, h5, ?_, h7, ⟨h8, h9, h10⟩, h11, h12, h13, h14, h15, fun p m e => by simpa [e] using List.all_eq_true.mp h16 p m⟩
  · unfold InControl; cases e : s.cur.thread <;> simp_all
  · rcases h6 with ((h | h) | h) | h <;> simp [h]
/-- Elements that an instruction acts on lie below VL. -/
theorem below {s : State} {m : Option MReg} {n : Nat} {P : Nat → Prop} (hv : vlOf s = n) (h : ∀ k, k < n → P k) :
    ∀ k, acts s m k = true → P k := fun k a => h k (by
  simp only [acts, Bool.and_eq_true, decide_eq_true_eq] at a; omega)

/-- The machine of most tests: registers 4, 5, 6, 7 hold addresses of pages 2 and 3, -7, and 2. -/
def s1 : State := regs (mach 0x00314809) [(4, 0x8000), (5, 0xC008), (6, 2 ^ 64 - 7), (7, 2), (2, 0x8000), (8, 0x8001), (9, 0x10000), (10, 0x14000), (12, 0x8040), (13, 0xC000)]
/-- Elements of width w of register r are l. -/
def elems (s : State) (r : Fin 32) (w : Nat) (l : List Nat) : State :=
  s.onHart 0 fun x => { x with live := { x.live with v := x.live.v.set r (BitVec.ofNat 8192 (l.zipIdx.map fun p => p.1 % 2 ^ w * 2 ^ (p.2 % 4 * 256 + p.2 / 4 * w)).sum) } }
/-- Under VT and RMODE, v0, v2 and v6 hold a of width wa, b of width wb and d of width w; VL is the length of d. -/
def vstate (vt rm w wa wb : Nat) (d a b : List Nat) : State :=
  elems (elems (elems (status (vec s1 vt d.length) 3 rm) 6 w d) 0 wa a) 2 wb b
/-- The elements of v6, and XFLAGS, after the instruction. -/
def outs (w n : Nat) (s : State) (i : Instr) : List Nat × Nat :=
  let t := run i s
  ((List.range n).map fun k => element (t.hart 0).live.v 4 6 w k, (t.hart 0).c.st[4].toNat)
def page2 (off : Nat) : Xl := ⟨0x300000 + off, 0x30060D, 0x7F800000C010, .hbm⟩
def page3 (off : Nat) : Xl := ⟨0x100000000000 + off, 0x10000000060D, 0x7F800000C018, .store⟩
/-- Hart 0 has a handler. -/
def handled : State := status s1 6 0x8000
/-- A queue of the kind, a ring of 2^cap entries of HBM at 0x301000 under no key, owned by function 0 of the non-secure world. -/
def ring (s : State) (n kind cap head tail : Nat) : State :=
  s.setQueue n { w := #v[BitVec.ofNat 64 (kind + 256), 0x301000, BitVec.ofNat 64 cap, BitVec.ofNat 64 head, BitVec.ofNat 64 tail, 0, 0, 0, 0], key := 0 }
def queue0 : Xl := ⟨0x200400000000, 0x20040000064D, 0x7F800000C020, .control⟩
/-- Hart 0 with an entry of `vadd` in its vector queue, so that its unit is not idle. -/
def queued (s : State) (e : List Nat) : State := s.onHart 0 fun x => { x with c := { x.c with
  vqcount := 1, vq := x.c.vq.set 0 (Vector.ofFn fun i : Fin 8 => BitVec.ofNat 64 (e.getD i.val 0)) } }
def busy : State := queued s1 [0x4000, 0x00080561, 0x122, 4]
/-- Hart 0 waits in w at i, with v at 0x8000. -/
def waitsAt (i : Instr) (w : Wait) (v : Nat) : State := (words (regs (mach (encode i)) [(4, 0x8000), (9, 0x10000)]) [(0x300000, v)]).setWait 0 w
/-- The bytes of the code page at n + 0x4000 can be fetched, and fetching them changes nothing. -/
def codeB (s : State) (w : Who) (n : Nat) : Bool :=
  s.dcache.isEmpty && s.vbuf.isEmpty && s.icache.isEmpty && s.fcache.isEmpty && ((s.tile w.tile).icFill == false) &&
  (List.range 4).all fun i => okIs (xlate s w .fetch ((0x4000 + n + i) % 2 ^ 64)) ⟨0x200000 + n + i, 0x200211, 0x7F800000C008, .hbm⟩ &&
    lineKeyAt s (0x200000 + n + i) == keyAt s (eKey 0x200211) && markedB ⟨0x200000 + n + i, 0x200211, 0x7F800000C008, .hbm⟩ false
theorem code_of {s : State} {w : Who} {facet : Bool} {n b : Nat} (h : codeB s w n = true)
    (g : got ((fetchBytes w facet (0x4000 + n) 4).run.run s) b = true) : (fetchBytes w facet (0x4000 + n) 4).run.run s = (.ok b, s) := by
  simp only [codeB, Bool.and_eq_true, List.isEmpty_iff, List.all_eq_true, List.mem_range, beq_iff_eq] at h
  obtain ⟨⟨⟨⟨⟨h1, h6⟩, h2⟩, h3⟩, h4⟩, h5⟩ := h
  obtain ⟨b', e⟩ := fetchBytes_clean (facet := facet) h1 h6 h2 h3 h4 4 (0x4000 + n) fun i hi =>
    ⟨_, ok_of (h5 i hi).1.1, .inl rfl, fun _ => (h5 i hi).1.2, marked_of (h5 i hi).2⟩
  have k := got_of g
  rw [e] at k
  rw [e]; rw [show b' = b from by injection k with k1; injection k1]
/-- A copy of 4,098 bytes from src to 0xC000, with a future at 0x8010: its strips that are left, and how many run. -/
def copy (src : Nat) (left : List Nat) (running : Nat) : Copy :=
  { iss := issuer s1 0, tile := 0, src := BitVec.ofNat 64 src, dst := 0xC000, len := 4098, obj := 0x8010, kind := 0, untaken := left, running := running }
theorem parked_of {s : State} {a : Nat} (h : (hartsOf s a).all (fun h => (s.hart h).state != .running && (s.hart h).state != .stopping) = true) :
    ∀ h ∈ hartsOf s a, Parked s h := fun x hx => by
  have := List.all_eq_true.mp h x hx
  simpa [Parked] using this
theorem frame_of {s : State} {pa lvl : Nat} (h : (decide (pa % 0x4000 = 0) && decide (0x7F8000000000 ≤ pa ∧ pa < 0x7F8000000000 + s.hub.aframes.toNat * 0x4000) &&
    decide (s.hub.aframes.toNat ≤ 2 ^ 20) && (match s.hub.tags.lookup ((pa - 0x7F8000000000) / 0x4000) with
      | some t => decide (t.toNat % 4 = 1 ∧ t.toNat / 4 % 4 = lvl) | none => false)) = true) : TableFrame s pa lvl := by
  simp only [Bool.and_eq_true, decide_eq_true_eq] at h
  obtain ⟨⟨⟨h1, h2⟩, h3⟩, h4⟩ := h
  refine ⟨h1, h2, h3, ?_⟩
  split at h4
  · next t e => exact ⟨t, e, by simpa using h4⟩
  · cases h4
theorem leaf_of {s : State} {e b va : Nat} (h : (decide (e % 4 = 1) && decide (e / 2 ^ 12 % 4 = 0 ∧ e / 2 ^ 48 % 16 = 0) && decide (e / 32 % 8 = 0) &&
    decide (e / 0x4000 % 2 ^ 34 * 0x4000 % 2 ^ b = 0) && decide (regionOf (e / 0x4000 % 2 ^ 34 * 0x4000 + va % 2 ^ b) = some .hbm) &&
    (quarantined s (e / 0x4000 % 2 ^ 34 * 0x4000 + va % 2 ^ b) == false) && (inBacking s (e / 0x4000 % 2 ^ 34 * 0x4000 + va % 2 ^ b) == false)) = true) : Leaf s e b va := by
  simp only [Bool.and_eq_true, decide_eq_true_eq, beq_iff_eq] at h
  obtain ⟨⟨⟨⟨⟨⟨h1, h2⟩, h3⟩, h4⟩, h5⟩, h6⟩, h7⟩ := h
  exact ⟨h1, h2, .inl h3, h4, .inl h5, h6, h7⟩

/-! Ill-formed instructions: one for each check of `Instr.wf`, which refuses it and takes its neighbour. -/

/-- A scope past 4, a status register past 17 or not writable, a gear past 1, a slot past 3, an offset of 0 or of 4,096 parcels (R85). -/
theorem test_wf_scalar : ([.fencesv 5, .fencevs 5, .fencevv 5, .fenceall 5, .getst 4 18, .setst 12 4, .setst 16 4, .setst 18 4, .gear 2, .tget 0 4, .tget 5 4, .tget 29 4,
    .apx 4 1, .apx 0 0, .apx 0 4096, .apxend 4, .apxinv 4] : List Instr).all (fun i => !i.wf) = true ∧
  ([.fencesv 4, .fencevs 4, .fencevv 4, .fenceall 4, .getst 4 17, .setst 11 4, .setst 17 4, .gear 1, .tget 4 4, .tget 28 4, .apx 3 1, .apx 0 4095, .apxend 3, .apxinv 3] :
    List Instr).all Instr.wf = true := by decide +kernel
/-- A skip of 0, an odd pair, a drain format of 7, g0 of a parcel, an address that is no word of a page (R86, R83, R81). -/
theorem test_wf_vector : ([.vskip 1 0, .mma 0 0 1 true false false false 0 false, .mrow 0 0 0 7 none false, .mstr 0 1 2 3 7 none false, .mstx 0 1 2 3 7 none false,
    .cAddi 0 1, .cLi 0 1, .cShli 0 1, .cLdd 0 1, .cMv 0 1, .cAdd 0 1, .cSub 0 1, .cAnd 0 1, .controlPageWrite .root 0x200000000004 0,
    .queueHeadStore .root 0 4 0] : List Instr).all (fun i => !i.wf) = true ∧
  ([.vskip 1 1, .mma 0 0 1 false false false false 0 false, .mrow 0 0 0 6 none false, .mstr 0 1 2 3 6 none false, .mstx 0 1 2 3 6 none false,
    .cAddi 1 0, .cMv 1 0, .controlPageWrite .root 0x200000000008 0, .queueHeadStore .root 0 8 0] : List Instr).all Instr.wf = true := by decide +kernel

/-! Words written out from the encodings of the spec: each decodes to its instruction. -/

def reads (l : List (Nat × Instr)) : Bool := l.all fun p => decode p.1 == some p.2

/-- MAJ 0x01 (R85). -/
theorem test_words_register : reads [(0x00A27209, .add 25 9 20), (0x01190C09, .sub 6 4 3), (0x02B8DA09, .and 13 3 23), (0x03117609, .or 27 5 2),
    (0x04D11E09, .xor 15 4 26), (0x052EC609, .andn 3 27 5), (0x063B8609, .sll 3 14 7), (0x07C8DC09, .srl 14 3 25), (0x08122409, .sra 18 8 2),
    (0x09D24E09, .slt 7 9 26), (0x0A9ACC09, .sltu 6 11 19), (0x0B65CC09, .min 6 23 12), (0x0C20DA09, .max 13 3 4), (0x0DFEE809, .minu 20 27 31),
    (0x0EEF6E09, .maxu 23 29 29), (0x109BD609, .mul 11 15 19), (0x11796609, .mulh 19 5 15), (0x12FD7809, .mulhu 28 21 31), (0x13910E09, .mulhsu 7 4 18),
    (0x14D2AA09, .div 21 10 26), (0x154FF409, .divu 26 31 9), (0x16112809, .rem 20 4 2), (0x17ADBE09, .remu 31 22 21), (0x18074809, .clz 4 29),
    (0x19016209, .ctz 17 5), (0x1A078809, .cpop 4 30)] = true := by decide +kernel
/-- MAJ 0x02 to 0x0C: immediates, shifts, jumps (R84, R94). -/
theorem test_words_immediate : reads [(0x1F14F811, .addi 28 19 994), (0x91B62C19, .andi 22 24 4662), (0x0B8F6C21, .ori 22 29 369), (0x5609FE29, .xori 31 7 2753),
    (0x1E2B6431, .slti 18 13 965), (0x423BF239, .sltiu 25 15 2119), (0x0197CA41, .shli 5 31 50), (0x02AF3241, .shri 25 28 21), (0x051A3641, .srai 27 8 35),
    (0x8E8D3449, .lhi 26 145972), (0xB7B0F051, .lpc 24 188099), (0x76251259, .jl 9 120980), (0x2A7AD261, .jlr 9 11 1359)] = true := by decide +kernel
/-- MAJ 0x0D to 0x12 (R84). -/
theorem test_words_branches : reads [(0x76703E69, .beq 0 14 3807), (0x5D848071, .bne 18 16 2976), (0x4AD5E879, .blt 23 26 2388), (0x401F7281, .bge 29 3 2073),
    (0xCBCE4C89, .bltu 25 25 6502), (0xF6C8D891, .bgeu 3 25 7884)] = true := by decide +kernel
/-- MAJ 0x13 to 0x1D: loads and stores (R84). -/
theorem test_words_memory : reads [(0x227B7899, .ldb 28 13 1103), (0x5319EAA1, .ldbu 21 7 2659), (0x1AE980A9, .ldh 0 6 861), (0x4D71AEB1, .ldhu 23 6 2478),
    (0x0D091AB9, .ldw 13 4 417), (0xC0A260C1, .ldwu 16 9 6164), (0xB1DDFCC9, .ldd 30 23 5691), (0x3E3FFAD1, .stb 7 31 2013), (0xF5F4CAD9, .sth 30 19 7845),
    (0x493560E1, .stw 6 21 2352), (0xF5505AE9, .std 10 1 7853)] = true := by decide +kernel
/-- MAJ 0x1E (R102). -/
theorem test_words_atomics : reads [(0x409960F1, .atswap 16 19 5 false false true), (0x51755CF1, .atadd 14 14 21 true false true),
    (0x12733EF1, .atand 31 14 12 true false false), (0x438FA0F1, .ator 16 17 30 false false true), (0x34B5CAF1, .atxor 5 22 23 true true false),
    (0x05F32AF1, .atmax 21 30 12 false false false), (0x26F58AF1, .atmin 5 30 22 false true false), (0x27F2F6F1, .atmaxu 27 30 11 false true false),
    (0x58EE4AF1, .atminu 5 29 25 true false true), (0x090A7AF1, .atcas 29 1 9 false false false)] = true := by decide +kernel
/-- MAJ 0x1F (R85). -/
theorem test_words_system : reads [(0x002000F9, .fencesv 4), (0x011000F9, .fencevs 2), (0x022000F9, .fencevv 4), (0x030000F9, .fenceall 0), (0x040000F9, .tfence),
    (0x05880CF9, .getst 6 17), (0x065EC0F9, .setst 11 27), (0x076000F9, .trap 12), (0x080000F9, .tret), (0x090000F9, .exit), (0x0A0340F9, .wait 13),
    (0x0B0800F9, .gear 1), (0x0C0020F9, .qrecv 16)] = true := by decide +kernel
/-- MAJ 0x20 to 0x22 (R85). -/
theorem test_words_sync : reads [(0x006C9F01, .spawn 15 18 13), (0x01053901, .tget 28 20), (0x02D20101, .fjoin 8 26), (0x0300C101, .fres 3),
    (0x0405BB01, .fpoll 29 22), (0x05068101, .bara 26), (0x06424101, .barx 9 8), (0x07004101, .barw 1), (0x00071709, .sbind 11 28), (0x01000109, .sfree 0),
    (0x02025709, .sstat 11 9), (0x034F8F09, .scopy 7 30 9), (0x041D3D09, .scopyb 30 20 3), (0x7FF8C111, .apx 3 4095), (0x00008311, .apxend 2),
    (0x00008511, .apxinv 2)] = true := by decide +kernel
/-- MAJ 0x28 and 0x29 (R110). -/
theorem test_words_vector_length : reads [(0x46E08D41, .setvl 6 2 2268), (0xF3C04941, .setvlg 4 1 3704), (0x00E51949, .setvlr 12 20 28)] = true := by decide +kernel
/-- MAJ 0x2A and 0x2B (R86). -/
theorem test_words_vector_memory : reads [(0xF0079F55, .vld 15 30 (some 7) true), (0x01468F55, .vlds 7 26 8 none true), (0xD223F751, .vldx 27 15 4 (some 5) false),
    (0x0301D355, .vldff 9 7 none true), (0x04023B51, .vlseg2 29 8 none false), (0x0507D551, .vlseg3 10 31 none false), (0x06066B55, .vlseg4 21 25 none true),
    (0x07050B55, .vlseg8 5 20 none true), (0x08004B55, .mld 5 1 true), (0x09070155, .kld 0 28 true), (0xC0010F59, .vst 7 4 (some 4) false),
    (0x01844559, .vsts 2 17 16 none false), (0xA2DC3359, .vstx 25 16 27 (some 2) false), (0xD32C4759, .vstxo 3 17 5 (some 5) false),
    (0x94044359, .vsseg2 1 17 (some 1) false), (0x9503895D, .vsseg3 4 14 (some 1) true), (0x06002B5D, .vsseg4 21 0 none true),
    (0xA7009F59, .vsseg8 15 2 (some 2) false), (0x08028959, .mst 4 10 false), (0x0902C75D, .kst 3 11 true)] = true := by decide +kernel
/-- MAJ 0x2C (R86). -/
theorem test_words_vector_vv : reads [(0xB0971765, .vaddVv 11 28 18 (some 3) true), (0x81808161, .vsubVv 0 2 16 (some 0) false),
    (0x027F0D65, .vrsubVv 6 28 15 none true), (0xE39B5D65, .vandVv 14 13 19 (some 6) true), (0x04CD8761, .vorVv 3 22 25 none false),
    (0x0586D561, .vxorVv 10 27 16 none false), (0x0693E561, .vsllVv 18 15 18 none false), (0xA7547961, .vsrlVv 28 17 10 (some 2) false),
    (0xD8AD1F61, .vsraVv 15 20 21 (some 5) false), (0xB9B2C165, .vminVv 0 11 22 (some 3) true), (0x9AF45961, .vmaxVv 12 17 30 (some 1) false),
    (0x0B815365, .vminuVv 9 5 16 none true), (0x0C0CE761, .vmaxuVv 19 19 1 none false), (0x0DC53F61, .vmulVv 31 20 24 none false),
    (0xAE16D161, .vmulhVv 8 27 2 (some 2) false), (0xBF284561, .vmergeVv 2 1 5 3 false)] = true := by decide +kernel
/-- MAJ 0x2D (R86). -/
theorem test_words_vector_vx : reads [(0x90C70769, .vaddVx 3 28 24 (some 1) false), (0x01803B69, .vsubVx 29 0 16 none false),
    (0x02F4096D, .vrsubVx 4 16 30 none true), (0x03777F6D, .vandVx 31 29 14 none true), (0x04909969, .vorVx 12 2 18 none false),
    (0x0584D169, .vxorVx 8 19 16 none false), (0x86FC4D69, .vsllVx 6 17 31 (some 0) false), (0xC7977B6D, .vsrlVx 29 29 18 (some 4) true),
    (0x08997D69, .vsraVx 30 5 19 none false), (0xF927236D, .vminVx 17 28 4 (some 7) true), (0x0A21536D, .vmaxVx 9 5 4 none true),
    (0xAB89EF69, .vminuVx 23 7 17 (some 2) false), (0xFCC85569, .vmaxuVx 10 1 25 (some 7) false), (0xFDCCD36D, .vmulVx 9 19 25 (some 7) true),
    (0xEEA1EB69, .vmulhVx 21 7 20 (some 6) false), (0xDFAE4F69, .vmergeVx 7 25 21 5 false)] = true := by decide +kernel
/-- MAJ 0x2E (R86). -/
theorem test_words_vector_vi : reads [(0x0085C975, .vaddVi 4 23 16 none true), (0x91BEE371, .vsubVi 17 27 23 (some 1) false),
    (0x921C9371, .vrsubVi 9 18 3 (some 1) false), (0xE3A32F75, .vandVi 23 12 20 (some 6) true), (0x04694775, .vorVi 3 5 13 none true),
    (0xA597C771, .vxorVi 3 31 18 (some 2) false), (0x06D56575, .vsllVi 18 21 26 none true), (0xC7CBE775, .vsrlVi 19 15 25 (some 4) true),
    (0x98528971, .vsraVi 4 10 10 (some 1) false), (0xB9E57975, .vminVi 28 21 28 (some 3) true), (0x0A795775, .vmaxVi 11 5 15 none true),
    (0x0B7DE171, .vminuVi 16 23 15 none false), (0x0CC69B75, .vmaxuVi 13 26 24 none true), (0xDD1FE375, .vmulVi 17 31 3 (some 5) true),
    (0x0E2C5F75, .vmulhVi 15 17 5 none true), (0xEFE6E771, .vmergeVi 19 27 28 6 false)] = true := by decide +kernel
/-- MAJ 0x2F and 0x30 (R86). -/
theorem test_words_vector_fixed : reads [(0x00DFBF79, .vsadd 31 30 27 none false), (0x01EF1F79, .vsaddu 15 28 29 none false),
    (0x0249BB79, .vssub 29 6 9 none false), (0x0343857D, .vssubu 2 14 8 none true), (0x04D9CD79, .vaadd 6 7 27 none false),
    (0xB5C41D79, .vaaddu 14 16 24 (some 3) false), (0x06EC6979, .vsmul 20 17 29 none false), (0xB778757D, .vssrl 26 1 15 (some 3) true),
    (0x0867F579, .vssra 26 31 12 none false), (0xB9DDDD7D, .vnsrl 14 23 27 (some 3) true), (0x0AD5F379, .vnsra 25 23 26 none false),
    (0x0B237F79, .vnclip 31 13 4 none false), (0xBC775D7D, .vnclipu 14 29 14 (some 3) true), (0x90FADD85, .vwadd 14 11 31 (some 1) true),
    (0x814E4781, .vwaddu 3 25 9 (some 0) false), (0x02D0C781, .vwsub 3 3 26 none false), (0xF3A1CB81, .vwsubu 5 7 20 (some 7) false),
    (0xB45F4585, .vwmul 2 29 11 (some 3) true), (0xD5AF1581, .vwmulu 10 28 21 (some 5) false), (0x06896D85, .vwmulsu 22 5 17 none true),
    (0x07C5A785, .vwmacc 19 22 24 none true), (0x08F32F85, .vwmaccu 23 12 30 none true), (0x09BF8385, .vwmaccsu 1 30 23 none true),
    (0x0A160585, .vqmacc 2 24 2 none true)] = true := by decide +kernel
/-- MAJ 0x31 (R86). -/
theorem test_words_vector_compare : reads [(0x0083038D, .vseq 1 12 16 none true), (0xC1A8898D, .vsne 4 2 21 (some 4) true),
    (0xC2010189, .vslt 0 4 0 (some 4) false), (0x03EE098D, .vsltu 4 24 29 none true), (0xA4FAC18D, .vsle 0 11 31 (some 2) true),
    (0x05A50F8D, .vsleu 7 20 20 none true), (0x06CA878D, .vsgt 3 10 25 none true), (0x07F5058D, .vsgtu 2 20 30 none true), (0x08815B89, .vadc 13 5 16 none false),
    (0xF9E2C789, .vmadc 3 11 28 (some 7) false), (0xFA79E58D, .vsbc 18 7 15 (some 7) true), (0xCBBC0989, .vmsbc 4 16 23 (some 4) false)] = true := by decide +kernel
/-- MAJ 0x32 (R86). -/
theorem test_words_masks : reads [(0x0038C591, .mand 2 3 7 false), (0x01188991, .mor 4 2 3 false), (0x02284D95, .mxor 6 1 5 true), (0x0318C395, .mandn 1 3 3 true),
    (0x04000391, .mnot 1 0 false), (0x05F0CF95, .mshl 7 3 30 true), (0x06002591, .mpop 18 0 false), (0x07004791, .mfirst 3 1 false), (0x0800C995, .mlast 4 3 true),
    (0x09000595, .mset 2 true), (0x0A000991, .mclr 4 false), (0x0B004B91, .mmv 5 1 false), (0x0C002F95, .mtop 23 0 true), (0x0D024191, .mfromv 0 9 false),
    (0x0E010591, .mtov 2 4 false)] = true := by decide +kernel
/-- MAJ 0x33 and 0x34 (R86). -/
theorem test_words_vector_float : reads [(0x00D5D79D, .vfadd 11 23 26 none true), (0x0117FD99, .vfsub 30 31 2 none false),
    (0x92CA4B99, .vfmul 5 9 25 (some 1) false), (0xC3D4A79D, .vfdiv 19 18 26 (some 4) true), (0x04B6B599, .vfmin 26 26 22 none false),
    (0xB5CE5B99, .vfmax 13 25 25 (some 3) false), (0xA606CF99, .vfsqrt 7 27 (some 2) false), (0xD7EA9199, .vfmacc 8 10 29 (some 5) false),
    (0x08C96F99, .vfnmacc 23 5 25 none false), (0x09929599, .vfmsac 10 10 18 none false), (0x0AFB0999, .vfeq 4 12 31 none false),
    (0x0BA0CD99, .vflt 6 3 20 none false), (0x0CCB0F99, .vfle 7 12 25 none false), (0x0DCAB19D, .vfsgnj 24 10 25 none true),
    (0x0E7B0599, .vfsgnjn 2 12 15 none false), (0x9F063B9D, .vfabs 29 24 (some 1) true), (0xC003F7A5, .vexp2 27 15 (some 4) true),
    (0xF10717A1, .vlog2 11 28 (some 7) false), (0x02075FA5, .vrcp 15 29 none true), (0xA307B3A1, .vrsqrt 25 30 (some 2) false),
    (0x0405B7A5, .vtanh 27 22 none true), (0x050085A1, .vsigm 2 2 none false)] = true := by decide +kernel
/-- MAJ 0x35 (R86). -/
theorem test_words_permutes : reads [(0x0028F1A9, .vslup 24 3 5 none false), (0x013B11AD, .vsldn 8 12 7 none true), (0xA2712DAD, .vrgat 22 4 14 (some 2) true),
    (0x038F53AD, .vscat 9 29 17 none true), (0xF40361A9, .vcomp 16 13 7 false), (0xD5B881A9, .vcapp 2 23 5 false), (0x065469AD, .vredsum 20 17 10 none true),
    (0x0738EFAD, .vredmax 23 3 7 none true), (0x08CDE1AD, .vredmin 16 23 25 none true), (0xA9BD4BAD, .vfredsum 5 21 23 (some 2) true),
    (0x0A0007AD, .vid 3 none true), (0xCB0141A9, .viota 0 5 (some 4) false), (0x0C04B7AD, .vmvsg 27 18 none true), (0x8D023FA9, .vmvgs 31 8 (some 0) false),
    (0x0E00C1AD, .vbcast 0 3 none true), (0x9FB3B5AD, .vfredmax 26 14 22 (some 1) true)] = true := by decide +kernel
/-- MAJ 0x36 (R86). -/
theorem test_words_control : reads [(0x111DC1B1, .vfetch 17527), (0x688B43B1, .vtfetch 13381 5), (0x000005B1, .vstop), (0xF32087B1, .vskip 2 7780),
    (0x44F809B1, .vlset 0 2207), (0x7CB04BB1, .vlbr 1 3990), (0x00184DB1, .vreply 1 3), (0x00010FB1, .vfetchr 4)] = true := by decide +kernel
/-- MAJ 0x37 and 0x38 (R86). -/
theorem test_words_scatter : reads [(0x00CC01B9, .vxadd 0 16 25 none false), (0xF1FBD5B9, .vxfadd 10 15 31 (some 7) false), (0x020E57B9, .vxmax 11 25 1 none false),
    (0x033019B9, .vxmin 12 0 6 none false), (0xB4D2E7B9, .vxand 19 11 26 (some 3) false), (0x85F031BD, .vxorAtomic 24 0 30 (some 0) true),
    (0x96E2DDB9, .vxmaxu 14 11 28 (some 1) false), (0xB711EBBD, .vxminu 21 7 2 (some 3) true), (0x0006E1C5, .vcvtf 16 27 none true),
    (0x010015C5, .vcvtfi 10 0 none true), (0x0202A9C1, .vcvtif 20 10 none false), (0xD303F1C5, .vdenc 24 15 (some 5) true),
    (0x840077C1, .vddec 27 1 (some 0) false), (0xB50649C1, .vscl 4 25 (some 3) false), (0x06004FC1, .vqnt 7 1 none false)] = true := by decide +kernel
/-- The compressed parcels (R81). -/
theorem test_words_parcels : reads [(0x5922, .cAddi 9 22), (0x0444, .cLi 2 1), (0x2046, .cMv 2 8), (0x1048, .cAdd 2 4), (0x12EA, .cSub 23 4), (0x308C, .cAnd 4 12),
    (0x99EE, .cShli 15 38), (0x34F0, .cLdd 7 13), (0x08B2, .cStd 5 2), (0xF8D4, .cBeqz 6 62), (0x19B6, .cBnez 13 6), (0x96D8, .cJ 1206), (0x82BA, .cJlr 21 true),
    (0x001C, .cVstop)] = true := by decide +kernel
/-- The tile words (R82, R83): the spec's own `mma`, then one of each. -/
theorem test_words_tile : reads [(0x004501F101001F83, .mma 0 8 20 true false false true 31 false), (0x010001F100000043, .mzero 2 false),
    (0xA2000FF500650023, .mrow 7 1 5 3 (some 2) true), (0x033149F100C00063, .mstr 3 4 5 6 6 none false), (0x04F883F100000003, .mstx 0 1 2 31 0 none false)] = true :=
  by decide +kernel
/-- Reserved fields: C of a scalar word; F of `add`; MS with ME = 0; B of `vid`; CLASS, P[31:25], AFMT, DFMT and an odd A of a tile word; A of `mzero`; MAJ after
a prefix; a mask register past 7; X of `c.addi`; Z of `c.mv` (R79 to R83, R87). -/
theorem test_words_refused : [0x0031480D, 0x20314809, 0x10080561, 0x0B0801A9, 0x004501F101001F87, 0x004501F103001F83, 0x004501F101009F83, 0x033149F100E00063,
    0x004541F101001F83, 0x010041F100000043, 0x0031480901001F83, 0x00041991, 0x8002, 0x8066].all (fun w => decode w == none) = true := by decide +kernel
/-- `jl`, `lhi` and branches hold their immediates in the order of R78: -2 and -1. -/
theorem test_words_immediates : reads [(0xFFFF8259, .jl 1 (-2)), (0xFF31BE69, .beq 6 6 (-1)), (0xFFFFFE49, .lhi 31 (-1)), (0xFFF84011, .addi 0 1 (-1))] = true := by decide +kernel

/-! Instructions, one step each.  The values are the spec's worked cases where a comment says so; else they follow by hand. -/

/-- g1 after each, on the words a, b in registers 5, 6, with 9, 64 and 63 in 7, 8, 9. -/
def binary (a b : Nat) (l : List (GReg → GReg → GReg → Instr)) : List Nat :=
  l.map fun f => g_ (run (f 1 5 6) (regs (mach 0x00314809) [(5, a), (6, b)])) 1
/-- -7 and 2: division truncates to zero, and a remainder has the sign of the dividend (R91, R92). -/
theorem test_scalar_signs : binary (2 ^ 64 - 7) 2 [.add, .sub, .sra, .slt, .sltu, .min, .max, .minu, .maxu, .mul, .mulh, .mulhu, .mulhsu, .div, .rem, .divu, .remu] =
    [2 ^ 64 - 5, 2 ^ 64 - 9, 2 ^ 64 - 2, 1, 0, 2 ^ 64 - 7, 2, 2, 2 ^ 64 - 7, 2 ^ 64 - 14, 2 ^ 64 - 1, 1, 2 ^ 64 - 1, 2 ^ 64 - 3, 2 ^ 64 - 1,
      2 ^ 63 - 4, 1] := by decide +kernel
/-- A shift takes the low six bits of its count; division by 0 answers -1 and the dividend; the most negative number by -1 (R91, R92). -/
theorem test_scalar_corners : binary 0xF0 66 [.sll, .srl, .and, .or, .xor, .andn] = [0x3C0, 0x3C, 0x40, 0xF2, 0xB2, 0xB0] ∧
    binary 5 0 [.div, .divu, .rem, .remu] = [2 ^ 64 - 1, 2 ^ 64 - 1, 5, 5] ∧ binary (2 ^ 63) (2 ^ 64 - 1) [.div, .rem] = [2 ^ 63, 0] ∧
    [Instr.clz 1 5, .ctz 1 5, .cpop 1 5, .clz 1 0, .ctz 1 0].map (fun i => g_ (run i (regs (mach 0x00314809) [(5, 0x5000)])) 1) = [49, 12, 2, 64, 64] :=
  by decide +kernel
/-- g0 reads 0 and discards what is written; PC moves on all the same (R90). -/
theorem test_scalar_zero : (fun t => (g_ t 0, pcOf t)) (run (.add 0 6 7) s1) = (0, 0x4004) := by decide +kernel
/-- Immediates are signed; `lhi` and `lpc` count 2^13 (R93 to R95). -/
theorem test_scalar_immediates : [Instr.addi 1 6 (-1), .andi 1 6 (-4), .ori 1 7 1, .xori 1 7 (-1), .slti 1 6 (-6), .sltiu 1 7 (-1), .shli 1 7 63, .shri 1 6 60,
      .srai 1 6 1, .lhi 1 (-1), .lpc 1 3].map (fun i => g_ (run i s1) 1) =
    [2 ^ 64 - 8, 2 ^ 64 - 8, 3, 2 ^ 64 - 3, 1, 1, 0, 15, 2 ^ 64 - 4, 2 ^ 64 - 0x2000, 0xA000] := by decide +kernel
/-- The spec's own case: `lhi` 0x1002, then `shli` 20 (R95). -/
theorem test_scalar_lhi : g_ (run (.lhi 1 0x1002) s1) 1 = 0x2004000 ∧ g_ (run (.shli 1 1 20) (run (.lhi 1 0x1002) s1)) 1 = 0x200400000000 := by decide +kernel
/-- Branches count halfwords from their own address; `jl` links the next address; `jlr` jumps to a register (R96, R97). -/
theorem test_scalar_jumps : [Instr.beq 0 0 (-2), .bne 0 0 8, .blt 6 7 4, .bltu 6 7 4, .bge 6 7 4, .bgeu 6 7 4, .jlr 1 2 4].map (fun i => pcOf (run i s1)) =
    [0x3FFC, 0x4004, 0x4008, 0x4004, 0x4004, 0x4008, 0x8004] ∧
    (fun t => (g_ t 1, pcOf t)) (run (.jl 1 (-4)) s1) = (0x4004, 0x3FF8) := by decide +kernel
/-- Bytes lie low end first; the signed loads extend the sign (R1, R98). -/
def loads : State := words s1 [(0x300000, 0x8182838485868788)]
theorem test_scalar_loads : [Instr.ldb 1 4 1, .ldbu 1 4 1, .ldh 1 4 2, .ldhu 1 4 2, .ldw 1 4 4, .ldwu 1 4 4, .ldd 1 4 0].map (fun i => g_ (run i loads) 1) =
    [2 ^ 64 - 0x79, 0x87, 2 ^ 64 - 0x7A7B + 0x1, 0x8586, 2 ^ 64 - 0x7E7D7C7C, 0x81828384, 0x8182838485868788] := by decide +kernel
/-- A store changes the bytes it names alone (R98). -/
theorem test_scalar_stores : [Instr.stb 7 4 1, .sth 7 4 2, .stw 7 4 4, .std 7 4 0].map (fun i => memRead (run i loads).mem 0x300000 8) =
    [0x8182838485860288, 0x8182838400028788, 0x0000000285868788, 2] := by decide +kernel
/-- A misaligned load traps: cause 0x03, the address, and the instruction's own address (R99, R211). -/
theorem test_scalar_misaligned : (fun t => ((t.hart 0).c.st[7], (t.hart 0).c.st[8], (t.hart 0).c.st[9], (t.hart 0).c.pc, (t.hart 0).c.inh))
    (run (.ldd 1 8 0) handled) = (3#64, 0x8001#64, 0x4000#64, 0x8000#64, true) := by decide +kernel
/-- Atomics answer the old value, of 32 bits with its sign; `atcas` compares with g[D] (R102). -/
theorem test_scalar_atomics : [Instr.atswap 1 7 4 true false false, .atadd 1 7 4 true true true, .atand 1 7 4 false false false, .atmax 1 7 4 false false false,
      .atmaxu 1 7 4 false false false, .atcas 1 7 4 true false false].map (fun i => (fun t => (g_ t 1, memRead t.mem 0x300000 8)) (run i loads)) =
    [(0x8182838485868788, 2), (0x8182838485868788, 0x818283848586878A), (2 ^ 64 - 0x7A797878, 0x8182838400000000), (2 ^ 64 - 0x7A797878, 0x8182838400000002),
      (2 ^ 64 - 0x7A797878, 0x8182838485868788), (0x8182838485868788, 0x8182838485868788)] := by decide +kernel
/-- A compressed parcel does what its expansion does, two bytes on (R81). -/
theorem test_scalar_parcels : [Instr.cAddi 6 (-1), .cLi 6 (-1), .cMv 6 7, .cAdd 6 7, .cSub 6 7, .cAnd 6 7, .cShli 7 1].map (fun i => (fun t => (g_ t 6, g_ t 7, pcOf t)) (run i s1)) =
    [(2 ^ 64 - 8, 2, 0x4002), (2 ^ 64 - 1, 2, 0x4002), (2, 2, 0x4002), (2 ^ 64 - 5, 2, 0x4002), (2 ^ 64 - 9, 2, 0x4002), (0, 2, 0x4002), (2 ^ 64 - 7, 4, 0x4002)] :=
  by decide +kernel
/-- HARTID of the spec's example: tile 341, slot 6 (R14). -/
theorem test_system_hartid : hartIdWord 2734 = 0x42AE := by decide +kernel
/-- `trap` takes cause 0x0C with its code and its own address; `tret` goes back there (R214, R215). -/
theorem test_system_trap : (fun t => ((t.hart 0).c.st[7], (t.hart 0).c.st[8], (t.hart 0).c.st[9], (t.hart 0).c.pc)) (run (.trap 5) handled) =
    (0x0C#64, 5#64, 0x4000#64, 0x8000#64) ∧ pcOf (run .tret (run (.trap 5) handled)) = 0x4000 := by decide +kernel
/-- Only XFLAGS and the like are written whole; a write of VSI is cut (R211, R213). -/
theorem test_system_status : g_ (run (.getst 1 12) s1) 1 = 0 ∧ ((run (.setst 6 4) s1).hart 0).c.st[6] = 0x8000#64 := by decide +kernel

/-! Vector instructions, on 4 lanes (R344). -/

/-- The table of R130: I8, under the four modes of RMODE.FIX. -/
theorem test_vector_fixed : ((List.range 4).map fun rm => [outs 8 1 (vstate 0x00 rm 8 8 8 [0] [100] [100]) (.vsadd 6 0 2 none false),
      outs 8 1 (vstate 0x00 rm 8 8 8 [0] [5] [254]) (.vaadd 6 0 2 none false), outs 8 1 (vstate 0x00 rm 8 8 8 [0] [64] [96]) (.vsmul 6 0 2 none false),
      outs 8 1 (vstate 0x00 rm 8 8 8 [0] [128] [128]) (.vsmul 6 0 2 none false), outs 8 1 (vstate 0x00 rm 8 8 8 [0] [253] []) (.vssra 6 0 1 none false),
      outs 8 1 (vstate 0x10 rm 8 16 8 [0] [9664] []) (.vnclipu 6 0 7 none false), outs 8 1 (vstate 0x10 rm 8 16 8 [0] [33664] []) (.vnclipu 6 0 7 none false)]) =
    [(2, 255, 76), (2, 254, 76), (1, 254, 75), (1, 255, 75)].map fun p => [([127], 1), ([p.1], 0), ([48], 0), ([127], 1), ([p.2.1], 0), ([p.2.2], 0), ([255], 1)] :=
  by decide +kernel
/-- The worked conversions of FP32 300.0 under RNE: BF16, FP16, E5M2, E4M3, E2M1 and D8 (R28, R34). -/
theorem test_vector_convert_down : [(6, 16), (7, 16), (11, 8), (10, 8)].map (fun p => outs p.2 1 (vstate (0x80 + p.1) 0 p.2 32 32 [0] [0x43960000] []) (.vcvtf 6 0 none false)) =
    [([0x4396], 0), ([0x5CB0], 0), ([0x5D], 2), ([0x79], 2)] ∧
    outs 4 1 (elems (vec s1 0x8C 1) 8 32 [0x43960000]) (.vcvtf 6 8 none false) = ([7], 10) ∧
    outs 8 1 (vstate 0x8D 0 8 32 32 [0] [0x43960000] []) (.vdenc 6 0 none false) = ([0], 10) := by decide +kernel
/-- 0.75 and 0.3 in D8 (R34); 500 in E4M3, and 65,536 in E5M2, under RNE and RTZ. -/
theorem test_vector_convert_limits : outs 8 2 (vstate 0x8D 0 8 32 32 [0, 0] [0x3F400000, 0x3E99999A] []) (.vdenc 6 0 none false) = ([0xA0, 0x42], 2) ∧
    [0, 4].map (fun rm => outs 8 1 (vstate 0x8A rm 8 32 32 [0] [0x43FA0000] []) (.vcvtf 6 0 none false)) = [([0x7E], 10), ([0x7E], 10)] ∧
    [0, 4].map (fun rm => outs 8 1 (vstate 0x8B rm 8 32 32 [0] [0x47800000] []) (.vcvtf 6 0 none false)) = [([0x7C], 10), ([0x7B], 10)] := by decide +kernel
/-- FP32 -2.5 to I8 under RNE, RTZ, RDN, RUP, RMM, and 200.0. -/
theorem test_vector_convert_integer : [0, 4, 8, 12, 16].map (fun rm => outs 8 1 (vstate 0x80 rm 8 32 32 [0] [0xC0200000] []) (.vcvtfi 6 0 none false)) =
    [([254], 2), ([254], 2), ([253], 2), ([254], 2), ([253], 2)] ∧
    outs 8 1 (vstate 0x80 0 8 32 32 [0] [0x43480000] []) (.vcvtfi 6 0 none false) = ([127], 32) := by decide +kernel
/-- The worked block of `vqnt`: the elements and the scale (R141). -/
def block : State := vstate 0xC8D 0 8 32 32 (List.replicate 16 0) [0x3F19999A, 0xBF99999A, 0x3E99999A] []
theorem test_vector_quantise : outs 8 4 block (.vqnt 8 0 none false) = ([0, 0, 0, 0], 2) ∧
    (fun t => ((List.range 4).map (element (t.hart 0).live.v 4 8 8), ((t.hart 0).c.k[2]).toNat % 256)) (run (.vqnt 8 0 none false) block) = ([0x31, 0xA8, 0x42, 0x08], 0x7F) := by
  decide +kernel
/-- The sum of 2^30, 1, -2^30 and 2^-30 from 1.0 (R43); sums, minimum and maximum of integers (R146). -/
theorem test_vector_reduce : outs 32 2 (vstate 0x88 0 32 32 32 [9, 9, 9, 9] [0x4E800000, 0x3F800000, 0xCE800000, 0x30800000] [0x3F800000]) (.vfredsum 6 0 2 none false) = ([0x30800000, 0], 2) ∧
    [Instr.vredsum 6 0 2 none false, .vredmax 6 0 2 none false, .vredmin 6 0 2 none false].map (outs 8 2 (vstate 0 0 8 8 8 [9, 9, 9] [100, 200, 3] [1])) =
      [([48, 0], 0), ([100, 0], 0), ([200, 0], 0)] := by decide +kernel
/-- The worked scatter of R144; slides, a gather and the moves of R143, with VL 4. -/
theorem test_vector_permute : outs 32 5 (vstate 0x22 0 32 32 32 [5, 6, 7, 8] [10, 20, 30, 40] [2, 0, 2, 7]) (.vscat 6 0 2 none false) = ([20, 6, 30, 8, 0], 64) ∧
    [Instr.vslup 6 0 7 none false, .vsldn 6 0 7 none false, .vrgat 6 0 2 none false, .vid 6 none false, .vbcast 6 6 none false, .vmvgs 6 7 none false].map
      (fun i => (outs 32 5 (vstate 0x22 0 32 32 32 [5, 6, 7, 8] [10, 20, 30, 40] [2, 0, 2, 7]) i).1) =
    [[5, 6, 10, 20, 0], [30, 40, 0, 0, 0], [30, 10, 30, 0, 0], [0, 1, 2, 3, 0], [0xFFFFFFF9, 0xFFFFFFF9, 0xFFFFFFF9, 0xFFFFFFF9, 0], [2, 6, 7, 8, 0]] := by decide +kernel
/-- Integer instructions in I8: wrap, shift counts modulo 8, signs (R127). -/
theorem test_vector_integer : [Instr.vaddVv 6 0 2 none false, .vsubVv 6 0 2 none false, .vrsubVv 6 0 2 none false, .vsllVv 6 0 2 none false, .vsrlVv 6 0 2 none false,
      .vsraVv 6 0 2 none false, .vminVv 6 0 2 none false, .vmaxuVv 6 0 2 none false, .vmulVv 6 0 2 none false, .vmulhVv 6 0 2 none false, .vaddVi 6 0 (-1) none false].map
      (fun i => (outs 8 3 (vstate 0 0 8 8 8 [7, 7] [0xF0, 3] [0x21, 9]) i).1) =
    [[0x11, 12, 0], [0xCF, 0xFA, 0], [0x31, 6, 0], [0xE0, 6, 0], [0x78, 1, 0], [0xF8, 1, 0], [0xF0, 3, 0], [0xF0, 9, 0], [0xF0, 27, 0], [0xFD, 0, 0], [0xEF, 2, 0]] := by
  decide +kernel
/-- Widening (R131, R132): I16 from I8, and the sum of four products in I32. -/
theorem test_vector_widen : [Instr.vwmul 6 0 2 none false, .vwmulu 6 0 2 none false, .vwmulsu 6 0 2 none false, .vwmacc 6 0 2 none false].map
      (fun i => (outs 16 1 (vstate 0x01 0 16 8 8 [10] [0xFE] [0xFF]) i).1) = [[2], [0xFD02], [0xFE02], [12]] ∧
    outs 32 1 (vstate 0x02 0 32 32 32 [100] [0x01FF02FE] [0x03040506]) (.vqmacc 6 0 2 none false) = ([97], 0) := by decide +kernel
/-- FP32: 1.5 and 2; the quotient by zero; an invalid product; the tables of minima (R136, R137, R40). -/
theorem test_vector_float : [Instr.vfadd 6 0 2 none false, .vfsub 6 0 2 none false, .vfmul 6 0 2 none false, .vfdiv 6 0 2 none false, .vfmacc 6 0 2 none false, .vfmin 6 0 2 none false].map
      (outs 32 1 (vstate 0x88 0 32 32 32 [0x3F800000] [0x3FC00000] [0x40000000])) =
    [([0x40600000], 0), ([0xBF000000], 0), ([0x40400000], 0), ([0x3F400000], 0), ([0x40800000], 0), ([0x3FC00000], 0)] ∧
    outs 32 1 (vstate 0x88 0 32 32 32 [0] [0xBF800000] [0]) (.vfdiv 6 0 2 none false) = ([0xFF800000], 16) ∧
    outs 32 1 (vstate 0x88 0 32 32 32 [0] [0x7F800000] [0]) (.vfmul 6 0 2 none false) = ([0x7FC00000], 32) ∧
    outs 32 1 (vstate 0x88 0 32 32 32 [0] [0x80000000] [0]) (.vfmin 6 0 2 none false) = ([0x80000000], 0) := by decide +kernel
/-- Where the spec gives the special functions exactly: powers of two, and an infinity (R41). -/
theorem test_vector_special : outs 32 2 (vstate 0x88 0 32 32 32 [0, 0] [0x40000000, 0x7F800000] []) (.vrcp 6 0 none false) = ([0x3F000000, 0], 0) ∧
    outs 32 2 (vstate 0x88 0 32 32 32 [0, 0] [0x40400000, 0xFF800000] []) (.vexp2 6 0 none false) = ([0x41000000, 0], 0) ∧
    outs 32 1 (vstate 0x88 0 32 32 32 [0] [0xBF800000] []) (.vlog2 6 0 none false) = ([0x7FC00000], 32) := by decide +kernel
/-- Masks 1 and 2 are 0b0110 and 0b1010; g1, or mask 3, with VL 4 (R135). -/
def masks : State := (vec s1 0x22 4).onHart 0 fun x => { x with c := { x.c with m := (x.c.m.set 1 6).set 2 10 } }
theorem test_vector_masks : [Instr.mand 3 1 2 false, .mor 3 1 2 false, .mxor 3 1 2 false, .mandn 3 1 2 false, .mnot 3 1 false, .mset 3 false, .mclr 1 false, .mmv 3 2 false].map
      (fun i => (((run i masks).hart 0).c.m[3]).toNat) = [2, 14, 12, 4, 9, 15, 0, 10] ∧
    [Instr.mpop 1 2 false, .mfirst 1 2 false, .mlast 1 2 false, .mtop 1 2 false].map (fun i => g_ (run i masks) 1) = [2, 1, 3, 1] := by decide +kernel
/-- `setvl` cuts VL to VLMAX, 32 here; an illegal type sets VT.ILL and VL 0 (R106 to R108). -/
theorem test_vector_length : (fun t => (g_ t 1, (t.hart 0).c.st[1], (t.hart 0).c.st[0])) (run (.setvl 1 4 0x22) s1) = (32, 0x22#64, 32#64) ∧
    (fun t => (g_ t 1, (t.hart 0).c.st[1], (t.hart 0).c.st[0])) (run (.setvl 1 4 0x2E) s1) = (0, 0x8000000000000000#64, 0#64) := by decide +kernel
/-- Unit-stride and strided loads, and a store (R117): two words of 32 bits. -/
theorem test_vector_memory : (outs 32 3 (vec (words s1 [(0x300000, 0x1111111122222222)]) 0x22 2) (.vld 6 4 none false)).1 = [0x22222222, 0x11111111, 0] ∧
    (outs 32 3 (vec (words (regs s1 [(4, 0x8000), (7, 8)]) [(0x300000, 0x1111111122222222), (0x300008, 0x33333333)]) 0x22 2) (.vlds 6 4 7 none false)).1 = [0x22222222, 0x33333333, 0] ∧
    memRead (run (.vst 6 4 none false) (vstate 0x22 0 32 32 32 [5, 6] [] [])).mem 0x300000 8 = 0x0000000600000005 := by decide +kernel
/-- The worked `vxfadd` of R122: the two words, and NX. -/
theorem test_scatter_atomic : (fun t => (memRead t.mem 0x300000 4, memRead t.mem 0x300008 4, (t.hart 0).c.st[4]))
    (run (.vxfadd 0 4 2 none false) (words (vstate 0x28 0 32 32 32 [0, 0, 0, 0] [0x4B800000, 0x40A00000, 0x3F800000, 0x3F800000] [0, 8, 0, 0]) [(0x300008, 0x40400000)])) =
      (0x4B800000, 0x41000000, 2#64) := by decide +kernel

/-! Accumulators, facets, queues, links and the fitting engine. -/

/-- The sum of R42: 2^30, 1, -2^30 and 2^-30 onto 1.0, in BF16 with K = 4; then I8 with K = 1, which wraps nothing. -/
def tile (vt : Nat) (w : Nat) (a b : List Nat) (acc : Nat) : State :=
  (b.zipIdx.foldl (fun s p => elems s (4 + Fin.ofNat 32 p.2) w [p.1]) (elems (vec s1 vt 1) 0 w a)).onHart 0 fun x => { x with
    live := { x.live with acc := x.live.acc.set 1 (BitVec.ofNat 262144 acc) } }
theorem test_tile_multiply : (fun t => ((t.hart 0).live.acc[1].toNat % 2 ^ 32, (t.hart 0).c.st[4]))
      (run (.mma 1 4 0 false false false true 0 false) (tile 0x266 16 [0x4E80, 0x3F80, 0xCE80, 0x3080] [0x3F80, 0x3F80, 0x3F80, 0x3F80] 0x3F800000)) = (0x40000000, 2#64) ∧
    (fun t => ((t.hart 0).live.acc[1].toNat % 2 ^ 32, (t.hart 0).c.st[4]))
      (run (.mma 1 4 0 false false true true 0 false) (tile 0x00 8 [0x80] [0x80] 5)) = (0x4005, 0#64) := by decide +kernel
theorem test_tile_drain : (fun t => element (t.hart 0).live.v 4 6 32 0) (run (.mrow 6 1 0 0 none false) (tile 0x88 8 [] [] 0x40000000)) = 0x40000000 ∧
    (fun t => (t.hart 0).live.acc[1]) (run (.mzero 1 false) (tile 0x88 8 [] [] 0x40000000)) = 0 := by decide +kernel
/-- `vfetch` appends an entry and passes on; the unit then runs a queued `vadd` (R150, R158). -/
theorem test_facet_issue : (fun t => ((t.hart 0).c.vqcount, (t.hart 0).c.vq[0][0], pcOf t)) (run (.vfetch 8) (vec s1 0x22 2)) = (1#64, 0x4000#64, 0x4004#64) ∧
    (fun t => ((t.hart 0).c.vqcount, e32 t 2 0)) (run (.elementGroupComplete 0) (lane32 (lane32 (queued s1 [0x4000, 0x80561, 0x22, 4]) 0 [5]) 1 [7])) = (0#64, 12) := by decide +kernel
/-- An empty future is resolved; resolving it again poisons it and traps (R231); polling shows its state (R233). -/
theorem test_future : memRead (run (.fres 4) s1).mem 0x300000 8 = 2 ∧ g_ (run (.fpoll 1 4) (words s1 [(0x300000, 3)])) 1 = 3 ∧
    (fun t => (memRead t.mem 0x300000 8, (t.hart 0).c.st[7], (t.hart 0).c.st[8])) (run (.fres 4) (words handled [(0x300000, 2)])) = (3, 8#64, 0x8000#64) := by decide +kernel
/-- An arrival counts down; the last one begins the next generation and reloads the count (R236, R238). -/
theorem test_barrier : [2, 1].map (fun n => memRead (run (.bara 4) (words s1 [(0x300000, 0x0008000500000000 + n)])).mem 0x300000 8) =
    [0x0008000500000001, 0x0008000600000002] := by decide +kernel
/-- The worked training step: the weights after it; mae is within EFIT (R282). -/
def worked : TSlot := {
  st := 1, shape := 0x62008, thr := 0x3F8000003F000000, samp := 0x3FE020004,
  w := [(ixW1 0 0, 0x3F800000), (ixW1 1 0, 0xBF800000), (ixB1 0, 0), (ixB1 1, 0x3F000000), (ixW2 0 0, 0x3F800000), (ixW2 0 1, 0x3F800000)].foldl
    (fun w p => w.set! p.1 (BitVec.ofNat 32 p.2)) (Vector.replicate 420 0) }
theorem test_training_step : (fun p => ([ixW1 0 0, ixW1 1 0, ixB1 0, ixB1 1, ixW2 0 0, ixW2 0 1, ixB2 0].map (fun i => (p.1.w[i]!).toNat), p.2))
    (trained worked [([0x3F800000], [0x40000000]), ([0xBF800000], [0x3F800000])]) =
      ([0x3F900000, 0xBF700000, 0x3E000000, 0x3EE00000, 0x3F900000, 0x3F680000, 0x3D800000], true) := by decide +kernel
/-- The first step after reset runs what stands where it fetches. -/
theorem test_step_runs : (match step (State.reset.withFetchWord 32 0xFFF80211) with | .next t => (g_ t 1, pcOf t) | _ => (0, 0)) = (2 ^ 64 - 1, 0x4004#64) := by
  decide +kernel
/-! Witnesses: the hypotheses of each statement hold together of something. -/

theorem test_hyp_DecodeEncode : ∃ i : Instr, i.wf = true ∧ i.encoded = true := ⟨.apx 3 4095, by decide⟩
theorem test_hyp_EncodeDecode : ∃ x i, decode x = some i := ⟨0x00314809, .add 4 5 6, by decide +kernel⟩
theorem test_hyp_ReservedRefused :
    (∀ k ∈ [0, 0x23, 0x27, 0x39, 0x3D, 0x3F], ∃ x, x % 4 = 1 ∧ x / 8 % 64 = k) ∧ (∀ k ∈ [0, 15], ∃ x, x % 2 = 0 ∧ x / 2 % 16 = k) :=
  ⟨fun k h => ⟨8 * k + 1, by revert k; decide⟩, fun k h => ⟨2 * k, by revert k; decide⟩⟩
/-- RegisterOps, CountOps, ImmediateOps, ParcelOps, DivisionIdentity (whose destination is not g0), and branches. -/
theorem test_hyp_Arithmetic : ∃ s, InControl s ∧ ∃ d : GReg, d.val ≠ 0 := ⟨s1, rfl, 31, by decide⟩
theorem test_hyp_Jumps :
    (∃ s, InControl s ∧ ∃ (a : GReg) (i : Imm13), (gr s a + i.signExtend 64).toNat % 2 = 1) ∧
    (∃ s, InControl s ∧ ∃ (a : GReg) (i : Imm13), (gr s a + i.signExtend 64).toNat % 2 = 0) :=
  ⟨⟨s1, rfl, 4, 1, by decide +kernel⟩, ⟨s1, rfl, 4, 0x1000, by decide +kernel⟩⟩
/-- At the last byte of the page, the last aligned word, and a misaligned one. -/
theorem test_hyp_Loads :
    (∃ s x, InControl s ∧ Plain s (whoS s s.me) .load (gr s 4 + (0x0FFF : Imm13).signExtend 64).toNat 1 x) ∧
    (∃ s x, InControl s ∧ Plain s (whoS s s.me) .load (gr s 5 + (0x1FF8 : Imm13).signExtend 64).toNat 8 x) ∧
    (∃ s x, InControl s ∧ Plain s (whoS s s.me) .load (gr s 2 + BitVec.ofNat 64 (8 * (63 : Sh6).toNat)).toNat 8 x) ∧
    (∃ s, InControl s ∧ (gr s 8 + (0 : Imm13).signExtend 64).toNat % 2 ≠ 0) :=
  ⟨⟨s1, page2 0xFFF, rfl, plain_of (by decide +kernel)⟩, ⟨s1, page3 0, rfl, plain_of (by decide +kernel)⟩,
    ⟨s1, page2 504, rfl, plain_of (by decide +kernel)⟩, s1, rfl, by decide +kernel⟩
/-- Under both policies of the data cache. -/
theorem test_hyp_Stores : ∀ lazy : Bool, ∃ s x, InControl s ∧ (s.tile (tileOf s.me)).lazyWb = lazy ∧ eKind x.leaf = 0 ∧
    Plain s (whoS s s.me) .store (gr s 4 + (0 : Imm13).signExtend 64).toNat 4 x ∧
    Plain s (whoS s s.me) .store (gr s 2 + BitVec.ofNat 64 (8 * (0 : Sh6).toNat)).toNat 8 x := fun lazy =>
  ⟨s1.onTile 0 fun t => { t with lazyWb := lazy }, page2 0, rfl, by cases lazy <;> decide +kernel, by decide +kernel,
    plain_of (by cases lazy <;> decide +kernel), plain_of (by cases lazy <;> decide +kernel)⟩
/-- No translation; no permission; a page of a queue; a poisoned word of eight bytes and of the last byte; and the tables' alias, for a store. -/
def poisonous : State := { regs s1 [(4, 0x8000), (6, 0x18000), (9, 0x10000), (14, 0x1C000), (15, 0x30000)] with poison := [0x60000] }
theorem test_hyp_ScalarFaults :
    (∀ acc ∈ [Acc.load, .store], ∃ s, InControl s ∧ leafFor s (whoS s s.me) acc (gr s 15).toNat = none) ∧
    (∃ s e pa l, InControl s ∧ leafFor s (whoS s s.me) .store (gr s 14).toNat = some (e, pa, l) ∧ regionOf (eFrame e + (gr s 14).toNat % leafSize l) ≠ none ∧
      quarantined s (eFrame e + (gr s 14).toNat % leafSize l) = false ∧ e / 8 % 2 = 0) ∧
    (∃ s t, InControl s ∧ xlate s (whoS s s.me) .store (gr s 14).toNat = .error t) ∧
    (∀ acc ∈ [Acc.load, .store], ∃ s x, InControl s ∧ xlate s (whoS s s.me) acc (gr s 9).toNat = .ok x ∧ eKind x.leaf = 2) ∧
    (∃ s x, InControl s ∧ xlate s (whoS s s.me) .store (gr s 6).toNat = .ok x ∧ eKind x.leaf = 3) ∧
    (∀ acc ∈ [Acc.load, .store], ∃ s x, InControl s ∧ (∀ n ∈ [1, 2, 4, 8], (gr s 4).toNat % n = 0 ∧ poisoned s x.pa n = true) ∧ xlate s (whoS s s.me) acc (gr s 4).toNat = .ok x ∧
      eKind x.leaf ≠ 2 ∧ eKind x.leaf ≠ 3 ∧ inArena s x.pa = false) :=
  ⟨fun a h => ⟨poisonous, rfl, by revert a; decide +kernel⟩, ⟨poisonous, 0x304205, 0x7F800000C038, 3, rfl, by decide +kernel⟩,
    ⟨poisonous, { cause := 5, tval := 0x1C000 }, rfl, err_of (by decide +kernel)⟩,
    fun a h => ⟨poisonous, queue0, rfl, ok_of (by revert a; decide +kernel), by decide +kernel⟩,
    ⟨poisonous, ⟨0x7F800000C000, 0x7F800000C66D, 0x7F800000C030, .device⟩, rfl, ok_of (by decide +kernel), by decide +kernel⟩,
    fun a h => ⟨poisonous, page2 0, rfl, by decide +kernel, ok_of (by revert a; decide +kernel), by decide +kernel⟩⟩
theorem test_hyp_Atomics : (∃ s x, InControl s ∧ Plain s (whoS s s.me) .atomic (gr s 5).toNat 4 x) ∧
    (∃ s x, InControl s ∧ Plain s (whoS s s.me) .atomic (gr s 5).toNat 8 x) :=
  ⟨⟨s1, page3 8, rfl, plain_of (by decide +kernel)⟩, ⟨s1, page3 8, rfl, plain_of (by decide +kernel)⟩⟩

/-- An instruction, a word that is none, and an address that is not mapped. -/
theorem test_hyp_StepPerformsDecoded :
    (∃ s, AtBoundary s ∧ ∃ bits u i, (fetchAt (whoS (ticked s) s.cur.hart) false (s.hart s.cur.hart).c.pc.toNat).run.run (ticked s) = (.ok bits, u)
      ∧ decode (bits % 2 ^ (8 * parcelLen bits)) = some i) ∧
    (∃ s, AtBoundary s ∧ ∃ bits u, (fetchAt (whoS (ticked s) s.cur.hart) false (s.hart s.cur.hart).c.pc.toNat).run.run (ticked s) = (.ok bits, u)
      ∧ decode (bits % 2 ^ (8 * parcelLen bits)) = none) ∧
    (∃ s, AtBoundary s ∧ ∃ e u, (fetchAt (whoS (ticked s) s.cur.hart) false (s.hart s.cur.hart).c.pc.toNat).run.run (ticked s) = (.error e, u)) :=
  ⟨⟨s1, boundary_of (by decide +kernel), 0x00314809, _, .add 4 5 6, got_of (by decide +kernel), by decide +kernel⟩,
    ⟨mach 1, boundary_of (by decide +kernel), 1, _, got_of (by decide +kernel), by decide +kernel⟩,
    ⟨s1.onHart 0 fun x => { x with c := { x.c with pc := 0x8000 } }, boundary_of (by decide +kernel), { cause := 5, tval := 0x8000 }, _,
      lost_of (by decide +kernel)⟩⟩
theorem test_hyp_StepAddsNothing : ∃ (s : State) (m : Mover), (s.hart m.hart).step1 = false ∧ ∀ p ∈ s.harts, p.2.soft = [] :=
  ⟨s1, ⟨0, .control⟩, by decide +kernel, by decide +kernel⟩
theorem test_hyp_AgendaFirst : ∃ (s : State) (i : Instr) (r : List Turn), s.agenda = .event i :: r ∧ deviceStep i = true ∧
    ∀ h, i = .vectorSideFault h ∨ i = .saveComplete h → vDue (s.hart h) = false :=
  ⟨s1.later (.saveComplete 0), .saveComplete 0, [], rfl, by decide +kernel, fun h e => by
    have : ∀ h : HartId, h = 0 → vDue ((s1.later (.saveComplete 0)).hart h) = false := by intro h e; rw [e]; decide +kernel
    rcases e with e | e <;> cases e; exact this _ rfl⟩
theorem test_hyp_ControlOnly : ∃ s : State, s.cur.thread ≠ .control := ⟨{ s1 with cur := ⟨0, .vp 0⟩ }, by decide⟩

/-- In the handler, after a trap. -/
def inHandler (cause tpc : Nat) : State :=
  (status (status handled 7 cause) 9 tpc).onHart 0 fun x => { x with c := { x.c with inh := true } }
theorem test_hyp_Traps : (∃ s, InControl s ∧ Handled s s.me) ∧ (∃ s, InControl s ∧ ¬ Handled s s.me ∧ (s.hart s.me).c.st[6] = 0) ∧
    (∃ s, InControl s ∧ ¬ Handled s s.me ∧ (s.hart s.me).c.inh = true ∧ insideFacet (withdraw (s.hart s.me)) = none ∧ (s.hart s.me).live.late = none) ∧
    (∃ s, InControl s ∧ ¬ Handled s s.me ∧ insideFacet (withdraw (s.hart s.me)) ≠ none) :=
  ⟨⟨handled, rfl, by decide +kernel, by decide +kernel⟩, ⟨s1, rfl, fun h => absurd h.1 (by decide +kernel), by decide +kernel⟩,
    ⟨inHandler 0 0, rfl, fun h => absurd h.2 (by decide +kernel), by decide +kernel⟩,
    s1.onHart 0 fun x => { x with live := { x.live with tvps := [{ vp := 7, facet := 0, pc := 4, cnt := 0, entry := 0 }] } }, rfl,
    fun h => absurd h.1 (by decide +kernel), by decide +kernel⟩
theorem test_hyp_EventsEnter : ∀ i : Fin 4, ∃ s h, Handled s h ∧ (s.hart h).state = .running ∧ vDue (s.hart h) = false ∧
    (s.hart h).falling = false ∧ (s.hart h).live.wait.isOutside = false ∧ Moves s h ∧ ((s.hart h).c.st[11].toNat &&& (s.hart h).c.st[10].toNat) / 2 ^ i.val % 2 = 1 ∧
    ∀ j : Fin 4, j < i → ((s.hart h).c.st[11].toNat &&& (s.hart h).c.st[10].toNat) / 2 ^ j.val % 2 = 0 := fun i =>
  ⟨status (status handled 11 (2 ^ i.val)) 10 15, 0, ⟨by revert i; decide +kernel, by revert i; decide +kernel⟩, by revert i; decide +kernel, by revert i; decide +kernel, by revert i; decide +kernel,
    by revert i; decide +kernel, moves_of (by revert i; decide +kernel), by revert i; decide +kernel⟩
theorem test_hyp_VectorFaultEnters : ∃ s h t, (s.hart h).onCore = true ∧ Handled s h ∧ (s.hart h).live.vfault = some t ∧
    (∀ v ∈ (s.hart h).live.tvps, v.faulted = none) ∧ (s.hart h).live.vhold = false ∧ t.pois = none ∧
    (s.hart h).falling = false ∧ (s.hart h).live.wait.isOutside = false ∧ Moves s h :=
  ⟨handled.onHart 0 fun x => { x with live := { x.live with vfault := some { cause := 3, tval := 1 } } }, 0, { cause := 3, tval := 1 },
    by decide +kernel, ⟨by decide +kernel, by decide +kernel⟩, by decide +kernel, by decide +kernel, by decide +kernel, by decide +kernel, by decide +kernel, by decide +kernel,
    moves_of (by decide +kernel)⟩
/-- The four cases of `tret`. -/
theorem test_hyp_TrapReturns :
    (∃ s, InControl s ∧ (s.hart s.me).c.inh = true ∧ (s.hart s.me).c.st[7].toNat / 512 % 2 = 0 ∧ (s.hart s.me).c.st[9].toNat % 2 = 0) ∧
    (∃ s, InControl s ∧ (s.hart s.me).c.inh = true ∧ (s.hart s.me).c.st[7].toNat / 512 % 2 = 1 ∧ (s.hart s.me).live.streamFault = false) ∧
    (∃ s, InControl s ∧ (s.hart s.me).c.inh = true ∧ (s.hart s.me).c.st[7].toNat / 512 % 2 = 0 ∧ (s.hart s.me).c.st[9].toNat % 2 = 1) ∧
    (∃ s, InControl s ∧ (s.hart s.me).c.inh = false ∧ (s.hart s.me).c.st[7].toNat / 512 % 2 = 0) :=
  ⟨⟨inHandler 0x1FF 0x4004, rfl, by decide +kernel⟩, ⟨inHandler 0x200 0x4004, rfl, by decide +kernel⟩,
    ⟨inHandler 0x0C 0x4005, rfl, by decide +kernel⟩, s1, rfl, by decide +kernel⟩
theorem test_hyp_Fences : ∃ s u, InControl s ∧ InControl u ∧ vIdle (s.hart s.me) = true ∧ vIdle (u.hart u.me) = false ∧
    (∃ x : Fld5, 5 ≤ x.val) ∧ (∃ x : Fld5, x.val < 5) :=
  ⟨s1, busy, rfl, rfl, by decide +kernel, by decide +kernel, ⟨5, by decide⟩, 4, by decide⟩
/-- A byte that the V agent of hart 0 has stored, not performed yet. -/
def held5 : Unperformed := { hart := 0, vp := none, key := 0, byte := 5, no := 1 }
/-- No dirty byte of the tile; one in a tile's store, and one of HBM. -/
theorem test_hyp_SentHome : (∃ (s : State) (t : TileId), ∀ p ∈ s.dcache, p.2.tile ≠ t) ∧
    (∀ a ∈ [0x300000, 0x100000000008], ∃ (s : State) (e : Dirty), (∀ d, (a, d) ∈ s.dcache ↔ d = e) ∧
      (regionOf a = some .store ∨ regionOf a = some .hbm ∧ ∀ p ∈ s.dcache, p.1 / 64 = a / 64 → keyAt s p.2.key = lineKeyAt s a)) ∧
    (∃ (s : State) (h : HartId), (∀ p ∈ s.vbuf, p.2.hart ≠ h) ∧ (s.hart h).live.vfence = false) ∧
    (∀ a ∈ [0x300000, 0x100000000008], ∃ (s : State) (h : HartId) (e : Unperformed), s.dcache = [] ∧ e.hart = h ∧ s.vbuf = [(a, e)] ∧ a % 2 ^ 48 = a ∧
      (regionOf a = some .store ∨ regionOf a = some .hbm ∧ ∀ p ∈ s.vbuf, p.2.hart = h → p.1 % 2 ^ 48 / 64 = a / 64 → keyAt s p.2.key = lineKeyAt s a)) :=
  ⟨⟨s1, 0, by decide +kernel⟩, fun a h => ⟨{ s1 with dcache := [(a, ⟨0, 0, 5⟩)] }, ⟨0, 0, 5⟩, fun d => by simp, by revert a; decide +kernel⟩, ⟨s1, 0, by decide +kernel⟩,
    fun a h => ⟨{ s1 with vbuf := [(a, held5)] }, 0, held5, by revert a; decide +kernel, by decide, rfl, by revert a; decide +kernel⟩⟩
/-- The hart has stored to the entry at 0x7F8000000000, and another hart to the next one. -/
theorem test_hyp_TableFence : ∃ (s : State) (h g : HartId) (p q : Nat × Word), p ∈ (s.hart h).tstores ∧ q ∈ (s.hart g).tstores ∧
    (∀ r ∈ (s.hart h).tstores, r.1 ≠ q.1) :=
  ⟨(s1.onHart 0 fun x => { x with tstores := [(0x7F8000000000, 3)] }).onHart 1 fun x => { x with tstores := [(0x7F8000000008, 3)] }, 0, 1,
    (0x7F8000000000, 3), (0x7F8000000008, 3), by decide +kernel⟩
theorem test_hyp_WaitingFences :
    ∀ p ∈ ([(.fencesv 4, .fence), (.fencevs 4, .fence), (.fencevv 4, .fence), (.fenceall 4, .fence), (.tfence, .tfence)] : List (Instr × Wait)),
    ∃ s h bits u, (s.hart h).state = .running ∧ Moves s h ∧
      (fetchAt (whoS s h) false (s.hart h).c.pc.toNat).run.run s = (.ok bits, u) ∧ vDrained (u.hart h) = true ∧ vIdle (u.hart h) = true ∧ (s.hart h).live.wait = p.2 ∧
      decode (bits % 2 ^ (8 * parcelLen bits)) = some p.1 := fun p h =>
  ⟨(mach (encode p.1)).setWait 0 p.2, 0, encode p.1, _, by revert p; decide +kernel, moves_of (by revert p; decide +kernel),
    got_of (by revert p; decide +kernel), by revert p; decide +kernel, by revert p; decide +kernel, by revert p; decide +kernel, by revert p; decide +kernel⟩
theorem test_hyp_StatusRead : ∃ s, InControl s ∧ vDrained (s.hart s.me) = true ∧ trimPending s s.me = false ∧ (∃ x : Fld5, x.val = 17) ∧ (∃ x : Fld5, x.val = 18) :=
  ⟨s1, rfl, by decide +kernel, by decide +kernel, ⟨17, rfl⟩, 18, rfl⟩
theorem test_hyp_StatusWrite : ∃ s, InControl s ∧ vDrained (s.hart s.me) = true ∧ trimPending s s.me = false := ⟨s1, rfl, by decide +kernel⟩
theorem test_hyp_Waits :
    (∃ s, InControl s ∧ (∀ l w, (s.hart s.me).live.wait ≠ .wait l w) ∧ (s.hart s.me).c.st[11] ≠ 0 ∧
      ∃ (a : GReg) (p : Xl), a ≠ 0 ∧ Plain s (whoS s s.me) .load (gr s a).toNat 8 p) ∧
    (∃ s, InControl s ∧ (∀ l w, (s.hart s.me).live.wait ≠ .wait l w) ∧ (s.hart s.me).c.st[11] = 0 ∧
      ∃ (a : GReg) (p : Xl), a ≠ 0 ∧ Clear s (whoS s s.me) .load (gr s a).toNat 8 p) ∧
    (∃ s, InControl s ∧ (∃ l, (s.hart s.me).live.wait = .wait l true)) ∧
    (∃ (s : State) (h : HartId) (l : Option Nat) (w : Bool), (s.hart h).live.wait = .wait l w ∧ (s.hart h).state = .running ∧ Moves s h) ∧
    (∃ (u : State) (pa n : Nat) (h : HartId) (l : Nat), (u.hart h).live.wait = .wait (some l) false ∧ pa / 64 ≤ l ∧ l ≤ (pa + n - 1) / 64) :=
  ⟨⟨status s1 11 1, rfl, by
        have : ((status s1 11 1).hart (status s1 11 1).me).live.wait = .none := by decide +kernel
        simp [this],
      by decide +kernel, 4, page2 0, by decide, plain_of (by decide +kernel)⟩,
    ⟨s1, rfl, by
        have : (s1.hart s1.me).live.wait = .none := by decide +kernel
        simp [this], by decide +kernel, 4, page2 0, by decide, clear_of (by decide +kernel)⟩,
    ⟨s1.setWait 0 (.wait none true), rfl, none, by decide +kernel⟩, ⟨s1.setWait 0 (.wait none false), 0, none, false, by decide +kernel, by decide +kernel, moves_of (by decide +kernel)⟩,
    s1.setWait 0 (.wait (some 0xC000) false), 0x300000, 8, 0, 0xC000, by decide +kernel⟩
/-- Hart 0, the one of its tile that is RUNNING, asks for fast or for near. -/
theorem test_hyp_Gears :
    (∃ (s : State) (t : TileId), (s.tile t).gchg = false ∧ (WantsNear s t ↔ (s.tile t).gcur = false)) ∧ (∃ (s : State) (t : TileId), (s.tile t).gchg = true) ∧
    (∃ s t, (WantsNear s t ↔ (s.tile t).gcur = true)) :=
  have n : ¬ WantsNear s1 0 := fun h => absurd (h 0 ⟨by decide +kernel, by
      have : (s1.hart (hartOf 0 0)).live.wait = .none := by decide +kernel
      rw [this]; exact ⟨by simp, by simp, by simp⟩⟩) (by decide +kernel)
  have y : WantsNear (status s1 5 1) 0 := fun i h => by
    have : ∀ i : Fin 8, ((status s1 5 1).hart (hartOf 0 i)).state = .running → ((status s1 5 1).hart (hartOf 0 i)).c.st[5].toNat % 2 = 1 := by
      decide +kernel
    exact this i h.1
  ⟨⟨s1, 0, by decide +kernel, fun h => absurd h n, fun h => absurd h (by decide +kernel)⟩,
    ⟨s1.onTile 0 fun t => { t with gchg := true }, 0, by decide +kernel⟩, status s1 5 1, 0, fun _ => by decide +kernel, fun _ => y⟩
theorem test_hyp_GearRequests : ∃ s, InControl s ∧ (gr s 1 &&& ~~~0x101#64) = 0 ∧ (∃ x : Fld5, x.val < 2) ∧ ∃ x : Fld5, 2 ≤ x.val :=
  ⟨s1, rfl, by decide +kernel, ⟨1, by decide⟩, 2, by decide⟩
theorem test_hyp_GearChangeEnds : ∃ (s : State) (t : TileId), (s.tile t).gchg = true ∧ ∀ i : Fin 8, (s.hart (hartOf t i)).evlate = [] :=
  ⟨s1.onTile 0 fun t => { t with gchg := true }, 0, by decide +kernel⟩

/-! The vector statements.  VT is G × 256 + EW2 × 16 + EW, with a block field above. -/

/-- `setvlr` below bit 12, above it, and at both ends of a type that it renegotiates for, whose types are legal and not. -/
theorem test_hyp_VectorLength :
    (∀ v ∈ [4095, 8192], ∃ s, InControl s ∧ homeOnLoan s s.me = false ∧ trimPending s s.me = false ∧ ∃ b : GReg, (gr s b).toNat = v) ∧
    (∀ v ∈ [4096, 8191, 0x1022], ∃ s, InControl s ∧ homeOnLoan s s.me = false ∧ trimPending s s.me = false ∧ vIdle (s.hart s.me) = true ∧
      (slotHN (s.slotWord s.me) ∈ ([1, 2, 4, 8] : List Nat) ∧ slotPN (s.slotWord s.me) ∈ ([1, 2, 4, 8] : List Nat) ∧ slotHF (s.slotWord s.me) % slotHN (s.slotWord s.me) = 0) ∧
      (∃ b : GReg, (gr s b).toNat = v) ∧ vtIllegal (v - 4096) = decide (v = 8191)) ∧
    (∃ t : VType, vtIllegal t.toNat = false) ∧ (∃ t : VType, vtIllegal t.toNat = true) ∧
    (∃ s, InControl s ∧ homeOnLoan s s.me = false ∧ trimPending s s.me = false ∧ vIdle (s.hart s.me) = false) ∧ (∃ s, InControl s ∧ homeOnLoan s s.me = true) :=
  ⟨fun v h => ⟨regs s1 [(7, v)], rfl, by revert v; decide +kernel, by revert v; decide +kernel, 7, by revert v; decide +kernel⟩,
    fun v h => ⟨regs s1 [(7, v)], rfl, by revert v; decide +kernel, by revert v; decide +kernel, by revert v; decide +kernel, by revert v; decide +kernel,
      ⟨7, by revert v; decide +kernel⟩, by revert v; decide +kernel⟩,
    ⟨0x22, by decide +kernel⟩, ⟨0xFFF, by decide +kernel⟩, ⟨busy, rfl, by decide +kernel⟩, s1.onTile 0 fun t => { t with holder := 0x76543211 }, rfl, by decide +kernel⟩

/-- VL 3 of I32; likewise the other formats. -/
def vi32 : State := vec s1 0x22 3
def handled32 : State := vec handled 0x22 3
/-- VectorInteger, VectorMerge, VectorCompare, VectorCarry, MaskLogic and MaskCounts, with a source that is the destination, and in groups of
eight registers. -/
theorem test_hyp_VectorInteger :
    (∃ s, Ready s ∧ fmtOf s ≤ 5 ∧ Starts s 4 (wOf s) ∧ Starts s 5 (wOf s) ∧ Apart s 4 (wOf s) 4 (wOf s) ∧ Apart s 4 (wOf s) 5 (wOf s)) ∧
    (∃ s, Ready s ∧ fmtOf s ≤ 5 ∧ Starts s 24 (wOf s) ∧ Starts s 8 (wOf s) ∧ Apart s 24 (wOf s) 8 (wOf s)) :=
  ⟨⟨vi32, ready_of (by decide +kernel), by decide +kernel, by unfold Starts; decide +kernel, by unfold Starts; decide +kernel,
      by unfold Apart; decide +kernel, by unfold Apart; decide +kernel⟩,
    ⟨vec s1 0x355 4096, ready_of (by decide +kernel), by decide +kernel, by unfold Starts; decide +kernel, by unfold Starts; decide +kernel,
      by unfold Apart; decide +kernel⟩⟩
theorem test_hyp_FixedPoint :
    (∃ s, Ready s ∧ fmtOf s ≤ 3 ∧ Starts s 4 (wOf s) ∧ Starts s 5 (wOf s) ∧ Starts s 6 (wOf s) ∧ Apart s 4 (wOf s) 5 (wOf s) ∧ Apart s 4 (wOf s) 6 (wOf s)) ∧
    (∃ s, Ready s ∧ fmtOf s ≤ 2 ∧ w2Of s = 2 * wOf s ∧ Starts s 4 (wOf s) ∧ Starts s 6 (w2Of s) ∧ Apart s 4 (wOf s) 6 (w2Of s)) :=
  ⟨⟨vi32, ready_of (by decide +kernel), by decide +kernel, by unfold Starts; decide +kernel, by unfold Starts; decide +kernel,
      by unfold Starts; decide +kernel, by unfold Apart; decide +kernel, by unfold Apart; decide +kernel⟩,
    ⟨vec s1 0x32 3, ready_of (by decide +kernel), by decide +kernel, by decide +kernel, by unfold Starts; decide +kernel,
      by unfold Starts; decide +kernel, by unfold Apart; decide +kernel⟩⟩
/-- Sources of half the width and of the width; and quarters. -/
theorem test_hyp_VectorWidening :
    (∃ s, Ready s ∧ fmtOf s = 3 ∧ fmt2Of s = 2 ∧ Starts s 4 (wOf s) ∧ Starts s 6 (w2Of s) ∧ Apart s 4 (wOf s) 6 (w2Of s) ∧ Starts s 5 (wOf s) ∧
      Apart s 4 (wOf s) 5 (wOf s) ∧ Starts s 7 (w2Of s) ∧ Apart s 4 (wOf s) 7 (w2Of s)) ∧
    (∃ s, Ready s ∧ fmtOf s = 1 ∧ fmt2Of s = 4 ∧ Starts s 4 (wOf s) ∧ Starts s 5 (wOf s) ∧ Apart s 4 (wOf s) 5 (wOf s)) :=
  ⟨⟨vec s1 0x23 2, ready_of (by decide +kernel), by decide +kernel, by decide +kernel, by unfold Starts; decide +kernel, by unfold Starts; decide +kernel,
      by unfold Apart; decide +kernel, by unfold Starts; decide +kernel, by unfold Apart; decide +kernel, by unfold Starts; decide +kernel,
      by unfold Apart; decide +kernel⟩,
    ⟨vec s1 0x41 2, ready_of (by decide +kernel), by decide +kernel, by decide +kernel, by unfold Starts; decide +kernel, by unfold Starts; decide +kernel,
      by unfold Apart; decide +kernel⟩⟩
/-- VectorFloat and VectorSpecial. -/
theorem test_hyp_VectorFloat : ∃ s, Ready s ∧ isWide (fmtOf s) = true ∧ (fmtOf s = 8 ∨ fmtOf s = 6) ∧ Starts s 4 (wOf s) ∧ Starts s 5 (wOf s) ∧
    Apart s 4 (wOf s) 5 (wOf s) ∧ Apart s 4 (wOf s) 4 (wOf s) :=
  ⟨vec s1 0x88 3, ready_of (by decide +kernel), by decide +kernel, by decide +kernel, by unfold Starts; decide +kernel, by unfold Starts; decide +kernel,
    by unfold Apart; decide +kernel, by unfold Apart; decide +kernel⟩
/-- 1.5 in FP32; and a signalling NaN, two infinities, an infinity and a number, and a quotient by zero, in FP32. -/
theorem test_hyp_FloatValues :
    (∃ x, x < 2 ^ fpWidth 8 ∧ decodeFP 8 x = .fin false 0xC00000 (-23) false) ∧ (∃ x, (decodeFP 8 x).isNaN = true) ∧
    (∃ x y n k, decodeFP 8 x = .inf n ∧ decodeFP 8 y = .inf k) ∧ (∃ x y n k m e, decodeFP 8 x = .inf n ∧ decodeFP 8 y = .fin k m e false) ∧
    (∃ x y n m e k g, decodeFP 8 x = .fin n m e false ∧ decodeFP 8 y = .fin k 0 g false) :=
  have one : decodeFP 8 0x3FC00000 = .fin false 0xC00000 (-23) false := by decide +kernel
  have zero : decodeFP 8 0 = .fin false 0 (-149) false := by decide +kernel
  ⟨⟨0x3FC00000, by decide, one⟩, ⟨0x7F800001, by decide +kernel⟩, ⟨0x7F800000, 0xFF800000, false, true, by decide +kernel, by decide +kernel⟩,
    ⟨0xFF800000, 0x3FC00000, true, _, _, _, by decide +kernel, one⟩, 0x3FC00000, 0, _, _, _, _, _, one, zero⟩
/-- RoundedOnce: 1.5 as all three operands. -/
theorem test_hyp_RoundedOnce : isWide 8 = true ∧ FinCode 8 0x3FC00000 ∧ codeVal 8 0x3FC00000 = 1.5 :=
  have one : decodeFP 8 0x3FC00000 = .fin false 0xC00000 (-23) false := by decide +kernel
  ⟨by decide, ⟨by decide, false, 0xC00000, -23, one⟩, by unfold codeVal; rw [one]; norm_num [valueOf]⟩
/-- One state for each conversion: FP32 from BF16, I32 from FP32, FP32 from I32, BF16 from D8, D8 from BF16, BF16 from E4M3 by scale. -/
theorem test_hyp_VectorConvert : ∀ v ∈ [0x68, 0x82, 0x28, 0xD6, 0x6D, 0x4A6], ∃ s, Ready s ∧ (s.hart s.me).c.vt = v ∧ Starts s 4 (wOf s) ∧
    Starts s 6 (w2Of s) ∧ Apart s 4 (wOf s) 6 (w2Of s) := fun v h =>
  ⟨vec s1 v 3, ready_of (by revert v; decide +kernel), by revert v; decide +kernel, by unfold Starts; revert v; decide +kernel,
    by unfold Starts; revert v; decide +kernel, by unfold Apart; revert v; decide +kernel⟩
theorem test_hyp_VectorQuantise : ∀ v ∈ [0x46A, 0xC8D], ∃ s, Ready s ∧ (s.hart s.me).c.vt = v ∧ 10 ≤ fmtOf s ∧ fmtOf s ≤ 13 ∧
    isWide (fmt2Of s) = true ∧ vtBlock (s.hart s.me).c.vt ≠ 0 ∧ Starts s 4 (wOf s) ∧ Starts s 8 (w2Of s) ∧ Apart s 4 (wOf s) 8 (w2Of s) := fun v h =>
  ⟨vec s1 v 9, ready_of (by revert v; decide +kernel), by revert v; decide +kernel, by revert v; decide +kernel, by revert v; decide +kernel,
    by revert v; decide +kernel, by revert v; decide +kernel, by unfold Starts; revert v; decide +kernel, by unfold Starts; revert v; decide +kernel,
    by unfold Apart; revert v; decide +kernel⟩
/-- VectorPermute, VectorMoves. -/
theorem test_hyp_VectorPermute : ∃ s, Ready s ∧ Starts s 4 (wOf s) ∧ Starts s 5 (wOf s) ∧ Indexed s 6 ∧ fmtOf s ≤ 5 :=
  ⟨vi32, ready_of (by decide +kernel), by unfold Starts; decide +kernel, by unfold Starts; decide +kernel,
    by unfold Indexed Starts; decide +kernel, by decide +kernel⟩
/-- Element 0 active, and not. -/
theorem test_hyp_VectorMoves : (∃ s, Ready s ∧ Starts s 4 (wOf s) ∧ acts0 s none 0 = true) ∧ ∃ s, Ready s ∧ Starts s 4 (wOf s) ∧ acts0 s (some 1) 0 = false :=
  ⟨⟨vi32, ready_of (by decide +kernel), by unfold Starts; decide +kernel, by decide +kernel⟩,
    vi32, ready_of (by decide +kernel), by unfold Starts; decide +kernel, by decide +kernel⟩
theorem test_hyp_VectorReduce : (∃ s, Ready s ∧ fmtOf s ≤ 3 ∧ Starts s 4 (wOf s) ∧ Starts s 5 (wOf s) ∧ Starts s 6 (wOf s)) ∧
    (∃ s, Ready s ∧ isWide (fmtOf s) = true ∧ Starts s 4 (wOf s) ∧ Starts s 5 (wOf s) ∧ Starts s 6 (wOf s)) :=
  ⟨⟨vi32, ready_of (by decide +kernel), by decide +kernel, by unfold Starts; decide +kernel, by unfold Starts; decide +kernel, by unfold Starts; decide +kernel⟩,
    vec s1 0x88 0, ready_of (by decide +kernel), by decide +kernel, by unfold Starts; decide +kernel, by unfold Starts; decide +kernel,
    by unfold Starts; decide +kernel⟩
/-- The mask lets elements 0 and 2 of 3 append to a queue of 8; t stand in it, and as many have been appended since the last event. -/
def appends (t since : Nat) : State :=
  let s := ring (handled32.onHart 0 fun x => { x with c := { x.c with m := x.c.m.set 1 5 } }) 0 2 3 0 t
  s.setQueue 0 { s.queue 0 with w := (s.queue 0).w.set 6 (BitVec.ofNat 64 (since * 2 ^ 32)) }
/-- With room for all and no event; with the event; with room for one, and for none. -/
theorem test_hyp_VectorAppend : ∀ p ∈ [(0, 0), (6, 62), (7, 0), (8, 0)], ∃ (s : State) (a : GReg) (k : MReg) (x : Xl), Ready s ∧ Handled s s.me ∧
    xlate s (whoV s s.me) .load (gr s a).toNat = .ok x ∧ xlate s (whoV s s.me) .store (gr s a).toNat = .ok x ∧ (gr s a).toNat % 0x4000 = 0 ∧
    eKind x.leaf = 2 ∧ 0x200400000000 ≤ x.pa ∧ x.pa < 0x200440000000 ∧ touch s x true = s ∧ qKind (s.queue 0) = 2 ∧ qEn (s.queue 0) = true ∧
    qCount (s.queue 0) ≤ qCap (s.queue 0) ∧ (actsList s (some k)).length = 2 ∧ qCap (s.queue 0) - qCount (s.queue 0) = 8 - p.1 ∧
    (∀ j, j < min 2 (8 - p.1) → quarantined s (ringAddr (s.queue 0) (qTail (s.queue 0) + j)) = false) ∧
    (qBase (s.queue 0) % 4 = 0 ∧ qBase (s.queue 0) + 4 * qCap (s.queue 0) ≤ 0xD800000000) ∧
    (vlmaxOf s s.me (s.hart s.me).c.vt ≤ (s.queue 0).w[6].toNat / 2 ^ 32 + 2 ↔ p.2 = 62) := fun p h =>
  ⟨appends p.1 p.2, 9, 1, queue0, ready_of (by revert p; decide +kernel), ⟨by revert p; decide +kernel, by revert p; decide +kernel⟩, ok_of (by revert p; decide +kernel),
    ok_of (by revert p; decide +kernel), by revert p; decide +kernel, by decide +kernel, by decide +kernel, by decide +kernel, marked_of (by decide +kernel), by revert p; decide +kernel⟩
/-- A of 2 rows and B of G = 2 rows, of BF16 and of I8. -/
theorem test_hyp_MatrixMultiply : ∀ p ∈ [(0x166, false), (0x100, true)], ∃ s, Ready s ∧ (∀ j : Fin 4, (s.hart s.me).live.aPois[j] = 0) ∧
    mmaPair (fmtOf s) (fmt2Of s) p.2 = true ∧ 6 % vtG (s.hart s.me).c.vt = 0 ∧ 0 < vlOf s ∧ vlOf s ≤ lanesOf s s.me * 8 ∧
    2 * vtG (s.hart s.me).c.vt ≤ lanesOf s s.me * 256 * vtG (s.hart s.me).c.vt / wOf s := fun p h =>
  ⟨vec s1 p.1 32, ready_of (by revert p; decide +kernel), by revert p; decide +kernel⟩
/-- A of 2 rows in page 3: rows 64 bytes apart, in banks turned by one a row, and TPITCH 128. -/
def paired (vl : Nat) : State := regs (vec s1 0x166 vl) [(4, 0xC000), (5, 64 + 128 * 2 ^ 20 + 2 ^ 40)]
theorem test_hyp_MatrixPair :
    (∀ tr : Bool, ∃ (s : State) (x : Nat → Nat → Xl), Ready s ∧ (∀ j : Fin 4, (s.hart s.me).live.aPois[j] = 0) ∧ mmaPair (fmtOf s) (fmt2Of s) false = true ∧
      6 % vtG (s.hart s.me).c.vt = 0 ∧ 0 < vlOf s ∧ vlOf s ≤ lanesOf s s.me * 8 ∧ ∀ m k, m < 2 → k < vtG (s.hart s.me).c.vt →
        VPlain s .load (pairVa (wOf s) tr (gr s 4) (gr s 5) m k) (Claims.bytesOf (wOf s)) (x m k) ∧ (x m k).region = .store) ∧
    (∃ s, Ready s ∧ (∀ j : Fin 4, (s.hart s.me).live.aPois[j] = 0) ∧ mmaPair (fmtOf s) (fmt2Of s) false = true ∧ vlOf s = 0) :=
  ⟨fun tr => ⟨paired 32, fun m k => page3 (pairVa 16 tr 0xC000 (gr (paired 32) 5) m k - 0xC000), ready_of (by decide +kernel), by decide +kernel, by decide +kernel, by decide +kernel,
      by decide +kernel, by decide +kernel, by
        have n : vtG ((paired 32).hart (paired 32).me).c.vt = 2 := by decide +kernel
        rw [n]
        exact fun m k hm hk => ⟨vplain_of (by revert k; revert m; revert tr; decide +kernel), rfl⟩⟩,
    paired 0, ready_of (by decide +kernel), by decide +kernel⟩
/-- MatrixDrain, MatrixStores: elements 0 and 1 of a row go to two words of page 2. -/
theorem test_hyp_MatrixDrain :
    (∃ s, Ready s ∧ (∀ j : Fin 4, (s.hart s.me).live.aPois[j] = 0) ∧ vlOf s ≤ lanesOf s s.me * 8) ∧
    (∃ (s : State) (r : GReg) (x : Nat → Xl), Ready s ∧ (∀ j : Fin 4, (s.hart s.me).live.aPois[j] = 0) ∧ (gr s r).toNat < 32 ∧ vlOf s ≤ lanesOf s s.me * 8 ∧
      (∀ k, acts s none k = true → VPlain s .store (strideVa s 4 7 k) (drainWidth 6 / 8) (x k)) ∧ Indexed s 6 ∧
      (∀ k, acts s none k = true → VPlain s .store (indexVa s 4 6 k) (drainWidth 6 / 8) (x k))) :=
  ⟨⟨vec s1 0x22 32, ready_of (by decide +kernel), by decide +kernel⟩,
    lane32 (vec s1 0x22 2) 6 [0, 2], 7, fun k => page2 (2 * k), ready_of (by decide +kernel), by decide +kernel, by decide +kernel, by decide +kernel,
    below (n := 2) (by decide +kernel) fun k hk => vplain_of (by revert k; decide +kernel), by unfold Indexed Starts; decide +kernel,
    below (n := 2) (by decide +kernel) fun k hk => vplain_of (by revert k; decide +kernel)⟩

/-! Vector memory: two elements of page 2. -/

/-- Elements 0 and 1 of 32 bits; indices 0 and 4 in v6; stride 8 in g7. -/
def vmem : State := regs (lane32 (vec s1 0x22 2) 6 [0, 4]) [(4, 0x8000), (7, 4), (11, 8)]
theorem test_hyp_VectorLoads : ∀ acc ∈ [Acc.load, .store], ∃ s, Ready s ∧ Starts s 4 (wOf s) ∧ 8 ≤ wOf s ∧ Indexed s 6 ∧ ∃ x : Nat → Xl,
    (∀ k, acts s none k = true → VPlain s acc (unitVa s 4 k) (Claims.bytesOf (wOf s)) (x k)) ∧
    (∀ k, acts s none k = true → VPlain s acc (strideVa s 4 7 k) (Claims.bytesOf (wOf s)) (x k)) ∧
    (∀ k, acts s none k = true → VPlain s acc (indexVa s 4 6 k) (Claims.bytesOf (wOf s)) (x k)) := fun acc h =>
  ⟨vmem, ready_of (by decide +kernel), by unfold Starts; decide +kernel, by decide +kernel, by unfold Indexed Starts; decide +kernel,
    fun k => page2 (4 * k), below (n := 2) (by decide +kernel) fun k hk => vplain_of (by revert k acc; decide +kernel),
    below (n := 2) (by decide +kernel) fun k hk => vplain_of (by revert k acc; decide +kernel),
    below (n := 2) (by decide +kernel) fun k hk => vplain_of (by revert k acc; decide +kernel)⟩
/-- Of eight fields, whose last register is v31. -/
theorem test_hyp_VectorSegments : ∀ acc ∈ [Acc.load, .store], ∃ s, Ready s ∧ 8 ≤ wOf s ∧ Starts s 24 (wOf s) ∧ 24 + 8 * regsOf s (wOf s) ≤ 32 ∧
    ∃ x : Nat → Nat → Xl, ∀ k f, acts s none k = true → f < 8 → VPlain s acc (segVa s 4 8 k f) (Claims.bytesOf (wOf s)) (x k f) := fun acc h =>
  ⟨vmem, ready_of (by decide +kernel), by decide +kernel, by unfold Starts; decide +kernel, by decide +kernel, fun k f => page2 (32 * k + 4 * f),
    fun k f a hf => below (s := vmem) (m := none) (n := 2) (P := fun k => ∀ f, f < 8 → VPlain vmem acc (segVa vmem 4 8 k f) (Claims.bytesOf (wOf vmem)) (page2 (32 * k + 4 * f)))
      (by decide +kernel) (fun k hk f hf => vplain_of (by revert f k acc; decide +kernel)) k a f hf⟩
/-- Element 1 lies in page 4 of the space, and then in the page behind the last that is mapped. -/
def vff : State := regs (vec s1 0x22 2) [(4, 0x1FFFC), (7, 4)]
def page7 (off : Nat) : Xl := ⟨0x304000 + off, 0x304205, 0x7F800000C038, .hbm⟩
theorem test_hyp_VectorFaults :
    (∃ s, Ready s ∧ 8 ≤ wOf s ∧ Starts s 4 (wOf s) ∧ ∃ (j : Nat) (x : Nat → Xl), acts s none j = true ∧ vsiOf s < j ∧
      unitVa s 4 j % Claims.bytesOf (wOf s) = 0 ∧ leafFor s (whoV s s.me) .load (unitVa s 4 j) = none ∧
      ∀ k, k < j → acts s none k = true → VPlain s .load (unitVa s 4 k) (Claims.bytesOf (wOf s)) (x k)) ∧
    (∃ s, Ready s ∧ 16 ≤ wOf s ∧ Starts s 4 (wOf s) ∧ vsiOf s = 0 ∧ ∃ j, acts s (some 1) j = true ∧ strideVa s 4 7 j % Claims.bytesOf (wOf s) ≠ 0 ∧
      (let k := endKind s (whoV s s.me) (strideVa s 4 7 j) [0, 1, 2, 3] (s.hart s.me).space.toNat; k ≠ 1 ∧ k ≠ 2) ∧ j < lanesOf s s.me * 64 / wOf s ∧ (∀ k, k < j → acts s (some 1) k = false) ∧ Handled s s.me) :=
  ⟨⟨vff, ready_of (by decide +kernel), by decide +kernel, by unfold Starts; decide +kernel, 1, fun _ => page7 0x3FFC, by decide +kernel, by decide +kernel,
      by decide +kernel, by decide +kernel, fun k hk _ => vplain_of (by revert k; decide +kernel)⟩,
    regs (vec (handled.onHart 0 fun x => { x with c := { x.c with m := x.c.m.set 1 2 } }) 0x22 2) [(4, 0x200000), (7, 6)],
    ready_of (by decide +kernel), by decide +kernel, by unfold Starts; decide +kernel, by decide +kernel, 1, by decide +kernel, by decide +kernel,
    by decide +kernel, by decide +kernel, by decide +kernel, by decide +kernel, by decide +kernel⟩
/-- A mask of 11 bits takes two bytes; a scale register takes 512. -/
theorem test_hyp_MaskScaleMoves : ∀ acc ∈ [Acc.load, .store], ∃ s, Ready s ∧ (gr s 4).toNat % 8 = 0 ∧ (vlOf s + 7) / 8 = 2 ∧
    PlainPieces s acc (gr s 4).toNat 2 page2 ∧ (gr s 4).toNat % 64 = 0 ∧ PlainPieces s acc (gr s 4).toNat 512 page2 := fun acc h =>
  ⟨vec s1 0x22 11, ready_of (by decide +kernel), by decide +kernel, by decide +kernel, fun p hp => vplain_of (by revert p acc; decide +kernel),
    by decide +kernel, fun p hp => vplain_of (by revert p acc; decide +kernel)⟩
/-- Two elements that name two addresses, of I32 and of FP32. -/
theorem test_hyp_ScatterAtomics : ∀ v ∈ [0x22, 0x28], ∃ s, Ready s ∧ Starts s 4 (wOf s) ∧ Indexed s 6 ∧ (fmtOf s = 2 ∨ fmtOf s = 8) ∧ ∃ x : Nat → Xl,
    ∀ i ∈ actList s none, VPlain s .atomic (indexVa s 4 6 i) (wOf s / 8) (x (indexVa s 4 6 i)) := fun v h =>
  ⟨vec vmem v 2, ready_of (by revert v; decide +kernel), by unfold Starts; revert v; decide +kernel, by unfold Indexed Starts; revert v; decide +kernel,
    by revert v; decide +kernel, fun va => page2 (va - 0x8000), fun i hi => vplain_of (by revert hi; revert i; revert v; decide +kernel)⟩
/-- The next instruction is i. -/
def convoyOf (i : Nat) : State := status (vec (mach (0x00080565 + i * 2 ^ 32)) 0x22 2) 6 0x8000
/-- Second members that need the unit of the first, of each pair of units; one that is no vector operation; and a multiplication, which performs
beside an addition. -/
theorem test_hyp_Convoys : ∀ i ∈ ([.vsubVv 7 8 9 none false, .vmulVv 7 8 9 none false, .vld 7 9 none false, .vst 7 9 none false, .add 1 2 3] : List Instr), ∃ s, Ready s ∧ ∃ bits,
    (fetchAt (whoS s s.me) false (pcOf s + 4).toNat).run.run s = (.ok bits, s) ∧ decode (bits % 2 ^ (8 * parcelLen bits)) = some i ∧ fmtOf s ≤ 5 ∧ Handled s s.me ∧
    (vopOf i = none ↔ i = .add 1 2 3) ∧
    ∀ p ∈ ([(2, 0), (2, 1), (7, 8), (7, 9)] : List (VReg × VReg)), Starts s p.1 (wOf s) ∧ Starts s p.2 (wOf s) ∧ Apart s p.1 (wOf s) p.2 (wOf s) := fun i h =>
  have w : got ((fetchAt (whoS (convoyOf (encode i)) 0) false (pcOf (convoyOf (encode i)) + 4).toNat).run.run (convoyOf (encode i))) (encode i) = true ∧
      ((fetchAt (whoS (convoyOf (encode i)) 0) false (pcOf (convoyOf (encode i)) + 4).toNat).run.run (convoyOf (encode i))).2 = convoyOf (encode i) := by
    revert i; decide +kernel
  ⟨convoyOf (encode i), ready_of (by revert i; decide +kernel), encode i, (got_of w.1).trans (by rw [w.2]), by revert i; decide +kernel, by revert i; decide +kernel,
    by unfold Handled; revert i; decide +kernel, by revert i; decide +kernel, by unfold Starts Apart; revert i; decide +kernel⟩
theorem test_hyp_ConvoyForms : (∃ p, p ∈ aluForms) ∧ (∃ p, p ∈ mulForms) ∧ ∃ p, p ∈ intForms :=
  ⟨⟨_, List.mem_cons_self⟩, ⟨_, List.mem_cons_self⟩, _, List.mem_cons_self⟩
/-- Hand calculation: the conflict of the claim. -/
theorem test_convoy_conflict : (fun t => ((t.hart 0).c.st[7], (t.hart 0).c.st[8], (t.hart 0).c.st[9], (t.hart 0).c.st[17], (t.hart 0).c.cresume,
    (t.hart 0).c.pc, (t.hart 0).live.frozen)) (run (.vaddVv 2 0 1 none true) (convoyOf (encode (.vsubVv 7 8 9 none false)))) =
      (0x202#64, 0x4004#64, 0x4000#64, 0#64, 0x4008#64, 0x8000#64, true) := by decide +kernel
/-! Futures, barriers, tasks. -/

/-- The future word v at 0x8000; a link at 0x8010 whose NEXT is 0 and whose block is at 0x8040; there the words b, queue 0, and a task at 0x8080. -/
def futs (v b : Nat) : State :=
  words (regs (mach 0x00314809) [(4, 0x8000), (14, 0x8010), (9, 0x10000), (15, 0x8080), (10, 0x14000)])
    [(0x300000, v), (0x300018, 0x8040), (0x300040, b), (0x300048, 0x10000), (0x300050, 0x8080), (0x300080, 0x4000)]
theorem test_hyp_Futures : ∀ v ∈ [0, 0x80101, 2, 3], ∃ s x lx jx bx, InControl s ∧ Unscrubbed s ∧ Clear s (whoS s s.me) .load (gr s 4).toNat 8 x ∧
    Clear s (whoS s s.me) .atomic (gr s 4).toNat 8 x ∧ futureState (memRead s.mem x.pa 8) = v % 4 ∧ (gr s 14).toNat % 16 = 0 ∧
    Clear s (whoS s s.me) .atomic (gr s 14).toNat 8 lx ∧ Clear s (whoS s s.me) .load ((gr s 14).toNat + 8) 8 jx ∧
    memRead s.mem jx.pa 8 % 32 = 0 ∧ Clear s (whoS s s.me) .atomic (memRead s.mem jx.pa 8) 8 bx := fun v h =>
  ⟨futs v 1, page2 0, page2 0x10, page2 0x18, page2 0x40, rfl, by unfold Unscrubbed; revert v; decide +kernel, clear_of (by revert v; decide +kernel),
    clear_of (by revert v; decide +kernel), by revert v; decide +kernel, by revert v; decide +kernel, clear_of (by revert v; decide +kernel),
    clear_of (by revert v; decide +kernel), by revert v; decide +kernel, clear_of (by revert v; decide +kernel)⟩
/-- A walk in the name of hart 0, at an address. -/
def walking (s : State) (at_ : Nat) (block : Bool) : State := { s with walks := [(7, ⟨issuer s 0, BitVec.ofNat 64 at_, block, false, none⟩)] }
def theWalk (s : State) (at_ : Nat) (block : Bool) : Walk := ⟨issuer s 0, BitVec.ofNat 64 at_, block, false, none⟩
def queuePageB (s : State) (w : Who) (va n : Nat) (x : Xl) : Bool :=
  decide (va % 0x4000 = 0) && decide (n < 65536) && okIs (xlate s w .load va) x && okIs (xlate s w .store va) x && eKind x.leaf == 2 &&
  x.pa == 0x200400000000 + 0x4000 * n && markedB x true
theorem queuePage_of {s : State} {w : Who} {va n : Nat} {x : Xl} (h : queuePageB s w va n x = true) : QueuePage s w va n := by
  simp only [queuePageB, Bool.and_eq_true, decide_eq_true_eq, beq_iff_eq] at h
  obtain ⟨⟨⟨⟨⟨⟨h1, h2⟩, h3⟩, h4⟩, h5⟩, h6⟩, h7⟩ := h
  exact ⟨h1, h2, x, ok_of h3, ok_of h4, h5, h6, marked_of h7⟩
def theTask (s : State) (x : Nat → Xl) : List Word := (List.range 4).map fun i => BitVec.ofNat 64 (memRead s.mem (x i).pa 8)
def taskB (s : State) (w : Who) (va : Nat) (x : Nat → Xl) : Bool :=
  (List.range 4).all (fun i => clearB s w .load (va + 8 * i) 8 (x i)) && (theTask s x).getD 0 0 != 0 && ((theTask s x).getD 0 0).toNat % 2 == 0 &&
  decide (((theTask s x).getD 3 0).toNat < 32)
theorem task_of {s : State} {w : Who} {va : Nat} {x : Nat → Xl} (h : taskB s w va x = true) : TaskAt s w va (theTask s x) := by
  simp only [taskB, Bool.and_eq_true, decide_eq_true_eq, beq_iff_eq, List.all_eq_true, List.mem_range, bne_iff_ne, ne_eq] at h
  obtain ⟨⟨⟨h1, h2⟩, h3⟩, h4⟩ := h
  exact ⟨⟨x, fun i hi => clear_of (h1 i hi), rfl⟩, ⟨h2, h3⟩, h4⟩
def ringB (s : State) (n i : Nat) : Bool :=
  (s.queue n).w[1].toNat % 64 == 0 && (regionOf (entryQ s n i) == some .hbm) && lineKeyAt s (entryQ s n i) == keyAt s (s.queue n).key &&
  (quarantined s (entryQ s n i) == false) && s.dcache.isEmpty && s.vbuf.isEmpty
theorem ring_of {s : State} {n i : Nat} (h : ringB s n i = true) : RingClear s n i := by
  simp only [ringB, Bool.and_eq_true, beq_iff_eq, List.isEmpty_iff] at h
  obtain ⟨⟨⟨⟨⟨h1, h2⟩, h3⟩, h4⟩, h5⟩, h6⟩ := h
  exact ⟨h1, .inl h2, fun _ => h3, h4, h5, h6⟩
def task4 (i : Nat) : Xl := page2 (0x80 + 8 * i)
/-- A block whose count is 0, 1 and 2; the end of the links; and a link. -/
theorem test_hyp_Walks :
    (∀ b ∈ [0, 2], ∃ s k x, s.walks.lookup 7 = some k ∧ Unscrubbed s ∧ k.block = true ∧ Clear s (walkWho k.iss) .atomic k.at_.toNat 8 x ∧
      countWord (memRead s.mem x.pa 8) k.err % 2 ^ 32 = b) ∧
    (∃ s k x t, s.walks.lookup 7 = some k ∧ Unscrubbed s ∧ k.block = true ∧ Clear s (walkWho k.iss) .atomic k.at_.toNat 8 x ∧
      countWord (memRead s.mem x.pa 8) k.err % 2 ^ 32 = 1 ∧ k.at_.toNat % 32 = 0 ∧
      let u := (performed s x.pa 8 0).nextStore
      QueuePage u (walkWho k.iss) (memRead u.mem (x.pa + 8) 8) 0 ∧ TaskAt u (walkWho k.iss) (memRead u.mem (x.pa + 16) 8) t ∧ TaskQueue u 0 ∧
      countQ u 0 < capQ u 0 ∧ RingClear u 0 (tailQ u 0)) ∧
    (∃ s k, s.walks.lookup 7 = some k ∧ Unscrubbed s ∧ k.block = false ∧ k.at_ = 0) ∧
    (∃ s k nx jx x, s.walks.lookup 7 = some k ∧ Unscrubbed s ∧ k.block = false ∧ k.at_ ≠ 0 ∧ Clear s (walkWho k.iss) .load k.at_.toNat 8 nx ∧
      Clear s (walkWho k.iss) .load (k.at_.toNat + 8) 8 jx ∧ Clear s (walkWho k.iss) .atomic (memRead s.mem jx.pa 8) 8 x ∧
      2 ≤ countWord (memRead s.mem x.pa 8) k.err % 2 ^ 32) :=
  ⟨fun b h => ⟨walking (futs 0 b) 0x8040 true, theWalk (futs 0 b) 0x8040 true, page2 0x40, rfl, by unfold Unscrubbed; revert b; decide +kernel, rfl,
      clear_of (by revert b; decide +kernel), by revert b; decide +kernel⟩,
    ⟨walking (ring (futs 0 1) 0 1 2 0 3) 0x8040 true, theWalk (ring (futs 0 1) 0 1 2 0 3) 0x8040 true, page2 0x40,
      theTask (performed (walking (ring (futs 0 1) 0 1 2 0 3) 0x8040 true) 0x300040 8 0).nextStore task4, rfl, by unfold Unscrubbed; decide +kernel, rfl,
      clear_of (by decide +kernel), by decide +kernel, by decide +kernel, queuePage_of (x := queue0) (by decide +kernel), task_of (by decide +kernel),
      by unfold TaskQueue; decide +kernel, by decide +kernel, ring_of (by decide +kernel)⟩,
    ⟨walking s1 0 false, theWalk s1 0 false, rfl, by unfold Unscrubbed; decide +kernel, rfl, by decide +kernel⟩,
    walking (futs 0 2) 0x8010 false, theWalk (futs 0 2) 0x8010 false, page2 0x10, page2 0x18, page2 0x40, rfl, by unfold Unscrubbed; decide +kernel, rfl,
    by decide +kernel, clear_of (by decide +kernel), clear_of (by decide +kernel), clear_of (by decide +kernel), by decide +kernel⟩
/-- A count barrier and a stage barrier; a `barw` that has not waited, one that has, and one to which a change of the word has come. -/
theorem test_hyp_Barriers : (∀ v ∈ [2 ^ 63, 2 ^ 63 - 1, 1], ∃ s x, InControl s ∧ Unscrubbed s ∧ Clear s (whoS s s.me) .atomic (gr s 4).toNat 8 x ∧
      Clear s (whoS s s.me) .load (gr s 4).toNat 8 x ∧ memRead s.mem x.pa 8 = v ∧ ∀ g p q m, (s.hart s.me).live.wait ≠ .barw g p q m) ∧
    (∃ s x, InControl s ∧ Unscrubbed s ∧ Clear s (whoS s s.me) .load (gr s 4).toNat 8 x ∧ memRead s.mem x.pa 8 < 2 ^ 63 ∧
      (s.hart s.me).live.wait = .barw 0 0x300000 0 none) ∧
    (∀ m ∈ [2 ^ 32, 2 ^ 63, 2 ^ 63 + 2 ^ 32], ∃ s, InControl s ∧ Unscrubbed s ∧ (s.hart s.me).live.wait = .barw 0 0x300000 0 (some m)) :=
  ⟨fun v h => ⟨futs v 0, page2 0, rfl, by unfold Unscrubbed; revert v; decide +kernel, clear_of (by revert v; decide +kernel),
      clear_of (by revert v; decide +kernel), by revert v; decide +kernel, by
        have : ∀ v ∈ [2 ^ 63, 2 ^ 63 - 1, 1], ((futs v 0).hart (futs v 0).me).live.wait = .none := by decide +kernel
        simp [this v h]⟩,
    ⟨(futs 1 0).setWait 0 (.barw 0 0x300000 0 none), page2 0, rfl, by unfold Unscrubbed; decide +kernel, clear_of (by decide +kernel), by decide +kernel,
      by decide +kernel⟩,
    fun m h => ⟨s1.setWait 0 (.barw 0 0x300000 0 (some m)), rfl, by unfold Unscrubbed; revert m; decide +kernel, by revert m; decide +kernel⟩⟩
theorem test_hyp_BarrierReturns : ∀ v ∈ [2 ^ 32, 2 ^ 63], ∀ m ∈ [none, some v], ∃ s bits u x, (s.hart 0).state = .running ∧
    Moves s 0 ∧ (s.hart 0).live.wait = .barw 0 0x300000 0 m ∧ (u.hart 0).live.wait = .barw 0 0x300000 0 m ∧
    (fetchAt (whoS s 0) false (s.hart 0).c.pc.toNat).run.run s = (.ok bits, u) ∧ decode (bits % 2 ^ (8 * parcelLen bits)) = some (.barw 4) ∧
    Unscrubbed { u with cur := ⟨0, .control⟩ } ∧
    Clear { u with cur := ⟨0, .control⟩ } (whoS { u with cur := ⟨0, .control⟩ } 0) .load (gr { u with cur := ⟨0, .control⟩ } 4).toNat 8 x ∧
    memRead u.mem x.pa 8 = v := fun v h m hm =>
  ⟨waitsAt (.barw 4) (.barw 0 0x300000 0 m) v, encode (.barw 4), _, page2 0, by revert v m; decide +kernel, moves_of (by revert v m; decide +kernel),
    by revert v m; decide +kernel, by revert v m; decide +kernel,
    got_of (by revert v m; decide +kernel), by decide +kernel, by unfold Unscrubbed; revert v m; decide +kernel, clear_of (by revert v m; decide +kernel),
    by revert v m; decide +kernel⟩
/-- No queue of tasks, a full one, and one with room. -/
theorem test_hyp_Spawns :
    (∃ s t, InControl s ∧ QueuePage s (whoS s s.me) (gr s 9).toNat 0 ∧ TaskAt s (whoS s s.me) (gr s 15).toNat t ∧ ¬ TaskQueue s 0) ∧
    (∀ tail ∈ [4, 3], ∃ s t, InControl s ∧ QueuePage s (whoS s s.me) (gr s 9).toNat 0 ∧ TaskAt s (whoS s s.me) (gr s 15).toNat t ∧ TaskQueue s 0 ∧
      countQ s 0 = tail ∧ capQ s 0 = 4 ∧ RingClear s 0 (tailQ s 0)) :=
  ⟨⟨ring (futs 0 0) 0 2 2 0 0, theTask (ring (futs 0 0) 0 2 2 0 0) task4, rfl, queuePage_of (x := queue0) (by decide +kernel), task_of (by decide +kernel),
      by unfold TaskQueue; decide +kernel⟩,
    fun t h => ⟨ring (futs 0 0) 0 1 2 0 t, theTask (ring (futs 0 0) 0 1 2 0 t) task4, rfl, queuePage_of (x := queue0) (by revert t; decide +kernel),
      task_of (by revert t; decide +kernel), by unfold TaskQueue; revert t; decide +kernel, by revert t; decide +kernel, by revert t; decide +kernel,
      ring_of (by revert t; decide +kernel)⟩⟩
/-- No queue of tasks; one with a task, and one without, whose queue has no victim; and what has come to a `tget` that waits, where the queue
holds a task, and where it is of kernel 1 and halted. -/
theorem test_hyp_TasksTaken :
    (∃ s, InControl s ∧ QueuePage s (whoS s s.me) (gr s 9).toNat 0 ∧ (s.hart s.me).live.wait = .none ∧ ¬ TaskQueue s 0) ∧
    (∃ s, InControl s ∧ QueuePage s (whoS s s.me) (gr s 9).toNat 0 ∧ (s.hart s.me).live.wait = .none ∧ TaskQueue s 0 ∧ countQ s 0 ≠ 0 ∧ ¬ (s.queue 0).w[0].toNat / 1024 % 2 = 1 ∧
      RingClear s 0 (newestQ s 0)) ∧
    (∃ s, InControl s ∧ QueuePage s (whoS s s.me) (gr s 9).toNat 0 ∧ (s.hart s.me).live.wait = .none ∧ TaskQueue s 0 ∧ countQ s 0 = 0 ∧
      ∀ v ∈ victims (s.queue 0) (tileOf s.me).val, ¬ TaskQueue s v ∨ countQ s v = 0) ∧
    (∀ b ∈ [TgetNews.grown, .quiet, .closed, .gone], ∃ s, InControl s ∧ (s.hart s.me).live.wait = .tget 0 b) ∧
    (∃ s, InControl s ∧ (s.hart s.me).live.wait = .tget 0 .grown ∧ countQ s 0 ≠ 0 ∧ (s.queue 0).w[0].toNat / 1024 % 2 = 0 ∧ RingClear s 0 (newestQ s 0)) ∧
    (∀ f ∈ [0, 0x200, 0x10010400], ∃ s, InControl s ∧ (s.hart s.me).live.wait = .tget 0 .grown ∧ (countQ s 0 = 0 ∨ (s.queue 0).w[0].toNat / 1024 % 2 = 1) ∧
      (∀ v ∈ victims (s.queue 0) (tileOf s.me).val, ¬ TaskQueue s v ∨ countQ s v = 0) ∧ (s.queue 0).w[0].toNat = 0x101 + f) :=
  ⟨⟨s1, rfl, queuePage_of (x := queue0) (by decide +kernel), by decide +kernel, by unfold TaskQueue; decide +kernel⟩,
    ⟨ring s1 0 1 2 0 1, rfl, queuePage_of (x := queue0) (by decide +kernel), by decide +kernel, by unfold TaskQueue; decide +kernel, by decide +kernel, by decide +kernel,
      ring_of (by decide +kernel)⟩,
    ⟨ring s1 0 1 2 0 0, rfl, queuePage_of (x := queue0) (by decide +kernel), by decide +kernel, by unfold TaskQueue; decide +kernel, by decide +kernel,
      by unfold TaskQueue; decide +kernel⟩,
    fun b h => ⟨s1.setWait 0 (.tget 0 b), rfl, by revert b; decide +kernel⟩,
    ⟨(ring s1 0 1 2 0 1).setWait 0 (.tget 0 .grown), rfl, by decide +kernel, by decide +kernel, by decide +kernel, ring_of (by decide +kernel)⟩,
    fun f h => ⟨(ring s1 0 (1 + f) 2 0 0).setWait 0 (.tget 0 .grown), rfl, by revert f; decide +kernel, by revert f; decide +kernel,
      by unfold TaskQueue; revert f; decide +kernel, by revert f; decide +kernel⟩⟩
/-- Queue 0 of tile 0 is empty, and its one victim, queue 1 of tile 1, is not. -/
def thief : State :=
  let s := ring (ring s1 0 1 2 0 0) 1 1 2 0 1
  s.setQueue 0 { s.queue 0 with w := (s.queue 0).w.set 8 0x4000000 }
theorem test_hyp_TasksStolen :
    (∃ s v r, InControl s ∧ QueuePage s (whoS s s.me) (gr s 9).toNat 0 ∧ (s.hart s.me).live.wait = .none ∧ TaskQueue s 0 ∧ countQ s 0 = 0 ∧ (s.queue 0).w[0].toNat / 2 ^ 28 % 2 = 0 ∧
      victims (s.queue 0) (tileOf s.me).val = v :: r ∧ v < 65536 ∧ TaskQueue s v ∧ countQ s v ≠ 0 ∧ (s.queue v).w[0].toNat / 1024 % 2 = 0 ∧
      (s.queue v).w[7].toNat % 512 = (s.queue 0).w[7].toNat % 512 ∧ RingClear s v (headQ s v)) ∧
    (∃ s bits u, (s.hart 0).state = .running ∧ (s.hart 0).live.wait = .tget 0 .grown ∧ Moves s 0 ∧
      (fetchAt (whoS s 0) false (s.hart 0).c.pc.toNat).run.run s = (.ok bits, u) ∧ decode (bits % 2 ^ (8 * parcelLen bits)) = some (.tget 4 9) ∧
      let v := { u with cur := ⟨0, .control⟩ }
      (v.hart 0).live.wait = .tget 0 .grown ∧ countQ v 0 ≠ 0 ∧ (v.queue 0).w[0].toNat / 1024 % 2 = 0 ∧ RingClear v 0 (newestQ v 0)) :=
  ⟨⟨thief, 1, [], rfl, queuePage_of (x := queue0) (by decide +kernel), by decide +kernel, by unfold TaskQueue; decide +kernel, by decide +kernel, by decide +kernel,
      by decide +kernel, by decide +kernel, by unfold TaskQueue; decide +kernel, by decide +kernel, by decide +kernel, by decide +kernel, ring_of (by decide +kernel)⟩,
    ring (waitsAt (.tget 4 9) (.tget 0 .grown) 0) 0 1 2 0 1, encode (.tget 4 9), _, by decide +kernel, by decide +kernel, moves_of (by decide +kernel),
    got_of (by decide +kernel), by decide +kernel, by decide +kernel, by decide +kernel, by decide +kernel, ring_of (by decide +kernel)⟩
/-! Streams, virtual processors, replies. -/

/-- Under VT of I32, with g3 and g4 as given, and n entries in the vector queue. -/
def facets (a b n : Nat) : State :=
  (regs (vec s1 0x22 4) [(3, a), (4, b)]).onHart 0 fun x => { x with c := { x.c with vqcount := BitVec.ofNat 64 n } }
theorem test_hyp_StreamsQueued : ∀ p ∈ [(0x4020, 0, 0), (0x4000, 0x403F, 11), (0x4000, 0x3FC0, 0), (0x4000, 0x4000 + 65536 * 64, 0),
      (0x4000, 0x4000 + 65535 * 64, 11), (0x4000, 0x4000, 12)], ∃ s, InControl s ∧ homeOnLoan s s.me = false ∧ trimPending s s.me = false ∧ (s.hart s.me).c.st[1].toNat < 2 ^ 63 ∧
    (gr s 3).toNat = p.1 ∧ (gr s 4).toNat = p.2.1 ∧ queuedN (s.hart s.me) = p.2.2 := fun p h =>
  ⟨facets p.1 p.2.1 p.2.2, rfl, by revert p; decide +kernel, by revert p; decide +kernel, by revert p; decide +kernel⟩
/-- The one of them beside a VP of an earlier fetch, whose entry is behind it. -/
theorem test_hyp_StreamBegins : ∀ i ∈ [encode (.vfetch 3), encode (.vfetchr 4)], ∃ s, UnitWorks s 0 ∧ 1 ≤ (s.hart 0).c.vqcount.toNat ∧
    (∀ j : Fin 12, (s.hart 0).c.vq[j][7].toNat % 4 = 0) ∧ (s.hart 0).c.vq[0][1] = BitVec.ofNat 64 i := fun i h =>
  ⟨queued s1 [0x4000, i, 0x22, 4, 0x4000, 0x4000], ⟨.inl (by revert i; decide +kernel), by revert i; decide +kernel, moves_of (by revert i; decide +kernel)⟩,
    by revert i; decide +kernel, by revert i; decide +kernel, by revert i; decide +kernel⟩
/-- Hart 0's stream, of VPs 0 to 3, stands at the instruction w of facet 0 at 0x4000; mask 1 lets VP 2 take part, and mask 2 none. -/
def streams (w : Nat) : State :=
  { (queued (mach w) [0x4000, encode (.vfetch 0), 0x22, 4, 0x4000, 0, 0, 1]).onHart 0 fun x => { x with
      c := { x.c with vpc := 0x4000, fbase := 0x4000, m := x.c.m.set 1 4 }, live := { x.live with inStream := 15 } } with cur := ⟨0, .stream⟩ }
theorem current0 {x : Hart} (h : x.c.vqcount.toNat = 1) (g : x.c.vq[0][7].toNat % 4 = 1) : Current x 0 :=
  ⟨⟨by rw [h]; decide, by rw [h]; decide⟩, g, fun j hj => absurd hj (by simp)⟩
/-- VP 2 of hart 0, threaded at facet 0, with its counters at c. -/
def vp2 (c : Nat) : TVP := { vp := 2, facet := 0, pc := 0x4000, cnt := BitVec.ofNat 64 c, entry := 0 }
def threads (w c : Nat) : State :=
  { (streams w).onHart 0 fun x => { x with live := { x.live with inStream := 11, tvps := [vp2 c] } } with cur := ⟨0, .vp 2⟩ }
/-- Its VPs stand at the second entry, and VP 2 of an earlier fetch still runs, at the first. -/
def behind (w : Nat) : State := (threads w 0).onHart 0 fun x => { x with c := { x.c with
  vqcount := 2, vq := (x.c.vq.set 1 (x.c.vq[0])).set 0 (x.c.vq[0].set 7 3) } }
def onCur (s : State) : State := { s with cur := ⟨0, .stream⟩ }
theorem test_hyp_VpsLeave :
    (∀ m ∈ [(1 : MReg), 2], ∃ s, InStream s ∧ MasksClean (s.hart s.me) m ∧ (s.hart s.me).c.treg.toNat / 4 % 4 ≠ 3 ∧ Claims.Joined s ∧ Current (s.hart s.me) 0 ∧
      (s.hart s.me).c.vq[0][1].toNat % 4 = 1 ∧ (s.hart s.me).c.vq[0][1].toNat / 8 % 64 = 0x36 ∧ (s.hart s.me).live.inStream.getLsbD 0 = true ∧ 0 ∉ chosen s m) ∧
    (∃ s, InStream s ∧ MasksClean (s.hart s.me) 1 ∧ (s.hart s.me).c.treg.toNat / 4 % 4 ≠ 3 ∧ ¬ Claims.Joined s) ∧
    (∃ s t, InVp s 2 ∧ MasksClean (s.hart s.me) 1 ∧ t.entry < 12 ∧ ((s.hart s.me).live.tvps.find? fun y => y.vp == 2) = some t ∧
      (s.hart s.me).c.vq[0][1].toNat % 4 = 1 ∧ (s.hart s.me).c.vq[0][1].toNat / 8 % 64 = 0x36) :=
  ⟨fun m h => ⟨streams 0, rfl, by unfold MasksClean; revert m; decide +kernel, by decide +kernel, by unfold Claims.Joined; decide +kernel, current0 (by decide +kernel) (by decide +kernel), by decide +kernel,
      by decide +kernel, by decide +kernel, fun n => by
        simp only [chosen, List.mem_filter, Bool.and_eq_true] at n
        exact absurd n.2.2 (by revert m; decide +kernel)⟩,
    ⟨onCur (behind 0), rfl, by unfold MasksClean; decide +kernel, by decide +kernel, by unfold Claims.Joined; decide +kernel⟩,
    threads 0 0, vp2 0, rfl, by unfold MasksClean; decide +kernel, by decide +kernel, by decide +kernel, by decide +kernel, by decide +kernel⟩
/-- The VP that stops is the only one of its entry, which is done; or the stream of it still runs. -/
theorem test_hyp_VpsStop : (∃ s, InStream s ∧ (s.hart s.me).c.treg.toNat / 4 % 4 ≠ 3 ∧ Claims.Joined s ∧ Current (s.hart s.me) 0) ∧
    (∃ s, InStream s ∧ (s.hart s.me).c.treg.toNat / 4 % 4 ≠ 3 ∧ ¬ Claims.Joined s) ∧
    (∀ s ∈ [threads 0 0, behind 0], InVp s 2 ∧ ((s.hart s.me).live.tvps.find? fun y => y.vp == 2) = some (vp2 0)) ∧ ∃ s, InControl s :=
  ⟨⟨streams 0, rfl, by decide +kernel, by unfold Claims.Joined; decide +kernel, current0 (by decide +kernel) (by decide +kernel)⟩,
    ⟨onCur (behind 0), rfl, by decide +kernel, by unfold Claims.Joined; decide +kernel⟩, by unfold InVp; decide +kernel, s1, rfl⟩
/-- `vskip` by 2 parcels to a `vstop` in the facet, and by 1024, outside it. -/
theorem test_hyp_Regions :
    (∃ s, InStream s ∧ ¬ inFacet s s.me (threadFacet s s.me .stream) ((s.hart s.me).c.vpc + BitVec.ofNat 64 (2 * (1024 : Imm13).toNat)) = true) ∧
    (∀ m ∈ [(1 : MReg), 2], ∃ s, InStream s ∧ (s.hart s.me).c.region.toNat / 8 % 2 = 0 ∧
      (s.hart s.me).c.vpc.toNat < ((s.hart s.me).c.vpc + BitVec.ofNat 64 (2 * (2 : Imm13).toNat)).toNat ∧
      inFacet s s.me (threadFacet s s.me .stream) ((s.hart s.me).c.vpc + BitVec.ofNat 64 (2 * (2 : Imm13).toNat)) = true ∧ Claims.Joined s ∧ (s.hart s.me).c.mPois[m] = 0 ∧
      (((s.hart s.me).live.inStream &&& (s.hart s.me).c.m[m]) = if m = 1 then 4 else 0)) ∧
    (∃ s, InStream s ∧ (s.hart s.me).c.region.toNat / 8 % 2 = 0 ∧
      (s.hart s.me).c.vpc.toNat < ((s.hart s.me).c.vpc + BitVec.ofNat 64 (2 * (2 : Imm13).toNat)).toNat ∧
      inFacet s s.me (threadFacet s s.me .stream) ((s.hart s.me).c.vpc + BitVec.ofNat 64 (2 * (2 : Imm13).toNat)) = true ∧ ¬ Claims.Joined s) :=
  ⟨⟨streams (encode (.vskip 1 2) + encode .vstop * 2 ^ 32), rfl, by decide +kernel⟩,
    fun m h => ⟨streams (encode (.vskip 1 2) + encode .vstop * 2 ^ 32), rfl, by decide +kernel, by decide +kernel, by decide +kernel,
      by unfold Claims.Joined; decide +kernel, by revert m; decide +kernel, by revert m; decide +kernel⟩,
    onCur (behind (encode (.vskip 1 2) + encode .vstop * 2 ^ 32)), rfl, by decide +kernel, by decide +kernel, by decide +kernel, by unfold Claims.Joined; decide +kernel⟩
/-- A `vlbr` to itself. -/
theorem test_hyp_Loops :
    (∃ s, InStream s ∧ inFacet s s.me (threadFacet s s.me .stream) ((s.hart s.me).c.vpc + (0 : Imm13).signExtend 64 * 2) = true) ∧
    (∀ c ∈ [0, 1, 2], ∃ s t, InVp s 2 ∧ ((s.hart s.me).live.tvps.find? fun y => y.vp == 2) = some t ∧ (∀ u ∈ (s.hart s.me).live.tvps, u.vp = 2 → u = t) ∧
      t.cnt.toNat = c ∧ inFacet s s.me (threadFacet s s.me (.vp 2)) (t.pc + (0 : Imm13).signExtend 64 * 2) = true) :=
  ⟨⟨streams (encode (.vlbr 0 0) + encode .vstop * 2 ^ 32), rfl, by decide +kernel⟩,
    fun c h => ⟨threads (encode (.vlbr 0 0) + encode .vstop * 2 ^ 32) c, vp2 c, rfl, by revert c; decide +kernel, by revert c; decide +kernel,
      by revert c; decide +kernel, by revert c; decide +kernel⟩⟩
/-- The reply queue holds n replies, from entry 6 on. -/
def replies (s : State) (n : Nat) : State := s.onHart 0 fun x => { x with c := { x.c with rqstate := BitVec.ofNat 64 (n + 16 * 6) } }
theorem test_hyp_RepliesPosted : (∀ n ∈ [0, 7, 8], ∃ s, InStream s ∧ MasksClean (s.hart s.me) 1 ∧ Current (s.hart s.me) 0 ∧
    (s.hart s.me).c.rqstate.toNat % 16 = n ∧ Claims.Joined s) ∧
    ∃ s, InStream s ∧ MasksClean (s.hart s.me) 1 ∧ Current (s.hart s.me) 1 ∧ ¬ Claims.Joined s :=
  ⟨fun n h => ⟨replies (streams 0) n, rfl, by unfold MasksClean; revert n; decide +kernel, current0 (by revert n; decide +kernel) (by revert n; decide +kernel), by revert n; decide +kernel,
      by unfold Claims.Joined; revert n; decide +kernel⟩,
    onCur (behind 0), rfl, by unfold MasksClean; decide +kernel, ⟨by decide +kernel, by decide +kernel, by decide +kernel⟩, by unfold Claims.Joined; decide +kernel⟩
theorem test_hyp_RepliesTaken :
    (∀ n ∈ [1, 8], ∃ s, InControl s ∧ (s.hart s.me).c.rqstate.toNat % 16 = n) ∧
    (∃ s, InControl s ∧ (s.hart s.me).c.rqstate.toNat % 16 = 0 ∧ vIdle (s.hart s.me) = true) ∧
    (∃ s, InControl s ∧ (s.hart s.me).c.rqstate.toNat % 16 = 0 ∧ vIdle (s.hart s.me) = false) ∧
    (∀ n ∈ [0, 1, 8], ∃ s bits u, (s.hart 0).state = .running ∧ (s.hart 0).live.wait = .qrecv ∧ Moves s 0 ∧
      (fetchAt (whoS s 0) false (s.hart 0).c.pc.toNat).run.run s = (.ok bits, u) ∧ decode (bits % 2 ^ (8 * parcelLen bits)) = some (.qrecv 4) ∧
      (u.hart 0).c.rqstate.toNat % 16 = n ∧ vIdle (u.hart 0) = true) :=
  ⟨fun n h => ⟨replies s1 n, rfl, by revert n; decide +kernel⟩, ⟨s1, rfl, by decide +kernel⟩, ⟨busy, rfl, by decide +kernel⟩,
    fun n h => ⟨replies (waitsAt (.qrecv 4) .qrecv 0) n, encode (.qrecv 4), _, by revert n; decide +kernel, by revert n; decide +kernel, moves_of (by revert n; decide +kernel),
      got_of (by revert n; decide +kernel), by revert n; decide +kernel, by revert n; decide +kernel, by revert n; decide +kernel⟩⟩
/-- Ten elements of I32 on 4 lanes, in groups of eight: the first group, and the second and last. -/
theorem test_hyp_QueuedGroups : ∀ lo ∈ [0, 8], ∃ s, UnitWorks s 0 ∧ (s.hart 0).c.vqcount = 1 ∧ (s.hart 0).c.vq[0][7].toNat % 4 = (if lo = 0 then 0 else 1) ∧
    (s.hart 0).c.vq[0][1] = BitVec.ofNat 64 (encode (.vaddVv 2 0 1 none false)) ∧ (s.hart 0).c.vq[0][2].toNat = 0x22 ∧ vtIllegal 0x22 = false ∧
    (s.hart 0).live.tvps = [] ∧ slotN (s.slotWord 0) = 1 ∧ (s.hart 0).c.vq[0][3].toNat % 8192 = 10 ∧ (s.hart 0).c.st[2].toNat = lo ∧
    lo % (lanesOf s 0 * 64 / 32) = 0 ∧ (∀ r : Fin 8, (s.hart 0).c.rays[r][0].toNat % 2 = 0) ∧ ∀ j : Fin 32, (s.hart 0).live.vPois[j] = 0 := fun lo h =>
  ⟨status (queued s1 [0x4000, 0x00080561, 0x22, 10, 0, 0, 0, lo / 8]) 2 lo,
    ⟨.inl (by revert lo; decide +kernel), by revert lo; decide +kernel, moves_of (by revert lo; decide +kernel)⟩, by revert lo; decide +kernel⟩

/-! Rays, copies, exit. -/

/-- Ray r of hart 0: its entry and its descriptor. -/
def ray (s : State) (r : Fin 8) (e d : List Nat) : State := s.onHart 0 fun x => { x with
  c := { x.c with rays := x.c.rays.set r (Vector.ofFn fun i : Fin 8 => BitVec.ofNat 64 (e.getD i.val 0)) }
  live := { x.live with rdesc := x.live.rdesc.set r (Vector.ofFn fun i : Fin 8 => BitVec.ofNat 64 (d.getD i.val 0)) } }
/-- A stream of four I32 elements at 0x8100, landing in 256 bytes at 0xC000; of the given direction, and with a future. -/
def descr (dir fut : Nat) : List Nat := [0x8100, 4, 4, 0, 0x10200 + dir, 0xC000, fut, 0]
/-- The descriptor at 0x8000. -/
def binds : State := words s1 [(0x300000, 0x8100), (0x300008, 4), (0x300010, 4), (0x300020, 0x10200), (0x300028, 0xC000)]
def descV (l : List Nat) : Vector Word 8 := Vector.ofFn fun i : Fin 8 => BitVec.ofNat 64 (l.getD i.val 0)
def landsB (s : State) (va : Nat) : Bool :=
  match leafFor s (whoS s s.me) .load va with
  | some (e, _, lvl) => regionOf (eFrame e + va % leafSize lvl) == some .store &&
      (eFrame e + va % leafSize lvl - 0x100000000000) / 0x200000 == (tileOf s.me).val
  | none => false
theorem lands_of {s : State} {va : Nat} (h : landsB s va = true) : ∃ e ea lvl, leafFor s (whoS s s.me) .load va = some (e, ea, lvl) ∧
    let pa := eFrame e + va % leafSize lvl
    regionOf pa = some .store ∧ (pa - 0x100000000000) / 0x200000 = (tileOf s.me).val := by
  unfold landsB at h
  split at h
  · next e ea lvl k =>
    simp only [Bool.and_eq_true, beq_iff_eq] at h
    exact ⟨e, ea, lvl, k, h.1, h.2⟩
  · cases h
def wordB (s : State) (va : Nat) (w : Word) (x : Xl) : Bool := clearB s (whoS s s.me) .load va 8 x && w == BitVec.ofNat 64 (memRead s.mem x.pa 8)
theorem word_of {s : State} {va : Nat} {w : Word} {x : Xl} (h : wordB s va w x = true) :
    ∃ x, Clear s (whoS s s.me) .load va 8 x ∧ w = BitVec.ofNat 64 (memRead s.mem x.pa 8) := by
  simp only [wordB, Bool.and_eq_true, beq_iff_eq] at h
  exact ⟨x, clear_of h.1, h.2⟩
/-- Hart 0's registers v1 and v2 are bound to rays 0 and 1 in the first state, v0 to v7 to all eight in the second, none in the third. -/
def bound (n : Nat) : State := (List.range n).foldl (fun s i => ray s (Fin.ofNat 8 i) [0x2201 + 2 * i] (descr 0 0)) binds
theorem descV_fields : (descV (descr 0 0))[1].toNat = 4 ∧ (descV (descr 0 0))[4].toNat = 0x10200 ∧ (descV (descr 0 0))[5].toNat = 0xC000 ∧
    (descV (descr 0 0))[7] = 0 := by decide
theorem descriptor_of {s : State} {va : Nat} (h : va % 64 = 0)
    (w : ((List.finRange 8).all fun i => wordB s (va + 8 * i.val) (descV (descr 0 0))[i] (page2 (8 * i.val))) = true)
    (l : ((List.range 4).all fun i => landsB s (0xC000 + 64 * i)) = true) : Descriptor s va (descV (descr 0 0)) :=
  have k := descV_fields
  have hl : ∀ i, i < 4 * ((descV (descr 0 0))[4].toNat / 65536) → i < 4 := by rw [k.2.1]; exact fun i hi => hi
  ⟨h, fun i => word_of (List.all_eq_true.mp w i (List.mem_finRange i)), by rw [k.1]; decide, by rw [k.2.1]; exact ⟨by decide, by decide, by decide, k.2.2.2⟩,
    by rw [k.2.1]; decide, by rw [k.2.1]; decide, by rw [k.2.1]; decide, by rw [k.2.1]; intro n; exact absurd n (by decide), by rw [k.2.2.1],
    fun i hi => by rw [k.2.2.1]; exact lands_of (List.all_eq_true.mp l i (List.mem_range.mpr (hl i hi)))⟩
theorem test_hyp_RaysBound :
    (∀ n ∈ [0, 1, 8], ∃ s, InControl s ∧ Descriptor s (gr s 4).toNat (descV (descr 0 0)) ∧ queuedN (s.hart s.me) < 12 ∧
      (∀ r : Fin 8, (s.hart s.me).c.rays[r][0].toNat % 2 = if r.val < n then 1 else 0) ∧ Unbound (s.hart s.me) 31 ∧
      (n = 0 ∨ ((s.hart s.me).c.rays[0][0].toNat % 2 = 1 ∧ (s.hart s.me).c.rays[0][0].toNat / 2 % 32 = 0))) ∧
    (∃ s, AtHead s 0 (.sbind 0 4) ∧ BoundTo (s.hart 0) 0 0) :=
  ⟨fun n h => ⟨bound n, by show (bound n).cur.thread = .control; revert n; decide +kernel,
      descriptor_of (by revert n; decide +kernel) (by revert n; decide +kernel) (by revert n; decide +kernel), by revert n; decide +kernel,
      by revert n; decide +kernel, by unfold Unbound; revert n; decide +kernel, by revert n; decide +kernel⟩,
    ray (queued s1 [0x4000, encode (.sbind 0 4), 0x22, 4]) 0 [0x2001] (descr 0 0), ⟨⟨.inl (by decide +kernel), by decide +kernel, moves_of (by decide +kernel)⟩,
      by decide +kernel, by decide +kernel, by decide +kernel⟩, by unfold BoundTo; decide +kernel⟩
/-- `sfree` of a ray without a future stands at the head, and the hart waits for it. -/
def freeing : State := (ray (queued s1 [0x4000, encode (.sfree 0), 0x22, 4]) 0 [0x2201] (descr 0 0)).setWait 0 .sfree
theorem test_hyp_RaysFreed :
    (∃ s, InControl s ∧ (s.hart s.me).live.wait = .sfree) ∧
    (∃ s, InControl s ∧ (s.hart s.me).live.wait ≠ .sfree ∧ Unbound (s.hart s.me) 0 ∧ queuedN (s.hart s.me) = 0) ∧
    (∃ s, InControl s ∧ (s.hart s.me).live.wait ≠ .sfree ∧ BoundTo (s.hart s.me) 0 0 ∧ descWord s s.me 0 6 ≠ 0 ∧ queuedN (s.hart s.me) = 0) ∧
    (∃ s, InControl s ∧ (s.hart s.me).live.wait ≠ .sfree ∧ BoundTo (s.hart s.me) 0 0 ∧ descWord s s.me 0 6 = 0 ∧ vIdle (s.hart s.me) = false ∧ queuedN (s.hart s.me) < 12) ∧
    (∃ s, InControl s ∧ (s.hart s.me).live.wait ≠ .sfree ∧ BoundTo (s.hart s.me) 0 0 ∧ descWord s s.me 0 6 = 0 ∧ (s.hart s.me).live.frozen = true ∧ queuedN (s.hart s.me) < 12) ∧
    (∃ s, InControl s ∧ (s.hart s.me).live.wait ≠ .sfree ∧ BoundTo (s.hart s.me) 0 0 ∧ descWord s s.me 0 6 = 0 ∧ vIdle (s.hart s.me) = true ∧ (s.hart s.me).live.frozen = false ∧
      rayAtWord s s.me 0 0 / 64 % 2 = 0 ∧ rayAtWord s s.me 0 0 / 2 ^ 24 % 256 = 0) ∧
    (∃ s p, AtHead s 0 (.sfree 0) ∧ BoundTo (s.hart 0) 0 0 ∧ rayAtWord s 0 0 0 / 64 % 2 = 0 ∧ rayAtWord s 0 0 0 / 2 ^ 24 % 256 = 0 ∧ descWord s 0 0 6 ≠ 0 ∧
      (s.hart 0).live.wait ≠ .sfree ∧ Unscrubbed s ∧ Clear s (rayWho s 0) .atomic (descWord s 0 0 6) 8 p ∧ futureState (memRead s.mem p.pa 8) = 0) ∧
    (∃ s, AtHead s 0 (.sfree 0) ∧ BoundTo (s.hart 0) 0 0 ∧ rayAtWord s 0 0 0 / 64 % 2 = 0 ∧ rayAtWord s 0 0 0 / 2 ^ 24 % 256 = 0 ∧ descWord s 0 0 6 = 0 ∧
      (s.hart 0).live.wait = .sfree ∧ (s.hart 0).c.pc = (s.hart 0).c.vq[0][0]) :=
  ⟨⟨freeing, rfl, by decide +kernel⟩, ⟨s1, rfl, by decide +kernel, by unfold Unbound; decide +kernel, by decide +kernel⟩,
    ⟨ray s1 0 [0x2201] (descr 0 0x8010), rfl, by decide +kernel, by unfold BoundTo; decide +kernel, by decide +kernel, by decide +kernel⟩,
    ⟨ray busy 0 [0x2201] (descr 0 0), rfl, by decide +kernel, by unfold BoundTo; decide +kernel, by decide +kernel, by decide +kernel⟩,
    ⟨(ray s1 0 [0x2201] (descr 0 0)).onHart 0 fun x => { x with live := { x.live with frozen := true } }, rfl, by decide +kernel, by unfold BoundTo; decide +kernel,
      by decide +kernel, by decide +kernel⟩,
    ⟨ray s1 0 [0x2201] (descr 0 0), rfl, by decide +kernel, by unfold BoundTo; decide +kernel, by decide +kernel, by decide +kernel, by decide +kernel, by decide +kernel⟩,
    ⟨ray (queued s1 [0x4000, encode (.sfree 0), 0x22, 4]) 0 [0x2201] (descr 0 0x8010), page2 0x10, ⟨⟨.inl (by decide +kernel), by decide +kernel,
      moves_of (by decide +kernel)⟩, by decide +kernel, by decide +kernel, by decide +kernel⟩, by unfold BoundTo; decide +kernel, by decide +kernel, by decide +kernel,
      by decide +kernel, by decide +kernel, by unfold Unscrubbed; decide +kernel, clear_of (by decide +kernel), by decide +kernel⟩,
    freeing, ⟨⟨.inl (by decide +kernel), by decide +kernel, moves_of (by decide +kernel)⟩, by decide +kernel, by decide +kernel, by decide +kernel⟩,
    by unfold BoundTo; decide +kernel, by decide +kernel⟩
/-- The fourth element of a load; a load stream at an odd address; the second of two elements of a store. -/
theorem test_hyp_RaysMove :
    (∃ s x y, Streaming s 0 0 0 ∧ (s.hart 0).live.vfence = false ∧ engOf s 0 0 < descWord s 0 0 1 % 2 ^ 32 ∧ engOf s 0 0 < posOf s 0 0 - heldOf s 0 0 + ringHolds s 0 0 ∧
      Clear s (rayWho s 0) .load (inStreamAt s 0 0 (engOf s 0 0)) (elemBytes s 0 0) x ∧
      Clear s (rayWho s 0) .store (inRingAt s 0 0 (engOf s 0 0)) (elemBytes s 0 0) y) ∧
    (∃ s, Streaming s 0 0 0 ∧ engOf s 0 0 < descWord s 0 0 1 % 2 ^ 32 ∧ engOf s 0 0 < posOf s 0 0 - heldOf s 0 0 + ringHolds s 0 0 ∧
      inStreamAt s 0 0 (engOf s 0 0) % elemBytes s 0 0 ≠ 0) ∧
    (∃ s x y, Streaming s 0 0 1 ∧ (s.hart 0).live.vfence = false ∧ engOf s 0 0 < posOf s 0 0 - heldOf s 0 0 ∧ Clear s (rayWho s 0) .load (inRingAt s 0 0 (engOf s 0 0)) (elemBytes s 0 0) x ∧
      Clear s (rayWho s 0) .store (inStreamAt s 0 0 (engOf s 0 0)) (elemBytes s 0 0) y) :=
  ⟨⟨ray s1 0 [0x2201, 0x8000, 0, 3] (descr 0 0), page2 0x10C, page3 12, ⟨.inl (by decide +kernel), by decide +kernel, by decide +kernel, by decide +kernel,
      by decide +kernel⟩, by decide +kernel, by decide +kernel, by decide +kernel, clear_of (by decide +kernel), clear_of (by decide +kernel)⟩,
    ⟨ray s1 0 [0x2201, 0x8000, 0, 0] (0x8101 :: (descr 0 0).drop 1), ⟨.inl (by decide +kernel), by decide +kernel, by decide +kernel, by decide +kernel,
      by decide +kernel⟩, by decide +kernel, by decide +kernel, by decide +kernel⟩,
    ray s1 0 [0x2241, 0x8000, 2, 1] (descr 1 0), page3 4, page2 0x104, ⟨.inl (by decide +kernel), by decide +kernel, by decide +kernel, by decide +kernel,
      by decide +kernel⟩, by decide +kernel, by decide +kernel, clear_of (by decide +kernel), clear_of (by decide +kernel)⟩
/-- Page 2 is of the host's memory. -/
def hostPage (off : Nat) : Xl := ⟨0x400000000000 + off, 0x40000000062D, 0x7F800000C010, .host⟩
def hosted (s : State) : State := leaf s 2 0x40000000062D
theorem test_hyp_CopiesForked :
    (∃ s, InControl s ∧ trimPending s s.me = false ∧ (s.hart s.me).c.vt < 2 ^ 63 ∧ fmtWidth (vtEw (s.hart s.me).c.vt) < 8) ∧
    (∃ s, InControl s ∧ trimPending s s.me = false ∧ (s.hart s.me).c.vt < 2 ^ 63 ∧ 8 ≤ fmtWidth (vtEw (s.hart s.me).c.vt) ∧ (gr s 8).toNat % 8 ≠ 0) ∧
    (∀ n ∈ [0, 32], ∃ s x, InControl s ∧ trimPending s s.me = false ∧ (s.hart s.me).c.vt < 2 ^ 63 ∧ 8 ≤ fmtWidth (vtEw (s.hart s.me).c.vt) ∧
      (gr s 4).toNat % 8 = 0 ∧ xlate s (whoS s s.me) .store (gr s 4).toNat = .ok x ∧ x.region ≠ .host ∧ eKind x.leaf ≠ 2 ∧ vlOf s * fmtWidth (vtEw (s.hart s.me).c.vt) / 8 = 4 * n) ∧
    (∃ s x, InControl s ∧ trimPending s s.me = false ∧ (s.hart s.me).c.vt < 2 ^ 63 ∧ 8 ≤ fmtWidth (vtEw (s.hart s.me).c.vt) ∧
      (gr s 4).toNat % 8 = 0 ∧ xlate s (whoS s s.me) .store (gr s 4).toNat = .ok x ∧ x.region = .host) ∧
    (∃ s x, InControl s ∧ trimPending s s.me = false ∧ (s.hart s.me).c.vt < 2 ^ 63 ∧ 8 ≤ fmtWidth (vtEw (s.hart s.me).c.vt) ∧
      (gr s 9).toNat % 8 = 0 ∧ xlate s (whoS s s.me) .store (gr s 9).toNat = .ok x ∧ x.region ≠ .host ∧ eKind x.leaf = 2) :=
  ⟨⟨vec s1 0x44 4, rfl, by decide +kernel⟩, ⟨vec s1 0x22 4, rfl, by decide +kernel⟩,
    fun n h => ⟨vec s1 0x22 n, page2 0, rfl, by revert n; decide +kernel, by revert n; decide +kernel, by revert n; decide +kernel, by revert n; decide +kernel,
      ok_of (by revert n; decide +kernel), by decide +kernel, by decide +kernel, by revert n; decide +kernel⟩,
    ⟨hosted (vec s1 0x22 4), hostPage 0, rfl, by decide +kernel, by decide +kernel, by decide +kernel, by decide +kernel, ok_of (by decide +kernel), by decide +kernel⟩,
    vec s1 0x22 4, queue0, rfl, by decide +kernel, by decide +kernel, by decide +kernel, by decide +kernel, ok_of (by decide +kernel), by decide +kernel, by decide +kernel⟩
/-- Engine 0 carries its last strip of two bytes, or its first. -/
def carried (off : Nat) (c : Copy) : State := { s1.setEngine 0 { strip := some (5, off, 2) } with copies := [(5, c)] }
theorem test_hyp_StripsTaken : ∃ (s : State) (e : EngineId) (c : Copy) (o : Nat) (r : List Nat), (s.engine e.val).strip = none ∧ s.copies = [(5, c)] ∧
    c.tile.val = e.val / 4 ∧ c.suspended = false ∧ (s.func c.iss.func).inSlice = true ∧ c.untaken = o :: r ∧ o ∉ r ∧ stripOrdered s c o = false :=
  ⟨{ s1 with copies := [(5, copy 0x8000 [4096] 1)] }, 3, copy 0x8000 [4096] 1, 4096, [], by decide +kernel, rfl, by decide +kernel, by decide +kernel,
    by decide +kernel, by decide +kernel, by decide, by decide +kernel⟩
theorem strip_clear {s : State} {c : Copy} {off len : Nat} {x y : Nat → Xl}
    (h : ((List.range len).all fun i => clearB s (c.iss.eng c.tile) .load ((c.src.toNat + off + i) % 2 ^ 64) 1 (x i) &&
      clearB s (c.iss.eng c.tile) .store ((c.dst.toNat + off + i) % 2 ^ 64) 1 (y i)) = true)
    (w : ∀ i, i < len → ∀ j, j < 8 → (c.dst.toNat + off + i) % 8 = 0 → i + j < len → (y (i + j)).pa = (y i).pa + j)
    (a : ∀ i, i < len → ∀ j, j < len → (x i).pa ≠ (y j).pa) (d : ∀ i, i < len → ∀ j, j < len → i ≠ j → (y i).pa ≠ (y j).pa) : StripClear s c off len x y := by
  simp only [List.all_eq_true, List.mem_range, Bool.and_eq_true] at h
  exact ⟨fun i hi => clear_of (h i hi).1, fun i hi => clear_of (h i hi).2, fun i j e hj hl => w i (by omega) j hj e hl, fun i j hi hj => a i hi j hj, fun i j hi hj => d i hi j hj⟩
theorem test_hyp_StripsDone :
    (∃ s e c x y, Carries s e 5 4096 2 c ∧ StripClear s c 4096 2 x y ∧ (s.copies.map (·.1)).Nodup ∧ c.kind ≠ 1 ∧ 2 ≤ c.running) ∧
    (∃ s e c x y, Carries s e 5 0 2 c ∧ StripClear s c 0 2 x y ∧ (s.copies.map (·.1)).Nodup ∧ c.kind ≠ 1 ∧ c.untaken ≠ []) ∧
    (∃ s e c x y p, Carries s e 5 4096 2 c ∧ StripClear s c 4096 2 x y ∧ (s.copies.map (·.1)).Nodup ∧ c.running = 1 ∧ c.untaken = [] ∧ c.failed = false ∧ c.kind = 0 ∧ c.obj ≠ 0 ∧
      Unscrubbed s ∧ c.iss.hart = some 0 ∧ Clear s (c.iss.eng c.tile) .atomic c.obj.toNat 8 p ∧ futureState (memRead s.mem p.pa 8) = 0 ∧
      (∀ i, i < 2 → (y i).pa + 1 ≤ p.pa ∨ p.pa + 8 ≤ (y i).pa) ∧ (s.hart 0).state = .running ∧ (s.tile (tileOf 0)).gchg = false) :=
  ⟨⟨carried 4096 (copy 0x8000 [] 2), 0, copy 0x8000 [] 2, fun i => page2 (4096 + i), fun i => page3 (4096 + i), ⟨by decide +kernel, by decide +kernel⟩,
      strip_clear (by decide +kernel) (by decide +kernel) (by decide +kernel) (by decide +kernel), by decide +kernel, by decide +kernel, by decide +kernel⟩,
    ⟨carried 0 (copy 0x8000 [4096] 1), 0, copy 0x8000 [4096] 1, fun i => page2 i, fun i => page3 i, ⟨by decide +kernel, by decide +kernel⟩,
      strip_clear (by decide +kernel) (by decide +kernel) (by decide +kernel) (by decide +kernel), by decide +kernel, by decide +kernel, by decide +kernel⟩,
    carried 4096 (copy 0x8000 [] 1), 0, copy 0x8000 [] 1, fun i => page2 (4096 + i), fun i => page3 (4096 + i), page2 0x10, ⟨by decide +kernel, by decide +kernel⟩,
    strip_clear (by decide +kernel) (by decide +kernel) (by decide +kernel) (by decide +kernel), by decide +kernel, by decide +kernel, by decide +kernel, by decide +kernel, by decide +kernel,
    by decide +kernel, by unfold Unscrubbed; decide +kernel, by decide +kernel, clear_of (by decide +kernel), by decide +kernel⟩
theorem test_hyp_StripsFault : ∃ s e c tr, Carries s e 5 4096 2 c ∧ 2 ≤ c.running ∧ (c.src.toNat + 4096) < 2 ^ 64 ∧
    xlate s (c.iss.eng c.tile) .load (c.src.toNat + 4096) = .error tr ∧ c.iss.hart = some 0 ∧ (s.hart 0).state = .running ∧ (s.tile (tileOf 0)).gchg = false :=
  ⟨carried 4096 (copy 0x1FF000 [] 2), 0, copy 0x1FF000 [] 2, { cause := 4, tval := 0x200000 }, ⟨by decide +kernel, by decide +kernel⟩, by decide +kernel,
    by decide +kernel, err_of (by decide +kernel), by decide +kernel⟩
theorem test_hyp_Exits : (∃ s, InControl s ∧ vIdle (s.hart s.me) = false) ∧
    (∃ s, InControl s ∧ vIdle (s.hart s.me) = true ∧ (∀ r : Fin 8, (s.hart s.me).c.rays[r][0].toNat % 2 = 0) ∧ (s.hart s.me).live.late = none) :=
  ⟨⟨busy, rfl, by decide +kernel⟩, s1, rfl, by decide +kernel⟩

/-! Tangent regions. -/

/-- Hart 0 at an `apx` of its slot k, whose region is empty; it owns the slot, which has the given state. -/
def tangent (k : Fld5) (x : TSlot) (vt vl : Nat) : State :=
  (vec (mach (encode (.apx k 4) + encode (.apxend k) * 2 ^ 32)) vt vl).setTslot k.val { x with owner := 0x100 }
/-- What stands in the way of opening it: nothing. -/
def opensB (s : State) : Bool :=
  codeB s (whoS s s.me) 4 && got ((fetchBytes (whoS s s.me) false (0x4000 + 4) 4).run.run s) (encode (.apxend 3)) &&
  (pcOf s == 0x4000) && ((s.tslot (slotOfK s 3)).owner == 0x100) && (slotOf s.me).val == 0 && ((s.hart s.me).func == 0) &&
  (s.hart s.me).c.treg.toNat / 4 % 2 == 0 && vIdle (s.hart s.me) && ((depended s (slotOfK s 3)).tslot (slotOfK s 3)).steps == 0 && ((s.tile (tileOf s.me)).quar == false) &&
  s.vbuf.isEmpty && (s.hart s.me).live.wait != .apx
theorem opens_of {s : State} (c : InControl s) (h : opensB s = true) : OpensRegion s 3 4 := by
  simp only [opensB, Bool.and_eq_true, beq_iff_eq, List.isEmpty_iff, bne_iff_ne] at h
  obtain ⟨⟨⟨⟨⟨⟨⟨⟨⟨⟨⟨h1, h2⟩, h3⟩, h4⟩, h5⟩, h6⟩, h7⟩, h8⟩, h9⟩, h10⟩, h11⟩, h12⟩ := h
  have e : joinV s s.me = s := by unfold joinV; rw [h11]; rfl
  refine ⟨c, ⟨by rw [h4]; decide, by rw [h4, h5]; decide, by rw [h4, h6]; decide⟩, h10, h7, ?_, h8, h12, h9⟩
  rw [e, h3, show ((0x4000 : Word) + BitVec.ofNat 64 (2 * (4 : Imm13).toNat) - 4).toNat = 0x4000 + 4 from by decide]
  exact code_of h1 h2
def treg (s : State) (v : Nat) : State := s.onHart 0 fun x => { x with c := { x.c with treg := BitVec.ofNat 64 v } }
/-- Tile 0 has left the machine. -/
def away : State := s1.setTile 0 { s1.tile 0 with quar := true }
theorem test_hyp_RegionsOpen :
    (∃ s, OpensRegion s 3 4 ∧ ((depended s (slotOfK s 3)).tslot (slotOfK s 3)).st = 0) ∧
    (∃ s, InControl s ∧ (s.hart s.me).live.wait ≠ .apx ∧ vIdle (s.hart s.me) = false) ∧
    (∃ s, InControl s ∧ (s.hart s.me).live.wait ≠ .apx ∧ vIdle (s.hart s.me) = true ∧ (s.hart s.me).c.treg.toNat / 4 % 2 = 1) ∧
    (∃ s, InControl s ∧ (s.hart s.me).live.wait ≠ .apx ∧ vIdle (s.hart s.me) = true ∧ (s.hart s.me).c.treg.toNat / 4 % 2 = 0 ∧ TileThere s ∧ ¬ Owns s (slotOfK s 3)) ∧
    (∃ s, InControl s ∧ (s.hart s.me).live.wait ≠ .apx ∧ vIdle (s.hart s.me) = true ∧ (s.hart s.me).c.treg.toNat / 4 % 2 = 0 ∧ ¬ TileThere s) ∧
    ∃ s : State, s.dcache = [] ∧ s.vbuf = [] ∧ (s.hart s.me).live.vfence = false :=
  ⟨⟨tangent 3 {} 0x88 2, opens_of rfl (by decide +kernel), by decide +kernel⟩, ⟨busy, rfl, by decide +kernel⟩, ⟨treg s1 4, rfl, by decide +kernel⟩,
    ⟨s1, rfl, by decide +kernel, by decide +kernel, by decide +kernel, by unfold TileThere; decide +kernel, fun h => absurd h.1 (by decide +kernel)⟩,
    ⟨away, rfl, by decide +kernel, by decide +kernel, by decide +kernel, by unfold TileThere; decide +kernel⟩, s1, by decide +kernel⟩
/-- Fitted: inputs from v8, outputs to v16, a sample at every second call. -/
def fitted : TSlot := { st := 2, shape := BitVec.ofNat 64 (8 * 2048 + 16 * 65536), samp := 2 }
theorem test_hyp_RegionsAnswered : ∃ s sl, OpensRegion s 3 4 ∧ Ready s ∧ (depended s (slotOfK s 3)).tslot (slotOfK s 3) = sl ∧ sl.st = 2 ∧
    (sl.calls + 1).toNat % 2 ≠ 0 ∧ sl.samp.toNat % 65536 = 2 ∧ vtEw (s.hart s.me).c.vt = 8 ∧ vlOf s ≤ 512 ∧ vsiOf s = 0 ∧
    sl.shape.toNat / 2048 % 32 + ninOf sl * vtG (s.hart s.me).c.vt ≤ 32 ∧ voutOf sl + noutOf sl * vtG (s.hart s.me).c.vt ≤ 32 ∧
    s.dcache = [] ∧ s.vbuf = [] :=
  ⟨tangent 3 fitted 0x88 2, _, opens_of rfl (by decide +kernel), ready_of (by decide +kernel), rfl, by decide +kernel⟩
/-- Vector work; outside a region; in one of an OFF slot, and of one that has changed to FITTED meanwhile, with the same epoch and with another;
the slot owned and not owned; no tile. -/
theorem test_hyp_RegionsEnd :
    (∃ s, InControl s ∧ vIdle (s.hart s.me) = false) ∧
    (∃ s, InControl s ∧ (s.hart s.me).c.treg.toNat / 4 % 2 = 0 ∧ vIdle (s.hart s.me) = true) ∧
    (∀ t ∈ [(7, 0), (0x17, 0), (0x217, 1)], ∃ s, InControl s ∧ (s.hart s.me).c.treg.toNat = t.1 ∧ vIdle (s.hart s.me) = true ∧ TileThere s ∧ Owns s (slotOfK s 3) ∧
      (t.1 / 16 % 4 = 0 ∨ ((s.tslot (slotOfK s 3)).st ≠ t.1 / 256 % 8 ∨ (s.tslot (slotOfK s 3)).epoch ≠ (s.hart s.me).c.tepoch) ∧ vtEw (s.hart s.me).c.vt = 8 ∧
        (s.hart s.me).c.vt < 2 ^ 63)) ∧
    (∃ s, InControl s ∧ TileThere s ∧ Owns s (slotOfK s 3)) ∧ (∃ s, InControl s ∧ TileThere s ∧ ¬ Owns s (slotOfK s 3)) ∧ ∃ s, InControl s ∧ ¬ TileThere s :=
  ⟨⟨busy, rfl, by decide +kernel⟩, ⟨s1, rfl, by decide +kernel⟩,
    fun t h => ⟨treg (tangent 3 { fitted with epoch := BitVec.ofNat 64 t.2 } 0x88 2) t.1, rfl, by revert t; decide +kernel, by revert t; decide +kernel,
      by unfold TileThere; revert t; decide +kernel,
      ⟨by revert t; decide +kernel, by revert t; decide +kernel, by revert t; decide +kernel⟩, by revert t; decide +kernel⟩,
    ⟨tangent 3 fitted 0x88 2, rfl, by unfold TileThere; decide +kernel, ⟨by decide +kernel, by decide +kernel, by decide +kernel⟩⟩,
    ⟨s1, rfl, by unfold TileThere; decide +kernel, fun h => absurd h.1 (by decide +kernel)⟩, away, rfl, by unfold TileThere; decide +kernel⟩
/-- The hart waits at the `apx` of its OFF slot. -/
theorem test_hyp_RegionsRetried : ∃ s bits u, (s.hart 0).state = .running ∧ (s.hart 0).live.wait = .apx ∧ Moves s 0 ∧
    (fetchAt (whoS s 0) false (s.hart 0).c.pc.toNat).run.run s = (.ok bits, u) ∧ decode (bits % 2 ^ (8 * parcelLen bits)) = some (.apx 3 4) ∧
    let v := { u with cur := ⟨0, .control⟩ }
    (v.hart 0).live.wait = .apx ∧ (v.tslot (slotOfK v 3)).steps = 0 ∧ (v.tslot (slotOfK v 3)).st = 0 :=
  ⟨(tangent 3 {} 0x88 2).setWait 0 .apx, encode (.apx 3 4), _, by decide +kernel, by decide +kernel, moves_of (by decide +kernel),
    got_of (by decide +kernel), by decide +kernel⟩
/-- Pages 8 to 11 are a run of 64 KiB of the store, where the slot's samples lie. -/
def sampled (x : TSlot) : State :=
  (leaf (leaf (leaf (leaf s1 8 0x10000001060D) 9 0x10000001460D) 10 0x10000001860D) 11 0x10000001C60D).setTslot 3 x
def slot3 (st : Nat) : TSlot := { st := st, owner := 0x100, samp := 0x100010000, thr := 0x7F80000080000000, sbuf := 0x20000, depbase := 0x100000000040, deplimit := 0x100000200000 }
theorem test_hyp_SlotCommands :
    (∃ s : State, (s.tslot 3).owner.toNat / 256 % 2 = 0) ∧
    (∃ s : State, (s.tslot 3).owner.toNat / 256 % 2 = 1 ∧ (s.tslot 3).samp.toNat / 65536 % 256 = 0) ∧
    (∀ st ∈ [0, 1], ∃ s, (s.tslot 3).st = st ∧ (s.tslot 3).owner.toNat / 256 % 2 = 1 ∧ (s.tslot 3).samp.toNat / 65536 % 256 ≠ 0 ∧
      (s.tslot 3).samp.toNat / 2 ^ 32 % 256 ≠ 0 ∧ (s.tslot 3).thr.toNat % 2 ^ 32 = 0x80000000 ∧ (s.tslot 3).thr.toNat / 2 ^ 32 = 0x7F800000 ∧
      (s.tslot 3).depbase.toNat % 64 = 0 ∧ (s.tslot 3).deplimit.toNat % 64 = 0 ∧ 0x100000000000 ≤ (s.tslot 3).depbase.toNat ∧
      (s.tslot 3).deplimit.toNat ≤ 0x100000200000 ∧ sampleRing s 3 (s.tslot 3) = some 0x100000010000) :=
  ⟨⟨s1, by decide +kernel⟩, ⟨s1.setTslot 3 { slot3 1 with samp := 0 }, by decide +kernel⟩,
    fun st h => ⟨sampled (slot3 st), by revert st; decide +kernel⟩⟩
/-- A step is queued for a slot that is FITTING; its function is not in its slice, and is. -/
def training (slice : Bool) : State :=
  (s1.setTslot 3 { slot3 1 with steps := 1, sbphys := 0x100000010000, sbcount := 1 }).setFunc 0 { inSlice := slice }
/-- And while the gear of the tile changes. -/
def changing (s : State) : State := s.setTile 0 { s.tile 0 with gchg := true }
theorem test_hyp_TrainingSteps : (∃ s : State, (s.func ((s.tslot 3).owner.toNat / 65536 % 32)).inSlice = false) ∧
    (∃ s : State, (s.tslot 3).held = true) ∧
    (∃ s : State, (s.func ((s.tslot 3).owner.toNat / 65536 % 32)).inSlice = true ∧ (s.tslot 3).held = false ∧ (s.tile 0).quar = false ∧ (s.tile 0).gchg = true ∧
      (s.tslot 3).steps ≠ 0 ∧ (s.tslot 3).st = 1) ∧
    (∃ s xs, (s.func ((s.tslot 3).owner.toNat / 65536 % 32)).inSlice = true ∧ (s.tslot 3).held = false ∧ (s.tile 0).quar = false ∧ (s.tile 0).gchg = false ∧
      (s.tslot 3).steps ≠ 0 ∧ (s.tslot 3).st = 1 ∧ Samples s (s.tslot 3) 1 xs) :=
  ⟨⟨training false, by decide +kernel⟩, ⟨s1.setTslot 3 { slot3 1 with held := true }, by decide +kernel⟩, ⟨changing (training true), by decide +kernel⟩,
    training true, _, by decide +kernel, by decide +kernel, by decide +kernel, by decide +kernel, by decide +kernel, by decide +kernel, fun i hi => by
      have p : ((training true).tslot 3).sbphys.toNat = 0x100000010000 := by decide +kernel
      rw [p]; unfold regionOf; rw [if_neg (by omega), if_pos (by omega)], rfl, rfl⟩
/-! Contexts, slices, pages, errors. -/

/-- Hart 1, which is EMPTY in s1, is f of what it was. -/
def hart1 (f : Hart → Hart) : State := s1.onHart 1 f
/-- Every cluster is in a mode that holds tenants' harts. -/
def recovering (s : State) : State := { s with hub := { s.hub with cluster := 0xFFFFFFFFFFFFFFFF } }
theorem test_hyp_HartsStart :
    (∃ s h, Parked s h ∧ MayRun s h ∧ Startable s h) ∧
    (∃ s h, Parked s h ∧ MayRun s h ∧ (s.hart h).space.toNat % 0x4000 = 0 ∧ (s.hart h).space.toNat < 2 ^ 48 ∧ (s.hart h).vsave.toNat % 0x4000 = 0 ∧
      (s.hart h).vsave.toNat < 2 ^ 48 ∧ 5 ≤ (s.hart h).img.st[3].toNat / 4) ∧
    (∃ s h, Parked s h ∧ ¬ MayRun s h ∧ ClusterFree s h) ∧ (∃ s h, Parked s h ∧ ¬ MayRun s h ∧ ¬ ClusterFree s h) ∧
    (∃ (s : State) (h : HartId), (s.hart h).state = .running) ∧ (∃ (s : State) (h : HartId), (s.hart h).state = .stopping) :=
  ⟨⟨s1, 1, ⟨by decide +kernel, by decide +kernel⟩, by unfold MayRun ClusterFree; decide +kernel, by decide +kernel, by decide +kernel, by decide +kernel, by decide +kernel⟩,
    ⟨hart1 fun x => { x with img := { x.img with st := x.img.st.set 3 20 } }, 1, ⟨by decide +kernel, by decide +kernel⟩, by unfold MayRun ClusterFree; decide +kernel,
      by decide +kernel⟩,
    ⟨s1.setFunc 0 { inSlice := false }, 1, ⟨by decide +kernel, by decide +kernel⟩, by unfold MayRun ClusterFree; decide +kernel, by unfold ClusterFree; decide +kernel⟩,
    ⟨recovering s1, 1, ⟨by decide +kernel, by decide +kernel⟩, by unfold MayRun ClusterFree; decide +kernel, by unfold ClusterFree; decide +kernel⟩,
    ⟨s1, 0, by decide +kernel⟩, hart1 fun x => { x with state := .stopping }, 1, by decide +kernel⟩
/-- Hart 0 is asked to stop where i stands, and waits in w; its tile changes its gear or not. -/
def asked (i : Instr) (w : Wait) (change : Bool) : State :=
  let s := ((mach (encode i)).setWait 0 w).onHart 0 fun x => { x with state := .stopping }
  s.setTile 0 { s.tile 0 with gchg := change }
theorem test_hyp_HartsStop :
    (∃ (s : State) (h : HartId), (s.hart h).state = .running) ∧ (∃ s h, Parked s h) ∧
    (∀ l : Bool, ∃ s h, StopReady s h ∧ (s.hart h).latched = l ∧ (s.hart h).space.toNat % 0x4000 = 0 ∧ (s.hart h).space.toNat < 2 ^ 48 ∧
      (s.hart h).vsave.toNat % 0x4000 = 0 ∧ (s.hart h).vsave.toNat < 2 ^ 48 ∧ (s.hart h).c.st[3].toNat < 20 ∧ (s.slotWord h).toNat % 16 ≠ 0) ∧
    (∀ g : Bool, ∃ s, (s.hart 0).state = .stopping ∧ (s.hart 0).step1 = false ∧ (s.hart 0).falling = false ∧ (s.tile (tileOf 0)).gchg = g ∧ ¬ ClusterFree s 0) ∧
    (∀ w ∈ [Wait.outside 0x8000 true false, .none], ∃ s, (s.hart 0).state = .stopping ∧ (s.hart 0).step1 = false ∧ (s.hart 0).falling = false ∧ Moves s 0 ∧
      (s.hart 0).live.wait = w ∧ (s.hart 0).live.tvps = [] ∧ (s.hart 0).live.vfault = none ∧ (w.isOutside = true ∨ exitsNow s 0 = true)) :=
  ⟨⟨s1, 0, by decide +kernel⟩, ⟨s1, 1, by decide +kernel, by decide +kernel⟩,
    fun l => ⟨hart1 fun x => { x with state := .stopping, latched := l }, 1, ⟨by revert l; decide +kernel, moves_of (by revert l; decide +kernel), by revert l; decide +kernel,
      by revert l; decide +kernel, by revert l; decide +kernel, by revert l; decide +kernel, by revert l; decide +kernel, by revert l; decide +kernel⟩, by revert l; decide +kernel⟩,
    fun g => ⟨recovering (asked .exit .none g), by revert g; decide +kernel, by revert g; decide +kernel, by revert g; decide +kernel, by revert g; decide +kernel,
      by unfold ClusterFree; revert g; decide +kernel⟩,
    fun w h => ⟨asked .exit w false, by revert w; decide +kernel, by revert w; decide +kernel, by revert w; decide +kernel, moves_of (by revert w; decide +kernel),
      by revert w; decide +kernel⟩⟩
/-- Functions 0 and 1 share die 0's tiles; hart 0 is function 0's, in a state, and hart 8 is function 1's, and asked to go on. -/
def shares (x : HState) : State :=
  let f : Func := { w := ((Vector.replicate 10 0).set 0 1).set 3 0x4040001, inSlice := false }
  ((s1.onHart 0 fun h => { h with state := x }).onHart 8 fun h => { h with func := 1, held := some false }).setFunc 0 { f with inSlice := true, w := f.w.set 4 0x500000000 }
    |>.setFunc 1 f
/-- Function 0 has used its budget. -/
def spent (x : HState) : State := (shares x).setFunc 0 { (shares x).func 0 with w := ((shares x).func 0).w.set 7 5 }
/-- No function has its slice. -/
def idled : State := (shares .stopped).setFunc 0 { (shares .stopped).func 0 with inSlice := false }
/-- Engine 0 carries a strip of function 0's copy. -/
def carrying (s : State) : State := { s.setEngine 0 { strip := some (5, 0, 2) } with copies := [(5, copy 0x8000 [4096] 1)] }
/-- Function 2 holds die 0's tiles too, and is in its slice. -/
def third : State := idled.setFunc 2 { (shares .stopped).func 0 with w := ((Vector.replicate 10 0).set 0 1).set 3 0x4040001, inSlice := true }
theorem unremembered_of {s : State} {a : Nat} (h : (hartsOf s a).all (fun h => !(s.hart h).remembered) = true) :
    ∀ h ∈ hartsOf s a, (s.hart h).remembered = false := fun x hx => by simpa using List.all_eq_true.mp h x hx
theorem free_of {s : State} {a b : FuncId} (h : ((s.func b.val).inSlice == false) = true)
    (k : (List.finRange 17).all (fun f => f == a || f == b || (s.func f.val).w[0].toNat % 2 != 1 || (s.func f.val).inSlice == false ||
      partitionsMeet (s.func b.val) (s.func f.val) == false) = true) : SliceFree s a b := by
  refine ⟨by simpa using h, fun f e g on i => ?_⟩
  have := List.all_eq_true.mp k f (List.mem_finRange f)
  simp_all
theorem test_hyp_Slices :
    (∃ (s : State) (a b : FuncId), nextServed s a.val = some b.val ∧ a ≠ b ∧ (s.func a.val).inSlice = true ∧ (∀ h ∈ hartsOf s a.val, Parked s h) ∧ Flushed s a.val ∧
      SliceFree s a b) ∧
    (∃ (s : State) (a b : FuncId), nextServed s a.val = some b.val ∧ a ≠ b ∧ (s.func a.val).inSlice = true ∧ ∃ h ∈ hartsOf s a.val, ¬ Parked s h ∧ (s.hart h).state = .running) ∧
    (∃ (s : State) (a b : FuncId), nextServed s a.val = some b.val ∧ a ≠ b ∧ (s.func a.val).inSlice = true ∧ ¬ Flushed s a.val) ∧
    (∃ (s : State) (a b : FuncId), nextServed s a.val = some b.val ∧ (s.func a.val).inSlice = false ∧ SliceFree s a b) ∧
    (∃ (s : State) (a b f : FuncId), nextServed s a.val = some b.val ∧ (s.func a.val).inSlice = false ∧ (s.func b.val).inSlice = false ∧ f ≠ b ∧
      (s.func f.val).w[0].toNat % 2 = 1 ∧ (s.func f.val).inSlice = true ∧ partitionsMeet (s.func b.val) (s.func f.val) = true) ∧
    (∃ (s : State) (a f : FuncId), nextServed s a.val = some a.val ∧ (s.func a.val).inSlice = true ∧ f ≠ a ∧ partitionsMeet (s.func a.val) (s.func f.val) = true) ∧
    (∃ (s : State) (a b : FuncId), nextServed s a.val ≠ some b.val ∧ ∀ h ∈ hartsOf s a.val, (s.hart h).remembered = false) ∧
    (∃ (s : State) (f : FuncId), (s.func f.val).w[4].toNat / 2 ^ 32 = 5 ∧ funcUsed s f.val = 5 ∧ (s.func f.val).inSlice = true ∧ (∀ h ∈ hartsOf s f.val, Parked s h) ∧
      Flushed s f.val) ∧
    (∃ (s : State) (f : FuncId), (s.func f.val).w[4].toNat / 2 ^ 32 = 5 ∧ funcUsed s f.val = 5 ∧ (s.func f.val).inSlice = true ∧ ∃ h ∈ hartsOf s f.val, ¬ Parked s h) ∧
    (∃ (s : State) (f : FuncId), (s.func f.val).inSlice = false) ∧ (∃ (s : State) (b : FuncId) (h : HartId), (s.func b.val).inSlice = false ∧ (s.hart h).func.toNat = b.val ∧
      Parked s h ∧ (s.hart h).held = some false ∧ ClusterFree s h ∧ Startable s h) :=
  ⟨⟨shares .stopped, 0, 1, by decide +kernel, by decide, by decide +kernel, parked_of (by decide +kernel), by unfold Flushed; decide +kernel,
      free_of (by decide +kernel) (by decide +kernel)⟩,
    ⟨shares .running, 0, 1, by decide +kernel, by decide, by decide +kernel, 0, by decide +kernel, by unfold Parked; decide +kernel, by decide +kernel⟩,
    ⟨carrying (shares .stopped), 0, 1, by decide +kernel, by decide, by decide +kernel, by unfold Flushed; decide +kernel⟩,
    ⟨idled, 0, 1, by decide +kernel, by decide +kernel, free_of (by decide +kernel) (by decide +kernel)⟩,
    ⟨third, 0, 1, 2, by decide +kernel, by decide +kernel, by decide +kernel, by decide, by decide +kernel⟩,
    ⟨(shares .running).onHart 8 fun x => { x with held := none }, 0, 1, by decide +kernel, by decide +kernel, by decide, by decide +kernel⟩,
    ⟨shares .running, 2, 0, by decide +kernel, unremembered_of (by decide +kernel)⟩,
    ⟨spent .stopped, 0, by decide +kernel, by decide +kernel, by decide +kernel, parked_of (by decide +kernel), by unfold Flushed; decide +kernel⟩,
    ⟨spent .running, 0, by decide +kernel, by decide +kernel, by decide +kernel, 0, by decide +kernel, by unfold Parked; decide +kernel⟩,
    ⟨idled, 0, by decide +kernel⟩,
    idled, 1, 8, by decide +kernel, by decide +kernel, ⟨by decide +kernel, by decide +kernel⟩, by decide +kernel, by unfold ClusterFree; decide +kernel,
    by decide +kernel, by decide +kernel, by decide +kernel, by decide +kernel⟩
/-- A parked hart and one on the core; TAIL 4 of a ring of 4, and TAIL 5; HEAD of 5, which leaves none of 5 entries, and of 0, which leaves all. -/
theorem test_hyp_PageStores :
    (∃ s h, TablesInHbm s ∧ (s.tile (tileOf h)).quar = false ∧ Parked s h) ∧ (∃ s h, TablesInHbm s ∧ (s.tile (tileOf h)).quar = false ∧ ¬ Parked s h) ∧
    (∃ p ∈ imageWords, p.1 = 0x1F8) ∧
    (∀ p ∈ [(4, 0, 4, true), (4, 0, 5, false), (3, 5, 5, true), (3, 5, 0, false)], ∃ (s : State) (q : QueueId), TablesInHbm s ∧ (s.queue q.val).w[3].toNat = 0 ∧ (s.queue q.val).w[4].toNat = p.2.1 ∧
      (countQ (queueWord s q.val p.1 (BitVec.ofNat 64 p.2.2.1)) q.val ≤ capQ s q.val ↔ p.2.2.2 = true)) ∧
    (∃ u : State, (u.queue 0).w[0].toNat % 8 ≠ 3) :=
  ⟨⟨s1, 1, by unfold TablesInHbm; decide +kernel, by decide +kernel, by decide +kernel, by decide +kernel⟩,
    ⟨s1, 0, by unfold TablesInHbm; decide +kernel, by decide +kernel, by unfold Parked; decide +kernel⟩, by decide +kernel,
    fun p h => ⟨ring s1 0 3 2 0 p.2.1, 0, by unfold TablesInHbm; revert p; decide +kernel, by revert p; decide +kernel⟩, s1, by decide +kernel⟩
theorem test_hyp_SlotWords :
    (∃ (s : State) (h : HartId), TablesInHbm s ∧ (s.tile (tileOf h)).quar = false ∧ (s.hart h).state ≠ .empty ∧ (s.hart h).state ≠ .exited) ∧
    (∃ (s : State) (h : HartId) (v : Word), TablesInHbm s ∧ (s.tile (tileOf h)).quar = false ∧ (s.hart h).state = .empty ∧ goodRun (slotPN v) (slotPF v) ∧ goodRun (slotHN v) (slotHF v) ∧
      slotPF v ≤ slotHF v ∧ slotHF v + slotHN v ≤ slotPF v + slotPN v ∧ ∀ j : Fin 8, j ≠ slotOf h → let w := (s.tile (tileOf h)).slots[j]
        slotHN w = 0 ∨ slotHF w + slotHN w ≤ slotHF v ∨ slotHF v + slotHN v ≤ slotHF w) :=
  ⟨⟨s1, 0, by unfold TablesInHbm; decide +kernel, by decide +kernel⟩, s1, 1, slotReset 1, by unfold TablesInHbm; decide +kernel, by decide +kernel, by decide +kernel, by unfold goodRun; decide +kernel, by unfold goodRun; decide +kernel,
    by decide +kernel, by decide +kernel, by decide +kernel⟩
theorem test_hyp_HardwareErrors :
    (∃ (t : TileId) (o : Nat) (pa : BitVec 48), o < 0x200000 ∧ o % 8 = 0 ∧ pa.toNat = 0x100000000000 + t.val * 0x200000 + o) ∧
    (∃ (s : State) (h : HartId), (s.hart h).state = .running) ∧ (∃ s h, Parked s h) ∧
    (∀ m ∈ [(true, true), (true, false), (false, true), (false, false)], ∃ (s : State) (t : TileId), (s.tile t).quar = m.1 ∧ s.hub.cluster.getLsbD (t.val / 8) = m.2) ∧
    (∃ (s : State) (n : ClusterId), ∀ p ∈ s.harts, p.1 / 64 = n.val → p.2.held = none) ∧
    (∃ (s : State) (n : ClusterId) (h : HartId), (∀ p ∈ s.harts, p.1 / 64 = n.val → p.2.held.isSome → p.1 = h.val) ∧ h.val / 64 = n.val ∧ Parked s h ∧
      (s.hart h).held = some false ∧ (s.func (s.hart h).func.toNat).inSlice = true ∧ Startable s h) :=
  ⟨⟨511, 0x1FFFF8, 0x10003FFFFFF8, by decide⟩, ⟨s1, 0, by decide +kernel⟩, ⟨s1, 1, by decide +kernel, by decide +kernel⟩,
    fun m h => ⟨(if m.2 then recovering s1 else s1).setTile 0 { s1.tile 0 with quar := m.1 }, 0, by revert m; decide +kernel⟩, ⟨s1, 1, by decide +kernel⟩,
    recovering (hart1 fun x => { x with held := some false }), 0, 1, by decide +kernel, by decide +kernel, ⟨by decide +kernel, by decide +kernel⟩, by decide +kernel,
    by decide +kernel, by decide +kernel, by decide +kernel, by decide +kernel, by decide +kernel⟩

/-! Kernels and host commands. -/

/-- Kernel 0's descriptor, of one point, at 0x300000, and what is set otherwise. -/
def kdesc : Vector Word 16 := #v[0x4000, 0, 0x100000001, 0, 0, 0, 0, 0, 0, 0, 0, 0, 0, 0, 0, 0]
def kern (k : Kernel) (entry : Nat) : State := (words s1 [(0x300000, entry), (0x300010, 0x100000001)]).setKernel 0 { k with kdesc := 0x300000, tset := 0x801 }
theorem test_hyp_KernelCommands :
    (∃ s, (s.kernel 0).kstate = 0 ∧ KernelDesc s 0 kdesc ∧ KernelGood s 0 kdesc) ∧
    (∃ s d, (s.kernel 0).kstate = 0 ∧ KernelDesc s 0 d ∧ (d[0] = 0 ∨ d[0].toNat % 2 = 1)) ∧
    (∀ p ∈ [0x200000000000, 0x10003FFFFFC0, 0xD7FFFFFFC0, 0x300000], ∃ s : State, (s.kernel 0).kstate = 0 ∧ (s.kernel 0).kdesc.toNat = p ∧ Unreadable s p) ∧
    (∃ s : State, ((s.kernel 0).kstate = 4 ∨ (s.kernel 0).kstate = 2) ∧ (s.kernel 0).desc[8] = 0) ∧
    (∃ s : State, (s.kernel 0).kstate ≠ 0 ∧ (s.kernel 0).desc[8] = 0) :=
  ⟨⟨kern {} 0x4000, by decide +kernel, ⟨by decide +kernel, by decide +kernel, by decide +kernel, by decide +kernel, by decide +kernel⟩,
      ⟨by decide +kernel, by decide +kernel, by decide +kernel, by decide +kernel, by decide +kernel, by decide +kernel, by decide +kernel⟩⟩,
    ⟨kern {} 0, kdesc.set 0 0, by decide +kernel, ⟨by decide +kernel, by decide +kernel, by decide +kernel, by decide +kernel, by decide +kernel⟩, by decide +kernel⟩,
    fun p h => ⟨({ s1 with poison := [0x60008] } : State).setKernel 0 { kdesc := BitVec.ofNat 64 p }, by revert p; decide +kernel, by revert p; decide +kernel,
      by
        have w : ∀ p ∈ [0x200000000000, 0x10003FFFFFC0, 0xD7FFFFFFC0, 0x300000], p = 0x300000 ∨ (regionOf (p + 64) ≠ some .hbm ∧ regionOf (p + 64) ≠ some .store) := by
          decide +kernel
        rcases w p h with e | e
        · subst e; exact .inl (by decide +kernel)
        · exact .inr ⟨p + 64, .inr rfl, .inl e⟩⟩, ⟨s1.setKernel 0 { kstate := 4 }, by decide +kernel⟩, s1.setKernel 0 { kstate := 4 }, by decide +kernel⟩
/-- The ring of queue 0 lies in the store of tile 1, which is quarantined. -/
def lostRing : State :=
  let s := ring (kern { kstate := 2, desc := kdesc } 0) 0 1 2 0 0
  (s.setQueue 0 { s.queue 0 with w := (s.queue 0).w.set 1 0x100000200000 }).setTile 1 { s.tile 1 with quar := true }
/-- The launcher at point 0 of 1, whose queue, 0 of tile 0, is full, has room, and is none. -/
theorem test_hyp_KernelsLaunch :
    (∃ s : State, (s.kernel 0).kstate = 1) ∧
    (∀ t ∈ [4, 3], ∃ s, (s.kernel 0).kstate = 2 ∧ (s.kernel 0).allPlaced = false ∧ (s.kernel 0).desc[9].toNat % 65536 + pointTile (s.kernel 0) (s.kernel 0).cursor = 0 ∧
      TaskQueue s 0 ∧ (s.queue 0).w[7].toNat % 32 = (s.kernel 0).own.toNat % 32 ∧ (s.queue 0).w[7].toNat / 256 % 2 = (s.kernel 0).own.toNat / 256 % 2 ∧
      countQ s 0 = t ∧ capQ s 0 = 4 ∧ RingClear s 0 (tailQ s 0)) ∧
    (∃ s, (s.kernel 0).kstate = 2 ∧ (s.kernel 0).allPlaced = false ∧ (s.kernel 0).desc[9].toNat % 65536 + pointTile (s.kernel 0) (s.kernel 0).cursor = 0 ∧
      TaskQueue s 0 ∧ (s.queue 0).w[7].toNat % 32 = (s.kernel 0).own.toNat % 32 ∧ (s.queue 0).w[7].toNat / 256 % 2 = (s.kernel 0).own.toNat / 256 % 2 ∧
      countQ s 0 < capQ s 0 ∧ quarantined s (entryQ s 0 (tailQ s 0)) = true ∧ (s.kernel 0).desc[8] = 0 ∧ (s.queue 0).w[1].toNat % 64 = 0) ∧
    (∃ s, (s.kernel 0).kstate = 2 ∧ (s.kernel 0).allPlaced = false ∧ ¬ TaskQueue s 0 ∧ (s.kernel 0).desc[8] = 0) ∧
    (∃ (k : Kernel) (i : Nat), kindOf k.desc 0 = 2 ∧ kindOf k.desc 1 = 0 ∧ kindOf k.desc 2 = 0 ∧ i < extentOf k.desc 0 ∧ extentOf k.desc 0 ≤ 2 ^ 20 ∧
      k.tset.toNat % 16 = 1 ∧ k.tset.toNat / 2048 % 256 ≠ 0) :=
  ⟨⟨kern { kstate := 1 } 0, by decide +kernel⟩,
    fun t h => ⟨ring (kern { kstate := 2, desc := kdesc } 0) 0 1 2 0 t, by revert t; decide +kernel, by revert t; decide +kernel, by revert t; decide +kernel,
      by unfold TaskQueue; revert t; decide +kernel, by revert t; decide +kernel, by revert t; decide +kernel, by revert t; decide +kernel,
      by revert t; decide +kernel, ⟨by revert t; decide +kernel, .inl (by revert t; decide +kernel), fun _ => by revert t; decide +kernel, by revert t; decide +kernel, by revert t; decide +kernel, by revert t; decide +kernel⟩⟩,
    ⟨lostRing, by decide +kernel, by decide +kernel, by decide +kernel, by unfold TaskQueue; decide +kernel, by decide +kernel⟩,
    ⟨kern { kstate := 2, desc := kdesc } 0, by decide +kernel, by decide +kernel, by unfold TaskQueue; decide +kernel, by decide +kernel⟩,
    { desc := kdesc.set 2 0x200100000, tset := 0x1001 }, 0xFFFFF, by decide⟩
theorem test_hyp_KernelsClose : ∀ p ∈ [(2, 0, 0), (3, 1, 0), (3, 0, 0), (3, 0, 1)], ∃ s, sampleTrees s 0 (s.kernel 0) = (0, 0, 0) ∧ (s.kernel 0).allPlaced = true ∧
    (s.kernel 0).kstate = p.1 ∧ (s.kernel 0).sent.toNat = p.2.1 ∧ (s.kernel 0).recv.toNat = 0 ∧ (s.kernel 0).phase + 1 = 1 ∧
    phases (s.kernel 0).desc = 1 + p.2.2 ∧ (s.kernel 0).desc[8] = 0 := fun p h =>
  ⟨kern { kstate := p.1, sent := BitVec.ofNat 64 p.2.1, allPlaced := true, desc := kdesc.set 2 (BitVec.ofNat 64 (0x100000001 + p.2.2)) } 0, by revert p; decide +kernel⟩
/-- Queue 0 of function 0, whose command space is the tables', holds the packet of the given words at 0x301000. -/
def cmds (ws : List Nat) : State :=
  ring (words s1 ((ws.zipIdx).map fun p => (0x301000 + 8 * p.2, p.1))) 0 3 2 0 (ws.length / 8)
def packet (op len : Nat) (a b c d e f : Nat) (more : List Nat) : List Nat := [op + 256 * (len - 1) + 65536 * 7, a, b, c, d, e, f, 0] ++ more
theorem command_of {s : State} {op len : Nat} {ws : List Word}
    (h : (decide ((s.queue 0).w[0].toNat % 8 = 3 ∧ (s.queue 0).w[0].toNat / 256 % 2 = 1 ∧ (s.queue 0).w[0].toNat / 1024 % 2 = 0) &&
      decide ((s.func ((s.queue 0).w[7].toNat % 32)).inSlice = true ∧ (s.func ((s.queue 0).w[7].toNat % 32)).inReset = false) &&
      decide (1 ≤ len ∧ len ≤ 4 ∧ len ≤ countQ s 0) && decide ((s.queue 0).w[1] = 0x301000) && decide (capQ s 0 = 4) &&
      decide (s.dcache = [] ∧ s.poison = []) && decide (s.lineKey = [] ∧ (s.queue 0).key = 0 ∧ s.hub.keys = []) &&
      decide (ws = (List.range (8 * len)).map fun j => BitVec.ofNat 64 (memRead s.mem ((s.queue 0).w[1].toNat % 2 ^ 48 + (headQ s 0 + j / 8) % capQ s 0 * 64 + 8 * (j % 8)) 8)) &&
      decide ((ws.getD 0 0).toNat = op + 256 * (len - 1) + 65536 * 7) && decide (op < 256)) = true) : Command s 0 op 7 len ws := by
  simp only [Bool.and_eq_true, decide_eq_true_eq] at h
  obtain ⟨⟨⟨⟨⟨⟨⟨⟨⟨h1, h2⟩, h3⟩, h4⟩, h5⟩, h6⟩, h7⟩, h8⟩, h9⟩, h10⟩ := h
  have e : ∀ i, i < 256 → regionOf (0x301000 + i) = some .hbm := fun i hi => by unfold regionOf; rw [if_pos (by omega)]
  exact ⟨h1, h2, h3, ⟨by rw [h4]; decide, fun i hi => by rw [h5] at hi; rw [h4]; exact e i (by omega)⟩, h6,
    fun i _ => by unfold lineKeyAt keyAt; rw [h7.1, h7.2.1, h7.2.2]; rfl, h8, h9, h10, by decide⟩
def ws_ (l : List Nat) : List Word := l.map (BitVec.ofNat 64)
theorem test_hyp_HostCommands :
    (∃ s ws, Command s 0 0 7 1 ws) ∧
    (∃ s ws, Command s 0 1 7 1 ws ∧ (s.kernel ((ws.getD 1 0).toNat % 4096)).kstate = 0 ∧ (ws.getD 2 0).toNat % 64 = 0 ∧ 1 ≤ (ws.getD 3 0).toNat / 2048 % 256 ∧
      (ws.getD 3 0).toNat / 2048 % 256 ≤ 128 ∧ (ws.getD 3 0).toNat / 16 % 128 + (ws.getD 3 0).toNat / 2048 % 256 ≤ 128) ∧
    (∃ s ws, Command s 0 2 7 1 ws ∧ (ws.getD 4 0).toNat % 8 = 0 ∧ (ws.getD 3 0).toNat % 2 ^ 32 ≠ 0) ∧
    (∃ s ws, Command s 0 8 7 1 ws ∧ (ws.getD 1 0).toNat < 5 ∧ ∀ p ∈ s.copies, p.2.queue ≠ some 0) ∧
    (∃ s ws, Command s 0 8 7 1 ws ∧ (ws.getD 1 0).toNat < 5 ∧ ∃ p ∈ s.copies, p.2.queue = some 0) :=
  ⟨⟨cmds (packet 0 1 0 0 0 0 0 0 []), ws_ (packet 0 1 0 0 0 0 0 0 []), command_of (by decide +kernel)⟩,
    ⟨cmds (packet 1 1 5 0x300000 (1 + 128 * 2048) 0 0 0 []), ws_ (packet 1 1 5 0x300000 (1 + 128 * 2048) 0 0 0 []), command_of (by decide +kernel), by decide +kernel⟩,
    ⟨cmds (packet 2 1 0xC000 0x8000 5 0x8010 0 0 []), ws_ (packet 2 1 0xC000 0x8000 5 0x8010 0 0 []), command_of (by decide +kernel), by decide +kernel⟩,
    ⟨cmds (packet 8 1 4 0 0 0 0 0 []), ws_ (packet 8 1 4 0 0 0 0 0 []), command_of (by decide +kernel), by decide +kernel⟩,
    { cmds (packet 8 1 4 0 0 0 0 0 []) with copies := [(1, { copy 0x8000 [] 1 with queue := some 0 })] }, ws_ (packet 8 1 4 0 0 0 0 0 []),
    command_of (by decide +kernel), by decide +kernel, by decide +kernel⟩
/-- Entry 16 of the last table, as page 6 shows it. -/
def aliasAt : Xl := ⟨0x7F800000C080, 0x7F800000C66D, 0x7F800000C030, .device⟩
/-- At 0x8000, of 0; a wait for its being 0 is met, and for its being 1 is not. -/
theorem test_hyp_HostCommandsOnMemory :
    (∃ s ws x, Command s 0 3 7 1 ws ∧ (ws.getD 3 0).toNat = 8 ∧ Clear s (coreWho s 0) .store (ws.getD 1 0).toNat 8 x) ∧
    (∃ s ws, Command s 0 3 7 1 ws ∧ (ws.getD 3 0).toNat = 4 ∧ (ws.getD 1 0).toNat % 4 ≠ 0) ∧
    (∀ r ∈ [0, 1], ∃ s ws x, Command s 0 4 7 1 ws ∧ (ws.getD 4 0).toNat = 0 ∧ Clear s (coreWho s 0) .load (ws.getD 1 0).toNat 8 x ∧
      memRead s.mem x.pa 8 &&& (ws.getD 3 0).toNat = 0 ∧ (ws.getD 2 0).toNat = r ∧ 0 ∈ (s.func ((s.queue 0).w[7].toNat % 32)).waits) ∧
    (∃ s ws x, Command s 0 5 7 1 ws ∧ Unscrubbed s ∧ Clear s (coreWho s 0) .atomic (ws.getD 1 0).toNat 8 x ∧ futureState (memRead s.mem x.pa 8) = 0) ∧
    (∃ s ws x y, Command s 0 6 7 2 ws ∧ (ws.getD 3 0).toNat = 8 ∧ Unscrubbed s ∧ Clear s (coreWho s 0) .store (ws.getD 1 0).toNat 8 x ∧
      Clear { performed s x.pa 8 1 with storeNo := s.storeNo + 1 } (coreWho s 0) .atomic (ws.getD 8 0).toNat 8 y ∧ (ws.getD 2 0).toNat % 256 ^ 8 = 1 ∧
      futureState (memRead (performed s x.pa 8 1).mem y.pa 8) = 0) ∧
    (∃ s ws x, Command s 0 7 7 1 ws ∧ (ws.getD 1 0).toNat = 1 ∧ (ws.getD 2 0).toNat % 8 = 0 ∧ xlate s (coreWho s 0) .store (ws.getD 2 0).toNat = .ok x ∧ eKind x.leaf = 3 ∧
      touch s x true = s ∧ reachOk s (coreWho s 0).iss.space x.pa (ws.getD 3 0).toNat = true ∧ keyGranted s (coreWho s 0).iss.func (ws.getD 3 0).toNat = true) ∧
    (∃ s ws, Command s 0 7 7 1 ws ∧ (ws.getD 1 0).toNat = 1 ∧ (ws.getD 2 0).toNat % 8 ≠ 0) ∧
    (∃ s ws x, Command s 0 7 7 1 ws ∧ (ws.getD 1 0).toNat = 1 ∧ (ws.getD 2 0).toNat % 8 = 0 ∧ xlate s (coreWho s 0) .store (ws.getD 2 0).toNat = .ok x ∧ eKind x.leaf ≠ 3) ∧
    (∃ s ws x, Command s 0 7 7 1 ws ∧ (ws.getD 1 0).toNat = 1 ∧ (ws.getD 2 0).toNat % 8 = 0 ∧ xlate s (coreWho s 0) .store (ws.getD 2 0).toNat = .ok x ∧ eKind x.leaf = 3 ∧
      (reachOk s (coreWho s 0).iss.space x.pa (ws.getD 3 0).toNat && keyGranted s (coreWho s 0).iss.func (ws.getD 3 0).toNat) = false) :=
  ⟨⟨cmds (packet 3 1 0x8000 1 8 0 0 0 []), ws_ (packet 3 1 0x8000 1 8 0 0 0 []), page2 0, command_of (by decide +kernel), by decide +kernel, clear_of (by decide +kernel)⟩,
    ⟨cmds (packet 3 1 0x8002 1 4 0 0 0 []), ws_ (packet 3 1 0x8002 1 4 0 0 0 []), command_of (by decide +kernel), by decide +kernel⟩,
    fun r h => ⟨(cmds (packet 4 1 0x8000 r 0xFF 0 0 0 [])).setFunc 0 { waits := [0] }, ws_ (packet 4 1 0x8000 r 0xFF 0 0 0 []), page2 0,
      command_of (by revert r; decide +kernel), by revert r; decide +kernel, clear_of (by revert r; decide +kernel), by revert r; decide +kernel⟩,
    ⟨cmds (packet 5 1 0x8010 0 0 0 0 0 []), ws_ (packet 5 1 0x8010 0 0 0 0 0 []), page2 0x10, command_of (by decide +kernel), by unfold Unscrubbed; decide +kernel,
      clear_of (by decide +kernel), by decide +kernel⟩,
    ⟨cmds (packet 6 2 0x8000 1 8 0 0 0 [0x8010, 0, 0, 0, 0, 0, 0, 0]), ws_ (packet 6 2 0x8000 1 8 0 0 0 [0x8010, 0, 0, 0, 0, 0, 0, 0]), page2 0, page2 0x10,
      command_of (by decide +kernel), by decide +kernel, by unfold Unscrubbed; decide +kernel, clear_of (by decide +kernel), clear_of (by decide +kernel), by decide +kernel⟩,
    ⟨cmds (packet 7 1 1 0x18080 0 0 0 0 []), ws_ (packet 7 1 1 0x18080 0 0 0 0 []), aliasAt, command_of (by decide +kernel), by decide +kernel, by decide +kernel,
      ok_of (by decide +kernel), by decide +kernel, marked_of (by decide +kernel), by decide +kernel, by decide +kernel⟩,
    ⟨cmds (packet 7 1 1 0x18084 0 0 0 0 []), ws_ (packet 7 1 1 0x18084 0 0 0 0 []), command_of (by decide +kernel), by decide +kernel⟩,
    ⟨cmds (packet 7 1 1 0x8000 0 0 0 0 []), ws_ (packet 7 1 1 0x8000 0 0 0 0 []), page2 0, command_of (by decide +kernel), by decide +kernel, by decide +kernel,
      ok_of (by decide +kernel), by decide +kernel⟩,
    cmds (packet 7 1 1 0x18080 0x30060D 0 0 0 []), ws_ (packet 7 1 1 0x18080 0x30060D 0 0 0 []), aliasAt, command_of (by decide +kernel), by decide +kernel,
    by decide +kernel, ok_of (by decide +kernel), by decide +kernel⟩
/-- Function 0's register 5 is latched, for queue 0, which it names, with TAIL 4 of 4. -/
def notified : State :=
  { s1.setFunc 0 { pending := 32, latch := (Vector.replicate 64 0).set 5 4 } with queues := [(0, ⟨#v[0x103, 0x301000, 2, 0, 0, 0, 69, 0, 0], 0⟩)] }
theorem test_hyp_Notifies :
    (∃ (s : State) (f : FuncId), (s.func f.val).inReset = false ∧ s.hub.lease.state ≠ 2) ∧ (∃ (s : State) (f : FuncId), (s.func f.val).inReset = true) ∧
    (∃ x v, putOf x 5 = some v) ∧ (∃ x, putOf x 5 = none) ∧
    (∃ (s : State) (f : FuncId) (i : Fin 64) (n : Nat) (q : Queue), (s.func f.val).pending.getLsbD i.val = true ∧ s.queues = [(n, q)] ∧ q.w[0].toNat % 8 = 3 ∧
      q.w[0].toNat / 256 % 2 = 1 ∧ q.w[7].toNat % 32 = f.val ∧ q.w[6].toNat % 128 = 64 + i.val ∧
      ((s.func f.val).latch[i].toNat + 2 ^ 32 - q.w[3].toNat % 2 ^ 32) % 2 ^ 32 ≤ 2 ^ (q.w[2].toNat % 32)) ∧
    (∃ (s : State) (f : FuncId) (i : Fin 64), (s.func f.val).pending.getLsbD i.val = false) ∧ (∃ s c ws, Command s 0 c 7 1 ws ∧ 9 ≤ c) :=
  ⟨⟨s1, 0, by decide +kernel⟩, ⟨s1.setFunc 0 { inReset := true }, 0, by decide +kernel⟩, ⟨.fetchAdd false 2, 7, by decide⟩, ⟨.cas false 6 1, by decide⟩, ⟨notified, 0, 5, 0, ⟨#v[0x103, 0x301000, 2, 0, 0, 0, 69, 0, 0], 0⟩, by decide +kernel, rfl, by decide +kernel⟩, ⟨s1, 0, 0, by decide +kernel⟩,
    cmds (packet 9 1 0 0 0 0 0 0 []), 9, ws_ (packet 9 1 0 0 0 0 0 0 []), command_of (by decide +kernel), by decide⟩


/-! Links, functions, trust. -/

/-- Function 0 has an EVENT queue, 0, with room. -/
def events (s : State) : State := (ring s 0 4 2 0 3).setFunc 0 { w := #v[0, 0x10000, 0, 0, 0, 0, 0, 0, 0, 0] }
theorem room_of {s : State} (h : (decide ((s.func 0).w[1].toNat / 65536 % 2 = 1 ∧ (s.func 0).w[1].toNat % 65536 = 0) &&
    decide ((s.queue 0).w[0].toNat % 8 = 4 ∧ (s.queue 0).w[0].toNat / 256 % 2 = 1) &&
    decide ((s.queue 0).w[7].toNat % 32 = 0 ∧ (s.queue 0).w[7].toNat / 256 % 2 = (s.func 0).w[0].toNat / 256 % 2) && decide (countQ s 0 < capQ s 0) &&
    decide ((s.queue 0).w[1].toNat % 64 = 0 ∧ regionOf (entryQ s 0 (tailQ s 0)) = some .hbm ∧ lineKeyAt s (entryQ s 0 (tailQ s 0)) = keyAt s (s.queue 0).key ∧ quarantined s (entryQ s 0 (tailQ s 0)) = false ∧ s.dcache = [] ∧ s.vbuf = []) &&
    decide ((s.queue 0).w[6].toNat / 2 ^ 22 % 2 = 0)) = true) : EventRoom s 0 0 := by
  simp only [Bool.and_eq_true, decide_eq_true_eq] at h
  obtain ⟨⟨⟨⟨⟨h1, h2⟩, h3⟩, h4⟩, h5⟩, h6⟩ := h
  exact ⟨h1, h2, h3, h4, ⟨h5.1, .inl h5.2.1, fun _ => h5.2.2.1, h5.2.2.2.1, h5.2.2.2.2.1, h5.2.2.2.2.2⟩, h6⟩
theorem test_events : EventRoom (events s1) 0 0 := room_of (by decide +kernel)
/-- Entry 65535 of function 0's BAR2 table names the last queue page, for writing or not; vector 63 of it is masked with its bit pending. -/
def bar2 (wr : Bool) : State :=
  { s1 with hub := { s1.hub with bar2 := [(65535, BitVec.ofNat 64 (0x200400000000 + 65535 * 0x4000 + 1 + if wr then 2 else 0))] } }
theorem test_hyp_HostLink :
    (∀ wr : Bool, ∃ (s : State) (f : FuncId) (off : BitVec 30) (k : QueueId) (p o : Nat), BarsUp s f ∧ p < 65536 ∧ o < 0x4000 ∧ o % 8 = 0 ∧ off.toNat = p * 0x4000 + o ∧
      o = 0x28 ∧ Bar2 s f p (0x200400000000 + k.val * 0x4000) wr) ∧
    (∃ (s : State) (f : FuncId) (off : BitVec 30) (p o n : Nat), BarsUp s f ∧ off.toNat = p * 0x4000 + o ∧ p < 65536 ∧ o < 0x4000 ∧ o % 8 = 0 ∧
      s.hub.bar2.lookup (65536 * f.val + p) = none ∧ EventRoom s f.val n) ∧
    (∃ (s : State) (f : FuncId), ¬ BarsUp s f) ∧ (∃ (s : State) (f : FuncId), BarsUp s f ∧ (s.func f.val).msixPend.getLsbD 63 = true) ∧ ∃ (s : State) (f : FuncId) (q : Nat), EventRoom s f.val q :=
  ⟨fun wr => ⟨bar2 wr, 0, 0x3FFFC028, 65535, 65535, 0x28, by revert wr; unfold BarsUp; decide +kernel, by decide, by decide, by decide, by decide, rfl,
      by revert wr; unfold Bar2; decide +kernel⟩,
    ⟨events s1, 0, 0x3FFFFFF8, 65535, 0x3FF8, 0, by unfold BarsUp; decide +kernel, by decide, by decide, by decide, by decide, by decide +kernel, test_events⟩,
    ⟨s1.setFunc 0 { inReset := true }, 0, by unfold BarsUp; decide +kernel⟩, ⟨s1.setFunc 0 { msixPend := 1#64 <<< 63 }, 0, by unfold BarsUp; decide +kernel, by decide +kernel⟩, events s1, 0, 0, test_events⟩
/-- The tile of hart 0 changes its gear; and its cluster is in a mode that holds it. -/
def still (n : Nat) (s : State) : State :=
  if n = 0 then s else if n = 1 then s.setTile 0 { s.tile 0 with gchg := true } else { s with hub := { s.hub with cluster := 1 } }
theorem test_hyp_RequestTimeouts : (∀ p : Bool × Bool × Fin 3, ∃ s h, (s.hart h).state = .running ∧ Handled s h ∧ (s.hart h).live.wait = .outside 0x8000 p.1 p.2.1 ∧
      movesB s h = decide (p.2.2 = 0)) ∧ (∃ s h, Moves s h ∧ s = still 0 handled) ∧ (∀ n ∈ [1, 2], ∃ s h, ¬ Moves s h ∧ s = still n handled) ∧
    ∃ s h, (s.hart h).state = .running ∧ Handled s h ∧ (s.hart h).live.wait = .none :=
  ⟨fun p => ⟨still p.2.2.val (handled.setWait 0 (.outside 0x8000 p.1 p.2.1)), 0, by revert p; decide +kernel,
      by revert p; unfold Handled; decide +kernel, by revert p; decide +kernel, by revert p; decide +kernel⟩,
    ⟨_, 0, moves_of (by decide +kernel), rfl⟩, fun n h => ⟨_, 0, by unfold Moves; revert n; decide +kernel, rfl⟩, handled, 0,
    by decide +kernel, by unfold Handled; decide +kernel, by decide +kernel⟩
theorem test_hyp_FunctionsReset :
    (∃ (s : State) (f : FuncId), Stilled s f.val ∧ (∀ p ∈ s.copies, p.2.iss.func ≠ f.val) ∧ (s.queue 0).w[7].toNat % 32 = f.val ∧ (s.queue 0).w[3] ≠ 0 ∧
      (s.kernel 0).own.toNat % 32 = f.val ∧ (s.kernel 0).kstate ≠ 0 ∧ 0 ∈ hartsOf s f.val) ∧
    (∃ (s : State) (f : FuncId) (n : Nat) (c : Copy), Stilled s f.val ∧ s.copies.lookup n = some c ∧ c.iss.func = f.val ∧ c.running ≠ 0) ∧
    ∃ (s : State) (f : FuncId), ∃ h ∈ hartsOf s f.val, ¬ Parked s h :=
  ⟨⟨(ring (s1.onHart 0 fun x => { x with state := .stopped }) 0 3 2 3 4).setKernel 0 { kstate := 4 }, 0, parked_of (by decide +kernel), by decide +kernel,
    by decide +kernel, by decide +kernel, by decide +kernel, by decide +kernel, by decide +kernel⟩,
    ⟨{ s1.onHart 0 fun x => { x with state := .stopped } with copies := [(5, copy 0x8000 [4096] 1)] }, 0, 5, copy 0x8000 [4096] 1, parked_of (by decide +kernel), rfl,
      by decide +kernel⟩, s1, 0, 0, by decide +kernel, by unfold Parked; decide +kernel⟩
/-- Inbound window 63 is valid, for function 0 and the space of the tables, at base 0x8000, where v stands. -/
def inbound (v : Nat) : State := words { s1 with hub := { s1.hub with inw := (s1.hub.inw.set 126 1).set 127 0x8000 } } [(0x300000, v)]
/-- Its base is an address of tile 0's store, and the lease is being reset. -/
def scrubbing : State := { inbound 0 with hub := { (inbound 0).hub with inw := (inbound 0).hub.inw.set 127 0xC000, lease := { (inbound 0).hub.lease with state := 2 } } }
theorem test_hyp_PeerAccesses :
    (∃ (s : State) (n : Fin 64), ¬ InboundValid s n 0) ∧
    (∃ (s : State) (n : Fin 64), (s.hub.inw[2 * n.val]).toNat % 2 = 1 ∧ ¬ InboundValid s n (BitVec.ofNat 52 (2 ^ 52 - 1))) ∧
    (∀ p ∈ [(Acc.load, 8), (.load, 1), (.store, 4), (.store, 8)], ∃ (s : State) (n : Fin 64) (x : Xl), InboundValid s n 0x10 ∧ Unscrubbed s ∧
      Clear s (inboundWho s n) p.1 (inboundVa s n 0x10) p.2 x) ∧
    (∀ v ∈ [0, 2 ^ 63 - 1, 2 ^ 63, 2 ^ 63 + 1], ∃ (s : State) (n : Fin 64) (x : Xl), InboundValid s n 0 ∧ Unscrubbed s ∧ Clear s (inboundWho s n) .atomic (inboundVa s n 0) 8 x ∧
      Clear s (inboundWho s n) .load (inboundVa s n 0) 8 x ∧ memRead s.mem x.pa 8 = v) ∧ futureState 0 = 0 ∧
    (waitEnds 0 (2 ^ 63) ∧ ¬ waitEnds 0 0 ∧ waitEnds 0 (2 ^ 32) ∧ ¬ waitEnds 0 (2 ^ 63 + 1)) ∧
    (∃ (s : State) (n : Fin 64) (x : Xl), s.hub.peerWaits = [⟨n, 0xC000, x.pa, 0, 0⟩] ∧ regionOf x.pa = some .store ∧ regionOf (x.pa + 7) = some .store) ∧
    (∃ (s : State) (n : Fin 64), InboundValid s n (BitVec.ofNat 52 7) ∧ inboundVa s n (BitVec.ofNat 52 7) % 8 ≠ 0) ∧
    ∃ (s : State) (n : Fin 64) (x : Xl), InboundValid s n 0 ∧ ¬ Unscrubbed s ∧ inboundVa s n 0 % 8 = 0 ∧
      (∀ acc, acc ≠ .fetch → xlate s (inboundWho s n) acc (inboundVa s n 0) = .ok x) ∧ x.region = .store ∧ touch s x true = s ∧ touch s x false = s ∧ eKind x.leaf ≠ 3 :=
  ⟨⟨s1, 0, by unfold InboundValid; decide +kernel⟩, ⟨inbound 0, 63, by decide +kernel, by unfold InboundValid; decide +kernel⟩,
    fun p h => ⟨inbound 0, 63, page2 0x10, by unfold InboundValid; decide +kernel, by unfold Unscrubbed; decide +kernel, clear_of (by revert p; decide +kernel)⟩,
    fun v h => ⟨inbound v, 63, page2 0, by revert v; unfold InboundValid; decide +kernel, by revert v; unfold Unscrubbed; decide +kernel,
      clear_of (by revert v; decide +kernel), clear_of (by revert v; decide +kernel), by revert v; decide +kernel⟩,
    by decide +kernel, by unfold waitEnds; decide +kernel, ⟨{ s1 with hub := { s1.hub with peerWaits := [⟨63, 0xC000, 0x100000000000, 0, 0⟩] } }, 63, page3 0, by decide +kernel⟩,
    ⟨inbound 0, 63, by unfold InboundValid; decide +kernel, by decide +kernel⟩,
    scrubbing, 63, page3 0, by unfold InboundValid; decide +kernel, by unfold Unscrubbed; decide +kernel, by decide +kernel, fun a h => ok_of (by cases a <;> first | exact absurd rfl h | decide +kernel), by decide +kernel,
    marked_of (by decide +kernel), marked_of (by decide +kernel), by decide +kernel⟩
theorem test_hyp_Ports : ∃ (s : State) (f : FuncId) (q : Nat), EventRoom s f.val q := ⟨events s1, 0, 0, test_events⟩
/-- Function 0 is in its slice, and function 1, with the same partition, is not enabled. -/
def meets : State := let s := shares .running; s.setFunc 1 { s.func 1 with w := (s.func 1).w.set 0 0 }
theorem test_hyp_FunctionsBegin :
    (∃ (s : State) (f : FuncId), s.hub.pfOnly = true ∧ f ≠ 0) ∧ (∃ (s : State) (f : FuncId), s.hub.pfOnly = false ∧ s.hub.lease.due = false ∧ f ≠ 0 ∧ TablesInHbm s ∧
      (s.func f.val).w[0].toNat % 2 = 0 ∧ ∀ g : FuncId, g ≠ f → (s.func g.val).w[0].toNat % 2 = 1 → (s.func g.val).inSlice = true →
        partitionsMeet (s.func f.val) (s.func g.val) = false) ∧
    (∃ (s : State) (f g : FuncId), s.hub.pfOnly = false ∧ s.hub.lease.due = false ∧ g ≠ f ∧ TablesInHbm s ∧ (s.func f.val).w[0].toNat % 2 = 0 ∧
      (s.func g.val).w[0].toNat % 2 = 1 ∧ (s.func g.val).inSlice = true ∧ partitionsMeet (s.func f.val) (s.func g.val) = true) ∧
    (∃ s : State, s.hub.lease.state = 0) ∧ (∃ s : State, s.hub.lease.state ≠ 0) ∧
    (∃ (s : State) (f : FuncId) (lo hi : BitVec 8), f ≠ 0 ∧ s.hub.pfOnly = false ∧ lo.toNat ≤ (s.func f.val).w[8].toNat / 256 % 256 ∧ (s.func f.val).w[8].toNat / 256 % 256 ≤ hi.toNat ∧
      (s.func f.val).handOver = none) ∧
    (∃ (s : State) (f : FuncId) (lo : BitVec 8), f ≠ 0 ∧ s.hub.pfOnly = false ∧ (s.func f.val).w[8].toNat / 256 % 256 < lo.toNat ∧ EventRoom s 0 0) ∧
    (∃ (s : State) (f : FuncId), f ≠ 0 ∧ s.hub.pfOnly = true ∧ EventRoom s 0 0) ∧
    (∃ (s : State) (f : FuncId) (q : Queue), ((s.queues.map (·.2)).filter fun q => q.w[0].toNat % 8 == 3 && q.w[7].toNat % 32 == f.val)[0]? = some q) ∧
    (∃ (s : State) (f : FuncId), (s.func f.val).handOver = some 5 ∧ (s.func f.val).waits ≠ []) ∧
    ∃ (s : State) (f : FuncId), (s.func f.val).handOver = some 5 ∧ (s.func f.val).waits = [] :=
  ⟨⟨{ s1 with hub := { s1.hub with pfOnly := true } }, 16, by decide +kernel⟩, ⟨s1, 16, by decide +kernel, by decide +kernel, by decide +kernel, by unfold TablesInHbm; decide +kernel, by decide +kernel, by decide +kernel⟩,
    ⟨meets, 1, 0, by decide +kernel, by decide +kernel, by decide +kernel, by unfold TablesInHbm; decide +kernel, by decide +kernel⟩,
    ⟨s1, by decide +kernel⟩, ⟨{ s1 with hub := { s1.hub with lease := { s1.hub.lease with state := 1 } } }, by decide +kernel⟩,
    ⟨s1.setFunc 1 { w := (Vector.replicate 10 0).set 8 0xFF00 }, 1, 255, 255, by decide +kernel⟩,
    ⟨events s1, 1, 1, by decide, by decide +kernel, by decide +kernel, test_events⟩,
    ⟨{ events s1 with hub := { s1.hub with pfOnly := true } }, 1, by decide, rfl, room_of (by decide +kernel)⟩,
    ⟨ring s1 0 3 2 0 0, 0, _, rfl⟩,
    ⟨s1.setFunc 1 { handOver := some 5, waits := [0] }, 1, by decide +kernel⟩, s1.setFunc 1 { handOver := some 5 }, 1, by decide +kernel⟩
theorem test_hyp_Leases : (∀ n ∈ [0, 1, 2], ∃ s : State, s.hub.lease.state = n ∧ s.hub.pfOnly = false ∧ s.copies = []) ∧ ∃ s : State, s.hub.pfOnly = true :=
  ⟨fun n h => ⟨{ s1 with hub := { s1.hub with lease := { s1.hub.lease with state := n } } }, by revert n; decide +kernel⟩,
    { s1 with hub := { s1.hub with pfOnly := true } }, by decide +kernel⟩
theorem test_hyp_Spdm : (∃ (s : State) (l : List Nat), s.hub.lease.record = some l ∧ l ≠ [] ∧ ∀ x ∈ l, x < 256) ∧ ∃ s : State, s.hub.lease.record = none :=
  ⟨⟨{ s1 with hub := { s1.hub with lease := { s1.hub.lease with record := some [255] } } }, [255], by decide +kernel⟩, s1, by decide +kernel⟩

/-! Translation. -/

/-- And leaves of 32 MiB at 2^25 and of 64 GiB at 2^36. -/
def large : State := { s1 with mem := memWrite (memWrite s1.mem 0x104008 8 0x100000060D) 0x108008 8 0x200060D }
def home : Who := (issuer s1 0).eng 0
theorem test_hyp_Translation :
    (∀ va ∈ [0x8001, 0x20000], ∃ (s : State) (w : Who) (t1 t2 t3 : Nat), Walked s w va t1 t2 t3 ∧ if va = 0x8001 then
      Leaf s (tableEntry s t3 (va / 2 ^ 14 % 2048)) 14 va ∧ Permitted (tableEntry s t3 (va / 2 ^ 14 % 2048)) .atomic w.iss.secure ∧
      ¬ Permitted (tableEntry s t3 (va / 2 ^ 14 % 2048)) .fetch w.iss.secure else tableEntry s t3 (va / 2 ^ 14 % 2048) % 2 = 0) ∧
    (∃ (s : State) (w : Who) (va t1 t2 : Nat), va < 2 ^ 52 ∧ s.staleXlat = false ∧ TableFrame s w.iss.space 0 ∧ Points s w.iss.space (va / 2 ^ 47 % 32) t1 1 ∧
      Points s t1 (va / 2 ^ 36 % 2048) t2 2 ∧ Leaf s (tableEntry s t2 (va / 2 ^ 25 % 2048)) 25 va ∧ Permitted (tableEntry s t2 (va / 2 ^ 25 % 2048)) .store false) ∧
    (∃ (s : State) (w : Who) (va t1 : Nat), va < 2 ^ 52 ∧ s.staleXlat = false ∧ TableFrame s w.iss.space 0 ∧ Points s w.iss.space (va / 2 ^ 47 % 32) t1 1 ∧
      Leaf s (tableEntry s t1 (va / 2 ^ 36 % 2048)) 36 va ∧ Permitted (tableEntry s t1 (va / 2 ^ 36 % 2048)) .load false) ∧
    ∃ (s : State) (w : Who), (∀ lvl, ¬ TableFrame s w.iss.space lvl) ∧ s.hub.aframes.toNat ≤ 2 ^ 20 :=
  ⟨fun va h => ⟨s1, home, 0x7F8000004000, 0x7F8000008000, 0x7F800000C000, ⟨by revert va; decide +kernel, by decide +kernel, frame_of (by decide +kernel),
      ⟨frame_of (by decide +kernel), by revert va; decide +kernel⟩, ⟨frame_of (by decide +kernel), by revert va; decide +kernel⟩,
      ⟨frame_of (by decide +kernel), by revert va; decide +kernel⟩⟩, by
      rw [List.mem_cons, List.mem_singleton] at h
      rcases h with rfl | rfl
      · exact ⟨leaf_of (by decide +kernel), by unfold Permitted; decide +kernel, by unfold Permitted; decide +kernel⟩
      · rw [if_neg (by decide)]; decide +kernel⟩,
    ⟨large, home, 0x3FFFFFF, 0x7F8000004000, 0x7F8000008000, by decide, by decide +kernel, frame_of (by decide +kernel), ⟨frame_of (by decide +kernel), by decide +kernel⟩,
      ⟨frame_of (by decide +kernel), by decide +kernel⟩, leaf_of (by decide +kernel), by unfold Permitted; decide +kernel⟩,
    ⟨large, home, 0x1FFFFFFFFF, 0x7F8000004000, by decide, by decide +kernel, frame_of (by decide +kernel), ⟨frame_of (by decide +kernel), by decide +kernel⟩,
      leaf_of (by decide +kernel), by unfold Permitted; decide +kernel⟩,
    s1, { home with iss := { home.iss with space := 0x7F8000000008 } }, fun l f => absurd f.aligned (by decide +kernel), by decide +kernel⟩
theorem test_hyp_MemoryFormKept : Memory.wf s1.mem = true ∧ step s1 = .next (after (step s1)) := by
  refine ⟨by decide +kernel, ?_⟩
  have h : (match step s1 with | .next _ => true | _ => false) = true := by decide +kernel
  revert h
  cases step s1 <;> simp [after]

/-- A leaf with A and D, as the access found it, and one without. -/
theorem test_hyp_AccessBits : (∃ x : Xl, x.leaf.testBit 9 = true ∧ x.leaf.testBit 10 = true) ∧
    ∃ (s : State) (x : Xl), ¬ (x.leaf.testBit 9 = true) ∧ x.leaf = memRead s.mem (s.hub.aback.toNat + (x.entry - 0x7F8000000000)) 8 :=
  ⟨⟨page2 0, by decide⟩, leaf s1 2 0x30000D, ⟨0x300000, 0x30000D, 0x7F800000C010, .hbm⟩, by decide, by decide +kernel⟩

end
end Sys2Proof.Tests
end

section
/-! SUPPORT. Scalar instructions of the control thread: what a result, a jump and a branch leave (R90, R96, R97), and the
words that arithmetic and counting give (R91 to R95). -/
namespace Sys2Proof.Proofs.Scalar
open Sys2Proof Sys2Proof.Machine Sys2Proof.Claims Sys2Proof.Laws

/-! The state after an instruction. -/

theorem gr_eq_r (s : State) (x : GReg) : gr s x = s.r x := if_congr (Fin.ext_iff (b := 0)).symm rfl rfl

@[simp] theorem setG_me (s : State) (h : HartId) (d : Fin 32) (v : Word) : (s.setG h d v).me = s.me := by simp [State.me]

/-- What is written to g0 is discarded (R90). -/
theorem wroteAt_zero (s : State) (v p : Word) : wroteAt s 0 v p = wroteAt s 0 0 p := rfl

theorem retire_eq_passed (s : State) (len : Nat) : retire s len = passed s len := rfl

/-- Writing g[d] first and then moving PC is one write of the hart; a write to g0 is none. -/
theorem wroteAt_setG (s : State) (d : Fin 32) (v p : Word) : wroteAt (s.setG s.me d v) 0 0 p = wroteAt s d v p := by
  by_cases hd : d = 0
  · subst hd; rw [setG_zero]; rfl
  · have hv : d.val ≠ 0 := fun e => hd (Fin.ext e)
    rw [wroteAt, setG_me, State.setG, if_neg hd, onHart_onHart]
    exact onHart_congr (by simp only [if_neg hv]; rfl)

@[simp] theorem setG_pcOf (s : State) (d : Fin 32) (v : Word) : pcOf (s.setG s.me d v) = pcOf s := by
  unfold pcOf
  rw [setG_me]
  unfold State.setG
  split
  · rfl
  · rw [hart_onHart_same]

theorem setPc_wroteAt (s : State) (d : Fin 32) (v p q : Word) : (wroteAt s d v p).setPc s.me q = wroteAt s d v q := by
  simp only [wroteAt, State.setPc, onHart_onHart]

theorem retire_setG (s : State) (d : Fin 32) (v : Word) (len : Nat) : retire (s.setG s.me d v) len = wrote s d v len := by
  rw [retire_eq_passed, passed, wrote, wroteAt_setG, setG_pcOf, wrote]

theorem retire_setG_setPc (s : State) (d : Fin 32) (v t : Word) (len : Nat) :
    (retire (s.setG s.me d v) len).setPc s.me t = wroteAt s d v t := by
  rw [retire_setG, wrote, setPc_wroteAt]

/-! Results, jumps and branches of the control thread. -/

theorem result_control {s : State} (h : InControl s) (i : Instr) (d : GReg) (v : Word) :
    result i d v s = .next (wrote s d v (instrLen i)) := by
  rw [result, inControl_control h]
  exact finish_ok (by rw [put, go_modify, retire_setG])

/-- An instruction of `len` bytes whose meaning is a register result (R90). -/
theorem exec_result {s : State} (h : InControl s) {i : Instr} {d : GReg} {v : Word} {len : Nat}
    (he : exec i s = result i d v s) (hl : instrLen i = len) : exec i s = .next (wrote s d v len) := by
  rw [he, result_control h, hl]

theorem exec_result_word {s : State} (h : InControl s) {i : Instr} {d : GReg} {v : Word} {f b a x maj : Nat} {c : Bool}
    (he : exec i s = result i d v s) (hw : encode i = mkWord f b a x maj c) : exec i s = .next (wrote s d v 4) :=
  exec_result h he (instrLen_word hw)

theorem exec_result_parcel {s : State} (h : InControl s) {i : Instr} {d : GReg} {v : Word} {z y x q : Nat}
    (he : exec i s = result i d v s) (hw : encode i = mkParcel z y x q) (hq : 0 < q) : exec i s = .next (wrote s d v 2) :=
  exec_result h he (instrLen_parcel hw hq)

/-- An odd target traps before the link is written (R96). -/
theorem jumpTo_control {s : State} (h : InControl s) (enc : Nat) (d : GReg) (len : Nat) (t : Word) :
    inControl enc (jumpTo d len t) s =
      .next (if t.toNat % 2 = 0 then wroteAt s d (pcOf s + BitVec.ofNat 64 len) t else trapped s 0x03 t) := by
  rw [inControl_control h]
  by_cases ht : t.toNat % 2 = 0
  · rw [if_pos ht]
    refine finish_ok ?_
    rw [jumpTo, if_neg (by omega)]
    simp only [go_modify, retire_setG_setPc]
    rfl
  · rw [if_neg ht]
    have run : (jumpTo d len t).run.run s = (.error { cause := 0x03, tval := t }, s) := by
      rw [jumpTo, if_pos (by omega), go_trap_bind, BitVec.ofNat_toNat, BitVec.setWidth_eq]
    have th : s.cur.thread = .control := h
    rw [finish_error run, if_neg (by decide : (3 : Nat) ≠ waits), takeTrap, th]
    rfl

theorem branch_control {s : State} (h : InControl s) (i : Instr) (taken : Bool) (off : Word) :
    branch i taken off s = .next (wroteAt s 0 0 (if taken then pcOf s + off else pcOf s + BitVec.ofNat 64 (instrLen i))) := by
  rw [branch, inControl_control h]
  refine finish_ok ?_
  rw [branchTo, go_modify]
  cases taken with
  | false => rfl
  | true => simp only [if_true, retire_eq_passed, passed, wrote, setPc_wroteAt]; rfl

/-- A branch of `len` bytes (R97). -/
theorem exec_branch {s : State} (h : InControl s) {i : Instr} {taken : Bool} {off : Word} {len : Nat}
    (he : exec i s = branch i taken off s) (hl : instrLen i = len) :
    exec i s = .next (wroteAt s 0 0 (if taken then pcOf s + off else pcOf s + BitVec.ofNat 64 len)) := by
  rw [he, branch_control h, hl]

/-! Values: the shifted immediate (R95). -/

theorem mul_8192_eq_shiftLeft (x : Word) : x * (8192 : Word) = x <<< 13 := BitVec.mul_twoPow_eq_shiftLeft x 13

/-! Values: products, quotients and remainders (R92). -/

/-- The high half of a product taken at 128 bits is the high half of the exact product. -/
theorem high_eq_ofInt (x : Int) : high x = (BitVec.ofInt 128 x >>> 64).setWidth 64 := by
  apply BitVec.eq_of_toNat_eq
  simp only [high, wordOf, BitVec.toNat_setWidth, BitVec.toNat_ushiftRight, BitVec.toNat_ofInt, Nat.shiftRight_eq_div_pow]
  omega

theorem high_signed (a b : Word) : high (a.toInt * b.toInt) = ((a.signExtend 128 * b.signExtend 128) >>> 64).setWidth 64 := by
  rw [high_eq_ofInt, BitVec.ofInt_mul]; rfl

theorem high_unsigned (a b : Word) :
    high ((a.toNat : Int) * (b.toNat : Int)) = ((a.setWidth 128 * b.setWidth 128) >>> 64).setWidth 64 := by
  rw [high_eq_ofInt, BitVec.ofInt_mul, BitVec.ofInt_natCast, BitVec.ofInt_natCast, BitVec.ofNat_toNat, BitVec.ofNat_toNat]

theorem high_mixed (a b : Word) : high (a.toInt * (b.toNat : Int)) = ((a.signExtend 128 * b.setWidth 128) >>> 64).setWidth 64 := by
  rw [high_eq_ofInt, BitVec.ofInt_mul, BitVec.ofInt_natCast, BitVec.ofNat_toNat]; rfl

theorem divS_eq (a b : Word) : divS a b = if b = 0 then 0xFFFFFFFFFFFFFFFF#64 else a.sdiv b := by
  refine if_congr Iff.rfl rfl (BitVec.eq_of_toInt_eq ?_)
  rw [wordOf, BitVec.toInt_ofInt, BitVec.toInt_sdiv]

theorem remS_eq (a b : Word) : remS a b = if b = 0 then a else a.srem b := by
  refine if_congr Iff.rfl rfl ?_
  rw [wordOf, ← BitVec.toInt_srem, BitVec.ofInt_toInt]

theorem divU_eq (a b : Word) : divU a b = if b = 0 then 0xFFFFFFFFFFFFFFFF#64 else a / b := by
  refine if_congr Iff.rfl rfl ?_
  rw [← BitVec.toNat_udiv, BitVec.ofNat_toNat, BitVec.setWidth_eq]

theorem remU_eq (a b : Word) : remU a b = if b = 0 then a else a % b := by
  refine if_congr Iff.rfl rfl ?_
  rw [← BitVec.toNat_umod, BitVec.ofNat_toNat, BitVec.setWidth_eq]

/-- The identity of R92 for the signed quotient, at divisor 0 and at −2^63 / −1 as well. -/
theorem divS_mul_add_remS (a b : Word) : divS a b * b + remS a b = a := by
  by_cases hb : b = 0
  · rw [divS, remS, if_pos hb, if_pos hb, hb, mul_zero, zero_add]
  · rw [divS, remS, if_neg hb, if_neg hb, wordOf, wordOf]
    calc BitVec.ofInt 64 (a.toInt.tdiv b.toInt) * b + BitVec.ofInt 64 (a.toInt.tmod b.toInt)
        = BitVec.ofInt 64 (a.toInt.tdiv b.toInt * b.toInt + a.toInt.tmod b.toInt) := by
          rw [BitVec.ofInt_add, BitVec.ofInt_mul, BitVec.ofInt_toInt]
      _ = a := by rw [Int.tdiv_mul_add_tmod, BitVec.ofInt_toInt]

theorem divU_mul_add_remU (a b : Word) : divU a b * b + remU a b = a := by
  by_cases hb : b = 0
  · rw [divU, remU, if_pos hb, if_pos hb, hb, mul_zero, zero_add]
  · rw [divU, remU, if_neg hb, if_neg hb]
    calc BitVec.ofNat 64 (a.toNat / b.toNat) * b + BitVec.ofNat 64 (a.toNat % b.toNat)
        = BitVec.ofNat 64 (a.toNat / b.toNat * b.toNat + a.toNat % b.toNat) := by
          rw [BitVec.ofNat_add, BitVec.ofNat_mul, BitVec.ofNat_toNat, BitVec.setWidth_eq]
      _ = a := by rw [Nat.div_add_mod', BitVec.ofNat_toNat, BitVec.setWidth_eq]

/-! Values: counts of bits (R91). -/

theorem leadingZeros_clz64 (a : Word) : leadingZeros a (clz64 a) := by
  by_cases ha : a = 0
  · rw [clz64, if_pos ha, ha]
    exact ⟨le_rfl, by decide, fun h => absurd h (lt_irrefl _)⟩
  · have hn : a.toNat ≠ 0 := fun e => ha (BitVec.eq_of_toNat_eq e)
    have hlog : a.toNat.log2 < 64 := (Nat.log2_lt hn).mpr a.isLt
    rw [clz64, if_neg ha]
    refine ⟨by omega, ?_, fun _ => ?_⟩
    · rw [show 64 - (63 - a.toNat.log2) = a.toNat.log2 + 1 by omega]; exact Nat.lt_log2_self
    · rw [show 63 - (63 - a.toNat.log2) = a.toNat.log2 by omega]; exact Nat.log2_self_le hn

/-- Bits below n that are all zero make a multiple of 2^n. -/
theorem toNat_mod_of_low_zero {a : Word} {n : Nat} (h : ∀ i < n, a.getLsbD i = false) : a.toNat % 2 ^ n = 0 := by
  refine Nat.eq_of_testBit_eq fun i => ?_
  rw [Nat.testBit_mod_two_pow, Nat.zero_testBit]
  by_cases hi : i < n
  · rw [← h i hi, BitVec.getLsbD, decide_eq_true hi, Bool.true_and]
  · rw [decide_eq_false hi, Bool.false_and]

theorem trailingZeros_ctz64 (a : Word) : trailingZeros a (ctz64 a) := by
  unfold ctz64
  cases hf : (List.range 64).find? fun i => a.getLsbD i with
  | none =>
    have low : ∀ i < 64, a.getLsbD i = false := by simpa using List.find?_range_eq_none.mp hf
    exact ⟨le_rfl, toNat_mod_of_low_zero low, fun h => absurd h (lt_irrefl _)⟩
  | some n =>
    obtain ⟨hbit, hmem, hlow⟩ := List.find?_range_eq_some.mp hf
    have low : ∀ i < n, a.getLsbD i = false := by simpa using hlow
    refine ⟨(List.mem_range.mp hmem).le, toNat_mod_of_low_zero low, fun _ => ?_⟩
    rw [Option.getD_some, ← Nat.toNat_testBit]
    exact congrArg Bool.toNat hbit

theorem length_filter_eq_sum (p : Nat → Bool) (l : List Nat) : (l.filter p).length = (l.map fun i => (p i).toNat).sum := by
  induction l with
  | nil => rfl
  | cons i l ih => cases h : p i <;> simp [h, ih, Nat.add_comm]

theorem pop64_eq_oneBits (a : Word) : pop64 a = oneBits a := by
  simp only [pop64, oneBits, length_filter_eq_sum, BitVec.getLsbD, Nat.toNat_testBit]

/-! Values: comparisons (R91, R97). -/

theorem ite_slt (a b x y : Word) : (if a.slt b then x else y) = if a.toInt < b.toInt then x else y :=
  if_congr BitVec.slt_iff_toInt_lt rfl rfl

theorem ite_ult (a b x y : Word) : (if a.ult b then x else y) = if a.toNat < b.toNat then x else y :=
  if_congr BitVec.ult_iff_lt rfl rfl

theorem not_slt_eq (a b : Word) : (!a.slt b) = decide (b.toInt ≤ a.toInt) := by
  rw [BitVec.slt_eq_decide, ← decide_not]; exact decide_eq_decide.mpr not_lt

theorem not_ult_eq (a b : Word) : (!a.ult b) = decide (b.toNat ≤ a.toNat) := by
  rw [BitVec.ult_eq_decide, ← decide_not]; exact decide_eq_decide.mpr not_lt

theorem bne_eq_decide (a b : Word) : (a != b) = decide (a ≠ b) := decide_not.symm

/-! The tables of R91 to R94 and R97, row by row: each instruction is a register result, or a branch, of its row's value. -/

theorem exec_registerOps1 {s : State} (h : InControl s) : ∀ p ∈ registerOps1, ∀ d a b : GReg,
    exec (p.1 d a b) s = .next (wrote s d (p.2 (gr s a) (gr s b)) 4) := by
  simp only [registerOps1, List.forall_mem_cons, List.not_mem_nil, IsEmpty.forall_iff, implies_true, and_true, gr_eq_r,
    ← ite_slt, ← ite_ult]
  refine ⟨?add, ?sub, ?and, ?or, ?xor, ?andn, ?sll, ?srl, ?sra, ?slt, ?sltu, ?min, ?max, ?minu, ?maxu⟩
  all_goals exact fun _ _ _ => exec_result_word h rfl rfl

theorem exec_registerOps2 {s : State} (h : InControl s) : ∀ p ∈ registerOps2, ∀ d a b : GReg,
    exec (p.1 d a b) s = .next (wrote s d (p.2 (gr s a) (gr s b)) 4) := by
  simp only [registerOps2, List.forall_mem_cons, List.not_mem_nil, IsEmpty.forall_iff, implies_true, and_true, gr_eq_r,
    ← high_signed, ← high_unsigned, ← high_mixed, ← divS_eq, ← divU_eq, ← remS_eq, ← remU_eq]
  refine ⟨?mul, ?mulh, ?mulhu, ?mulhsu, ?div, ?divu, ?rem, ?remu⟩
  all_goals exact fun _ _ _ => exec_result_word h rfl rfl

theorem exec_immediateOps {s : State} (h : InControl s) (d a : GReg) : ∀ p ∈ immediateOps, ∀ i : Imm13,
    exec (p.1 d a i) s = .next (wrote s d (p.2 (gr s a) (i.signExtend 64)) 4) := by
  simp only [immediateOps, List.forall_mem_cons, List.not_mem_nil, IsEmpty.forall_iff, implies_true, and_true, gr_eq_r]
  refine ⟨?addi, ?andi, ?ori, ?xori, ?slti, ?sltiu⟩
  all_goals exact fun _ => exec_result_word h rfl rfl

theorem exec_shiftOps {s : State} (h : InControl s) (d a : GReg) : ∀ p ∈ shiftOps, ∀ n : Sh6,
    exec (p.1 d a n) s = .next (wrote s d (p.2 (gr s a) n.toNat) 4) := by
  simp only [shiftOps, List.forall_mem_cons, List.not_mem_nil, IsEmpty.forall_iff, implies_true, and_true, gr_eq_r]
  refine ⟨?shli, ?shri, ?srai⟩
  all_goals exact fun _ => exec_result_word h rfl rfl

theorem exec_branchOps {s : State} (h : InControl s) (a b : GReg) : ∀ p ∈ branchOps, ∀ i : Imm13,
    exec (p.1 a b i) s =
      .next (wroteAt s 0 0 (if p.2 (gr s a) (gr s b) then pcOf s + i.signExtend 64 * 2 else pcOf s + 4)) := by
  simp only [branchOps, List.forall_mem_cons, List.not_mem_nil, IsEmpty.forall_iff, implies_true, and_true, gr_eq_r,
    ← not_slt_eq, ← not_ult_eq, ← bne_eq_decide]
  refine ⟨?beq, ?bne, ?blt, ?bge, ?bltu, ?bgeu⟩
  all_goals exact fun _ => exec_branch h rfl (instrLen_word rfl)

/-! The parts of the two statements. -/

theorem registerOps_holds : Claims.RegisterOps := fun _ h =>
  List.forall_mem_append.mpr ⟨exec_registerOps1 h, exec_registerOps2 h⟩

theorem countOps_holds : Claims.CountOps := by
  intro s h d a
  rw [gr_eq_r]
  refine ⟨⟨_, leadingZeros_clz64 _, ?clz⟩, ⟨_, trailingZeros_ctz64 _, ?ctz⟩, ?cpop⟩
  case clz => exact exec_result_word h rfl rfl
  case ctz => exact exec_result_word h rfl rfl
  case cpop =>
    rw [← pop64_eq_oneBits]
    exact exec_result_word h rfl rfl

theorem divisionIdentity_holds : Claims.DivisionIdentity := by
  intro s h d a b _
  rw [gr_eq_r, gr_eq_r]
  exact ⟨divS (s.r a) (s.r b), remS (s.r a) (s.r b), divU (s.r a) (s.r b), remU (s.r a) (s.r b),
    exec_result_word h rfl rfl, exec_result_word h rfl rfl,
    exec_result_word h rfl rfl, exec_result_word h rfl rfl,
    divS_mul_add_remS _ _, divU_mul_add_remU _ _⟩

theorem immediateOps_holds : Claims.ImmediateOps := by
  intro s h d a
  refine ⟨exec_immediateOps h d a, exec_shiftOps h d a, fun i => ?_⟩
  rw [mul_8192_eq_shiftLeft]
  exact ⟨exec_result_word h rfl rfl, exec_result_word h rfl rfl⟩

theorem parcelOps_holds : Claims.ParcelOps := by
  intro s h x y n
  rw [gr_eq_r, gr_eq_r]
  refine ⟨?cAddi, ?cLi, ?cMv, ?cAdd, ?cSub, ?cAnd, ?cShli⟩
  all_goals exact exec_result_parcel h rfl rfl (by decide)

theorem jumps_holds : Claims.Jumps := by
  intro s h d a i j o z
  rw [gr_eq_r]
  refine ⟨?jl, ?cJ, ?jlr, ?cJlr⟩
  case jl => exact jumpTo_control h _ d 4 _
  case cJ =>
    have jump := jumpTo_control h (encode (.cJ o)) 0 2 (s.pc + cOff11 o)
    rw [wroteAt_zero] at jump
    exact jump
  case jlr => exact jumpTo_control h _ d 4 _
  case cJlr => exact jumpTo_control h _ _ 2 _

theorem branches_holds : Claims.Branches := by
  intro s h a b
  refine ⟨exec_branchOps h a b, fun n => ?_⟩
  have beqz := exec_branch h (i := .cBeqz a n) rfl (instrLen_parcel rfl (by decide))
  have bnez := exec_branch h (i := .cBnez a n) rfl (instrLen_parcel rfl (by decide))
  simp only [beq_iff_eq, bne_iff_ne] at beqz bnez
  rw [gr_eq_r]
  exact ⟨beqz, bnez⟩

/-- Settles O4: every instruction is a register result of the value that its row states; its length is that of its encoding. -/
theorem arithmetic : Obligations.Arithmetic :=
  ⟨registerOps_holds, countOps_holds, divisionIdentity_holds, immediateOps_holds, parcelOps_holds⟩

/-- Settles O5: a jump is `jumpTo` and a branch is `branchTo`, whose outcomes are stated once above. -/
theorem controlFlow : Obligations.ControlFlow := ⟨jumps_holds, branches_holds⟩

end Sys2Proof.Proofs.Scalar
end

section
/-! SUPPORT. Gears: the wanted gear as the harts ask for it (R291, R292), what a comparison does, the two instructions that write
GEAR.REQ (R290, R295), and the end of a change (R293, R296). -/
namespace Sys2Proof.Proofs.Gears
open Sys2Proof Sys2Proof.Machine Sys2Proof.Claims Sys2Proof.Laws Sys2Proof.Proofs.Scalar

/-! The wanted gear (R291, R292). -/

theorem requesting_iff_asks (s : State) (h : HartId) : (s.hart h).requesting = true ↔ Asks s h := by
  unfold Hart.requesting Asks
  rw [Bool.and_eq_true, beq_iff_eq, and_congr_right_iff]
  intro _
  generalize (s.hart h).live.wait = w
  split
  · exact iff_of_false Bool.false_ne_true fun ⟨barw, _, _⟩ => barw _ _ _ _ rfl
  · exact iff_of_false Bool.false_ne_true fun ⟨_, tget, _⟩ => tget _ _ rfl
  · exact iff_of_false Bool.false_ne_true fun ⟨_, _, outside⟩ => outside _ _ rfl
  · next barw tget outside => exact iff_of_true rfl ⟨barw, tget, outside⟩

theorem near_iff (x : Hart) : x.near = true ↔ x.c.st[5].toNat % 2 = 1 := beq_iff_eq

theorem wantNear_iff (s : State) (t : TileId) : wantNear s t = true ↔ WantsNear s t := by
  simp only [wantNear, List.all_eq_true, List.mem_finRange, true_imp_iff, Bool.not_eq_true', Bool.and_eq_false_imp,
    Bool.not_eq_false', requesting_iff_asks, near_iff, WantsNear]

/-! The comparison (R293). -/

/-- s, where tile t has begun a change. -/
def changeBegun (s : State) (t : TileId) : State :=
  (s.setTile t { s.tile t with
    gchg := true, nchg := (s.tile t).nchg + 1, cycBase := s.cycle t, cycSince := s.now }).later (.gearChangeEnd t)

theorem gearCheck_begins {s : State} {t : TileId} (idle : (s.tile t).gchg = false) (other : wantNear s t ≠ (s.tile t).gcur) :
    gearCheck s t = changeBegun s t :=
  if_pos (by rw [idle, bne_iff_ne.mpr other]; rfl)

theorem gearCheck_changing {s : State} {t : TileId} (h : (s.tile t).gchg = true) : gearCheck s t = s :=
  if_neg (by rw [h]; exact Bool.false_ne_true)

theorem gearCheck_agrees {s : State} {t : TileId} (h : wantNear s t = (s.tile t).gcur) : gearCheck s t = s :=
  if_neg (by rw [h, bne_self_eq_false, Bool.and_false]; exact Bool.false_ne_true)

theorem gearChangeBegins_holds : Claims.GearChangeBegins := by
  intro s t
  rw [← wantNear_iff]
  refine ⟨fun idle differs => gearCheck_begins idle ?_, fun stays => ?_⟩
  · intro same
    rw [same, ← Bool.not_eq_true] at differs
    exact iff_not_self differs
  · rcases stays with changing | agrees
    · exact gearCheck_changing changing
    · exact gearCheck_agrees (Bool.eq_iff_iff.mpr agrees)

/-! The requests (R290, R295). -/

/-- GEAR.REQ := near, the comparison, and on. -/
theorem retire_setReq (s : State) (near : Bool) :
    retire (setReq s s.me near) 4 =
      passed (gearCheck (s.setSt s.me 5 (if near then 1 else 0)) (tileOf s.me)) 4 := rfl

theorem exec_gear_legal {s : State} (c : InControl s) {x : Fld5} (hx : x.val < 2) :
    exec (.gear x) s = .next (retire (setReq s s.me (x == 1)) 4) :=
  (inControl_control c).trans (finish_ok (by rw [if_neg (by omega)]; rfl))

/-- An instruction that traps with the state as it found it (R87, R210). -/
theorem inControl_trapped {s : State} (c : InControl s) {m : M Unit} {enc cause : Nat} {tval : Word}
    (run : m.run.run s = (.error { cause := cause, tval := tval }, s)) (fault : cause ≠ waits) :
    inControl enc m s = .next (trapped s cause tval) := by
  have thread : s.cur.thread = .control := c
  rw [inControl_control c, finish_error run, if_neg fault, takeTrap, thread]
  rfl

theorem exec_gear_illegal {s : State} (c : InControl s) {x : Fld5} (hx : 2 ≤ x.val) :
    exec (.gear x) s = .next (trapped s 0x01 (BitVec.ofNat 64 (encode (.gear x)))) :=
  inControl_trapped c (by rw [if_pos hx]; rfl) (by decide)

theorem exec_setst_gear {s : State} (c : InControl s) {a : GReg} (legal : (s.r a).toNat &&& stReserved 5 = 0) :
    exec (.setst 5 a) s = .next (retire (setReq s s.me ((s.r a).toNat % 2 == 1)) 4) := by
  refine (inControl_control c).trans (finish_ok ?_)
  rw [go_get_bind]
  have h : ¬ ((s.r a).toNat &&& stReserved (5 : Fld5).val ≠ 0) := not_not_intro legal
  simp only [if_neg h]
  rfl

/-- The request of a legal `gear` as the word that stands in register 5. -/
theorem request_of_field {x : Fld5} (hx : x.val < 2) : (if (x == 1) = true then 1 else 0 : Word) = BitVec.ofNat 64 x.val := by
  obtain rfl | rfl : x = 0 ∨ x = 1 := by simp only [Fin.ext_iff]; omega
  · rfl
  · rfl

theorem request_of_word (v : Word) : (if (v.toNat % 2 == 1) = true then 1 else 0 : Word) = v &&& 1#64 := by
  apply BitVec.eq_of_toNat_eq
  rw [BitVec.toNat_and, show (1#64).toNat = 1 from rfl, Nat.and_one_is_mod]
  rcases Nat.mod_two_eq_zero_or_one v.toNat with h | h <;> rw [h] <;> rfl

/-- The reserved bits of register 5 are those but 0 and 8 (R213). -/
theorem reserved_gear {v : Word} (h : v &&& ~~~0x101#64 = 0) : v.toNat &&& stReserved 5 = 0 :=
  (BitVec.toNat_and v (~~~0x101#64)).symm.trans (congrArg BitVec.toNat h)

theorem gearRequests_holds : Claims.GearRequests := by
  intro s c x a
  rw [gr_eq_r]
  refine ⟨fun legal => ?_, exec_gear_illegal c, fun unreserved => ?_⟩
  · rw [exec_gear_legal c legal, retire_setReq, request_of_field legal]
  · rw [exec_setst_gear c (reserved_gear unreserved), retire_setReq, request_of_word]

/-! The end of a change (R293, R296). -/

/-- The harts, the tiles and memory of u are those of s. -/
def SameParts (s u : State) : Prop := (∀ h, u.hart h = s.hart h) ∧ (∀ t, u.tile t = s.tile t) ∧ u.mem = s.mem

/-- One hart's held events are set (R296). -/
def setHeld (t : TileId) (s : State) (i : Fin 8) : State :=
  (s.hart (hartOf t i)).evlate.foldl (fun s p => pendEvent s (hartOf t i) p.1 p.2)
    (s.onHart (hartOf t i) fun a => { a with evlate := [] })

theorem exec_gearChangeEnd {s : State} {t : TileId} (h : (s.tile t).gchg = true) :
    exec (.gearChangeEnd t) s = .next (gearCheck ((List.finRange 8).foldl (setHeld t)
      (s.setTile t { s.tile t with gchg := false, gcur := !(s.tile t).gcur, cycSince := s.now })) t) :=
  congrArg Host.Outcome.next (if_pos h)

theorem hart_onHart_of_fixed {s : State} {h : HartId} {f : Hart → Hart} (fixed : f (s.hart h) = s.hart h) (k : HartId) :
    (s.onHart h f).hart k = s.hart k := by
  by_cases e : h = k
  · subst e; rw [hart_onHart_same, fixed]
  · exact hart_onHart_ne s f e

theorem setHeld_nil {s : State} {t : TileId} {i : Fin 8} (empty : (s.hart (hartOf t i)).evlate = []) :
    SameParts s (setHeld t s i) := by
  unfold setHeld
  rw [empty]
  refine ⟨hart_onHart_of_fixed ?_, fun _ => rfl, rfl⟩
  rw [← empty]

theorem foldl_setHeld_nil {s : State} {t : TileId} (empty : ∀ i, (s.hart (hartOf t i)).evlate = []) (l : List (Fin 8)) :
    SameParts s (l.foldl (setHeld t) s) := by
  induction l generalizing s with
  | nil => exact ⟨fun _ => rfl, fun _ => rfl, rfl⟩
  | cons i l ih =>
    obtain ⟨harts, tiles, mem⟩ := setHeld_nil (empty i)
    obtain ⟨harts', tiles', mem'⟩ := ih (s := setHeld t s i) fun j => by rw [harts, empty]
    exact ⟨fun h => (harts' h).trans (harts h), fun u => (tiles' u).trans (tiles u), mem'.trans mem⟩

theorem gearChangeEnds_holds : Claims.GearChangeEnds := by
  intro s t changing empty
  obtain ⟨harts, tiles, mem⟩ := foldl_setHeld_nil
    (s := s.setTile t { s.tile t with gchg := false, gcur := !(s.tile t).gcur, cycSince := s.now }) empty (List.finRange 8)
  exact ⟨_, exec_gearChangeEnd changing, (tiles t).trans (tile_setTile_same ..), harts,
    fun t' n => (tiles t').trans (tile_setTile_ne s _ n.symm), mem⟩

/-- Settles O15: the model's vote is `WantsNear`, and each request and the end of a change ends in the one comparison. -/
theorem gears : Obligations.Gears := ⟨gearChangeBegins_holds, gearRequests_holds, gearChangeEnds_holds⟩

end Sys2Proof.Proofs.Gears
end
